-- ==== Sys2Proof/Word.lean ====
section
/-!
DEFINITION. Word.lean: the word types of the machine and their plainest arithmetic (00_scope "Notation").
-/

namespace Sys2Proof

/-- One byte. -/
abbrev Byte := BitVec 8

/-- A 32-bit register or instruction word (R63, R133). -/
abbrev Word := BitVec 32

/-- A 64-bit value: a register pair, an address (R67, R89). -/
abbrev DWord := BitVec 64

/-- Bits `[lo + n - 1 : lo]` of a bit vector. -/
abbrev bits {w : Nat} (lo n : Nat) (x : BitVec w) : BitVec n := x.extractLsb' lo n

/-- Bits `[lo + n - 1 : lo]` of a natural number, as a natural number. -/
def natBits (lo n x : Nat) : Nat := x / 2 ^ lo % 2 ^ n

/-- Bit `i` of a natural number. -/
abbrev natBit (i x : Nat) : Bool := x.testBit i

/-- `ceil(a / b)`. -/
def ceilDiv (a b : Nat) : Nat := (a + b - 1) / b

/-- The value of a number of `w` bits read as two's complement (R78). -/
def signedNat (w x : Nat) : Int := if x % 2 ^ w < 2 ^ (w - 1) then (x % 2 ^ w : Nat) else (x % 2 ^ w : Nat) - (2 : Int) ^ w

/-- `x` reduced modulo `2 ^ w`, as a natural number. -/
def wrapNat (w : Nat) (x : Int) : Nat := (x % (2 : Int) ^ w).toNat

/-- The bytes of a number, the lowest first (little-endian, 00_scope). -/
def leBytes : Nat → Nat → List Byte
  | 0, _ => []
  | n + 1, x => BitVec.ofNat 8 x :: leBytes n (x / 256)

/-- The number whose bytes, lowest first, are given (little-endian, 00_scope). -/
def leValue : List Byte → Nat
  | [] => 0
  | b :: bs => b.toNat + 256 * leValue bs

end Sys2Proof
end

