-- ==== Sys2Proof/Syntax.lean ====
section
/-!
DEFINITION. Syntax.lean: the instructions of Atash ISA 3.2 and the device's events, one constructor for each row of
spec/opcode_table.json (08_encoding_and_assembly R144 to R151; 95_what_each_step_holds). An instruction carries the
fields of its encoding; an event carries what names its subject and what the outside world supplies to it.
-/

namespace Sys2Proof

/-- A 7-bit register operand field (R66): 0 to 95 name v registers, 96 to 127 name k registers. -/
abbrev Reg := BitVec 7

/-- The guard of a long head or of BRC (R144): a predicate and its inversion. -/
structure Guard where
  g : BitVec 3
  neg : Bool
  deriving DecidableEq, Repr

/-- The guard that always holds: G = 7, GNEG = 0 (R156). -/
def Guard.always : Guard := ⟨7, false⟩

/-- The modifier bits of FFMA (R205). -/
structure FmaMods where
  rnd : BitVec 3
  sat : Bool
  negA : Bool
  absA : Bool
  negB : Bool
  absB : Bool
  negC : Bool
  absC : Bool
  deriving DecidableEq, Repr

/-- The modifier bits of the register form of XOP 0x11 (R206). -/
structure FloatMods where
  rnd : BitVec 3
  sat : Bool
  negA : Bool
  absA : Bool
  negB : Bool
  absB : Bool
  deriving DecidableEq, Repr

/-- The modifier bits of HFMA2 and BFMA2 (R207). -/
structure PackedMods where
  rnd : BitVec 3
  sat : Bool
  negA : Bool
  negB : Bool
  negC : Bool
  bsel : BitVec 2
  deriving DecidableEq, Repr

/-- Size, ordering, scope and hint of a long global access (Table 11.1). -/
structure GlobalMods where
  size : BitVec 3
  ord : BitVec 2
  scope : BitVec 3
  hint : BitVec 2
  deriving DecidableEq, Repr

/-- Size, ordering, scope and hop of a long scratch access (R228). -/
structure ScratchMods where
  size : BitVec 3
  ord : BitVec 2
  scope : BitVec 3
  dx : BitVec 5
  dy : BitVec 5
  deriving DecidableEq, Repr

/-- Operation, ordering, scope and type of an atomic (R231, R232). -/
structure AtomicMods where
  aop : BitVec 4
  ord : BitVec 2
  scope : BitVec 3
  type : BitVec 2
  deriving DecidableEq, Repr

/-- Head fields of CUBE (Table 13.2). -/
structure CubeMods where
  fmtA : BitVec 3
  fmtB : BitVec 3
  cmode : BitVec 2
  asrc : Bool
  acc : Bool
  sparse : Bool
  cfmt : BitVec 2
  deriving DecidableEq, Repr

/-- Tail fields of CUBE (Table 13.3). -/
structure CubeOperands where
  row0 : BitVec 5
  col0 : BitVec 4
  bslot : BitVec 6
  koff : BitVec 5
  aopnd : BitVec 7
  copnd : BitVec 5
  deriving DecidableEq, Repr

/-- Fields of CLDB (Table 13.5). -/
structure CldbFields where
  fmt : BitVec 3
  spn : BitVec 2
  space : Bool
  rel : Bool
  ring : BitVec 2
  slot : BitVec 6
  kext : BitVec 6
  srck : BitVec 5
  idxk : BitVec 5
  deriving DecidableEq, Repr

/-- The accumulator tile that CASTS, CALDS and CAZERO name (Table 13.8). -/
structure AccTile where
  row0 : BitVec 5
  col0 : BitVec 4
  nrow : BitVec 5
  ncol : BitVec 4
  deriving DecidableEq, Repr

/-- What every mailbox message carries in its header (Table 18.2), and the function that sent it (R357). -/
structure MsgHead where
  fn : Nat
  version : Nat
  tag : Nat
  asid : Nat
  opt : Nat
  len : Nat
  addr : Nat
  deriving DecidableEq, Repr

/-- One participant's share of a collective as it reaches this module over the fabric (R249). -/
structure CollShare where
  place : Nat
  kind : BitVec 2
  op : BitVec 2
  type : BitVec 2
  count : Nat
  root : Nat
  data : List Byte
  deriving DecidableEq, Repr

/-- A word that no instruction owns: a reserved OP, FN, SUB, XOP or selector, which traps ILLOP (R402), or the reserved
shift kind of OP 0x07, which traps BADVAL (R146, R403). -/
inductive ReservedWord where
  | reserved (op : BitVec 6) (sel : BitVec 8)
  | shiftKind
  deriving DecidableEq, Repr

/-- An error as a unit's code detects it (Table 24.9, Table 24.10): the row of Table 24.9, the place, what the bad word
holds (a physical address, or a cell, register or entry number), and whether it lies beyond correction. -/
structure EccReport where
  unit : Nat
  loc : Nat
  addr : Nat
  target : Nat
  wave : Nat
  ctx : Nat
  syndrome : BitVec 56
  beyond : Bool
  deriving DecidableEq, Repr

/-- What the hardware of one boot step found (R368, R457, R17, R362). -/
structure BootOutcome where
  passed : Bool
  detail : Nat
  micros : Nat
  badChannels : List Nat
  slowChannels : List Nat
  ports : BitVec 32
  podNumber : Nat
  podSize : Nat
  /-- Speed and width that the PCI Express link trained at (R356). -/
  linkSpeed : Nat
  linkWidth : Nat
  /-- The images of the firmware, the section-controller firmware and the translator (R369). -/
  images : List (List Byte)
  deriving DecidableEq, Repr

/-- One function of a container as the firmware's translator leaves it (R365): the code index of its body and the words
placed there. -/
structure TranslatedBody where
  fits : Bool
  words : List Word
  deriving DecidableEq, Repr

/-- Instructions and events, one constructor for each row of the table. -/
inductive Instr where
  -- OP 0x00 to 0x08 (R148, R165 to R167)
  | nop
  | iadd (d a b : Reg)
  | isub (d a b : Reg)
  | imul (d a b : Reg)
  | imulh (d a b : Reg)
  | imulhu (d a b : Reg)
  | imin (d a b : Reg)
  | iminu (d a b : Reg)
  | imax (d a b : Reg)
  | imaxu (d a b : Reg)
  | iabsd (d a b : Reg)
  | and (d a b : Reg)
  | or (d a b : Reg)
  | xor (d a b : Reg)
  | andn (d a b : Reg)
  | shl (d a b : Reg)
  | shr (d a b : Reg)
  | sar (d a b : Reg)
  | popc (d a : Reg)
  | clz (d a : Reg)
  | brev (d a : Reg)
  | mov (d a : Reg)
  | iaddi (d a : Reg) (imm : BitVec 11)
  | andi (d a : Reg) (imm : BitVec 11)
  | ori (d a : Reg) (imm : BitVec 11)
  | xori (d a : Reg) (imm : BitVec 11)
  | shli (d a : Reg) (n : BitVec 5)
  | shri (d a : Reg) (n : BitVec 5)
  | sari (d a : Reg) (n : BitVec 5)
  | imuli (d a : Reg) (imm : BitVec 11)
  -- OP 0x09 to 0x0C (R168, R204, R208, R210, R211)
  | isetp (pd : BitVec 3) (comb : BitVec 2) (a b : Reg) (cond : BitVec 4) (type : BitVec 2)
  | fsetp (pd : BitVec 3) (comb : BitVec 2) (a b : Reg) (cond : BitVec 4) (type : BitVec 2)
  | fadd (d a b : Reg)
  | fsub (d a b : Reg)
  | fmul (d a b : Reg)
  | fmin (d a b : Reg)
  | fmax (d a b : Reg)
  | hadd2 (d a b : Reg)
  | hmul2 (d a b : Reg)
  | hmin2 (d a b : Reg)
  | hmax2 (d a b : Reg)
  | badd2 (d a b : Reg)
  | bmul2 (d a b : Reg)
  | frcp (d a : Reg)
  | frsq (d a : Reg)
  | fsqrt (d a : Reg)
  | fex2 (d a : Reg)
  | flg2 (d a : Reg)
  | fsin (d a : Reg)
  | fcos (d a : Reg)
  | ftanh (d a : Reg)
  | frndRn (d a : Reg)
  | frndRz (d a : Reg)
  | frndRm (d a : Reg)
  | frndRp (d a : Reg)
  | i2f (d a : Reg)
  | f2i (d a : Reg)
  -- OP 0x10 to 0x18 (R226, R180)
  | ld (d a : Reg) (size : BitVec 3) (off : BitVec 8)
  | st (d a : Reg) (size : BitVec 3) (off : BitVec 8)
  | lds (d a : Reg) (size : BitVec 3) (off : BitVec 8)
  | sts (d a : Reg) (size : BitVec 3) (off : BitVec 8)
  | ldk (d a : Reg) (size : BitVec 3) (off : BitVec 8)
  | brc (g : Guard) (off : BitVec 13) (fuseId : BitVec 8)
  | bra (off : BitVec 13) (fuseId : BitVec 8)
  -- OP 0x1A (R150)
  | ret
  | exit
  | fuse (cls : BitVec 4) (id : BitVec 8)
  | regang (width : BitVec 3)
  | waitcnt (ldc stc cpc cbc rtc : BitVec 4)
  | barArv (id : BitVec 4) (exp : BitVec 10)
  | barWait (id : BitVec 4)
  | barSync (id : BitVec 4) (exp : BitVec 10)
  | yield (k : BitVec 5) (noTiles : Bool)
  | trap (code : BitVec 16)
  | brk (tag : BitVec 16)
  | sleep (n : BitVec 16)
  | setprio (p : BitVec 3)
  | fence (scope kind : BitVec 3)
  -- Long integer forms (R169 to R179)
  | imad (g : Guard) (mode : BitVec 2) (d a b c : Reg)
  | imad64 (g : Guard) (sign : Bool) (d a b c : Reg)
  | iadd64 (g : Guard) (d a b : Reg)
  | isub64 (g : Guard) (d a b : Reg)
  | lea (g : Guard) (sh : BitVec 5) (sext w32 : Bool) (d a b : Reg)
  | lop3 (g : Guard) (lut : BitVec 8) (d a b c : Reg)
  | fsh (g : Guard) (left imm : Bool) (amt : BitVec 5) (d a b c : Reg)
  | bfe (g : Guard) (len : BitVec 6) (pos : BitVec 5) (imm signed : Bool) (d a b : Reg)
  | bfi (g : Guard) (len : BitVec 6) (pos : BitVec 5) (imm : Bool) (d a b c : Reg)
  | prmt (g : Guard) (d a b c : Reg)
  | sel (g : Guard) (sp : BitVec 3) (sneg : Bool) (d a b : Reg)
  | movi (g : Guard) (d : Reg) (imm : Word)
  | idp4 (g : Guard) (asign bsign sat : Bool) (d a b c : Reg)
  | iaddc (g : Guard) (ci : BitVec 3) (cineg : Bool) (co : BitVec 3) (d a b : Reg)
  | isubc (g : Guard) (ci : BitVec 3) (cineg : Bool) (co : BitVec 3) (d a b : Reg)
  | iaddImm32 (g : Guard) (da : Reg) (imm : Word)
  | andImm32 (g : Guard) (da : Reg) (imm : Word)
  | orImm32 (g : Guard) (da : Reg) (imm : Word)
  | xorImm32 (g : Guard) (da : Reg) (imm : Word)
  | imulImm32 (g : Guard) (da : Reg) (imm : Word)
  -- Long floating-point forms (R205 to R215)
  | ffma (g : Guard) (m : FmaMods) (d a b c : Reg)
  | faddLong (g : Guard) (m : FloatMods) (d a b : Reg)
  | fsubLong (g : Guard) (m : FloatMods) (d a b : Reg)
  | fmulLong (g : Guard) (m : FloatMods) (d a b : Reg)
  | fminLong (g : Guard) (m : FloatMods) (d a b : Reg)
  | fmaxLong (g : Guard) (m : FloatMods) (d a b : Reg)
  | faddImm (g : Guard) (da : Reg) (imm : Word)
  | fsubImm (g : Guard) (da : Reg) (imm : Word)
  | fmulImm (g : Guard) (da : Reg) (imm : Word)
  | fminImm (g : Guard) (da : Reg) (imm : Word)
  | fmaxImm (g : Guard) (da : Reg) (imm : Word)
  | hfma2 (g : Guard) (m : PackedMods) (d a b c : Reg)
  | bfma2 (g : Guard) (m : PackedMods) (d a b c : Reg)
  | cvt (g : Guard) (dfmt sfmt : BitVec 4) (rnd : BitVec 3) (sat : BitVec 2) (merge : Bool) (dsel : BitVec 2) (ssel : BitVec 3) (d a b : Reg)
  | fclass (g : Guard) (type : BitVec 3) (d a : Reg)
  -- Cross-lane instructions (R216 to R222)
  | shfl (g : Guard) (minw : BitVec 3) (mode : BitVec 2) (imm : Bool) (limm : BitVec 6) (zf : Bool) (d a b : Reg)
  | vote (g : Guard) (minw : BitVec 3) (mode : BitVec 2) (ps : BitVec 3) (psneg : Bool) (pd : BitVec 3) (cnt : Bool) (d : Reg)
  | matchLanes (g : Guard) (minw : BitVec 3) (rank wide : Bool) (pd : BitVec 3) (d a : Reg)
  | redux (g : Guard) (minw op : BitVec 3) (signed : Bool) (d a : Reg)
  | scan (g : Guard) (minw op : BitVec 3) (signed exc : Bool) (d a : Reg)
  | qswz (g : Guard) (minw : BitVec 3) (pattern : BitVec 8) (d a : Reg)
  | elect (g : Guard) (minw pd : BitVec 3) (wd high : Bool) (d : Reg)
  -- Long memory forms (R227 to R235)
  | ldLong (g : Guard) (m : GlobalMods) (d a : Reg) (off : BitVec 18)
  | stLong (g : Guard) (m : GlobalMods) (d a : Reg) (off : BitVec 18)
  | ldsLong (g : Guard) (m : ScratchMods) (d a : Reg) (off : BitVec 13)
  | stsLong (g : Guard) (m : ScratchMods) (d a : Reg) (off : BitVec 13)
  | atom (g : Guard) (m : AtomicMods) (d a b c : Reg)
  | atoms (g : Guard) (m : AtomicMods) (ret : Bool) (d a b : Reg) (dx dy : BitVec 5)
  | red (g : Guard) (m : AtomicMods) (a b c : Reg)
  | pref (g : Guard) (ord : BitVec 2) (scope : BitVec 3) (hint : BitVec 2) (l2only : Bool) (a : Reg) (off : BitVec 18)
  | cctlInv (g : Guard) (a : Reg) (off : BitVec 18)
  | cctlDemote (g : Guard) (a : Reg) (off : BitVec 18)
  | cctlInvall (g : Guard)
  | ldkLong (g : Guard) (size : BitVec 3) (d a : Reg) (off : BitVec 12)
  -- Engine commands and rings (R188, R237 to R249)
  | cpy (g : Guard) (scope : BitVec 3) (dir : BitVec 2) (rel : Bool) (ring : BitVec 2) (s l crd dst : Reg)
  | coll (g : Guard) (kind op type : BitVec 2) (scope : BitVec 3) (s c h : Reg)
  | publish (g : Guard) (scope : BitVec 3) (d a : Reg)
  | shdw (g : Guard) (d a b : Reg)
  | stageAcq (g : Guard) (q : BitVec 2) (d : Reg)
  | stageRel (g : Guard) (q : BitVec 2) (a : Reg)
  -- Cube and accumulator (R274 to R284)
  | cube (g : Guard) (m : CubeMods) (o : CubeOperands)
  | cldb (g : Guard) (f : CldbFields)
  | card (g : Guard) (afmt : BitVec 3) (relu scale : Bool) (sck : BitVec 5) (row0 : BitVec 5) (col0 : BitVec 4) (d : Reg)
  | cawr (g : Guard) (afmt : BitVec 3) (row0 : BitVec 5) (col0 : BitVec 4) (a : Reg)
  | casts (g : Guard) (afmt : BitVec 3) (relu scale rel : Bool) (ring : BitVec 2) (t : AccTile) (offk sck : BitVec 5)
  | calds (g : Guard) (afmt : BitVec 3) (rel : Bool) (ring : BitVec 2) (t : AccTile) (offk : BitVec 5)
  | cazeroMask (g : Guard) (mk : BitVec 5)
  | cazeroTile (g : Guard) (t : AccTile)
  -- Rays, textures, splats (R294 to R302, R317)
  | rayt (g : Guard) (first cullb cullf : Bool) (mask : BitVec 8) (d a root : Reg)
  | raya (g : Guard) (d a b : Reg)
  | tex (g : Guard) (filter : BitVec 2) (lodx : Bool) (d a desc : Reg)
  | texg (g : Guard) (lodx : Bool) (chan : BitVec 2) (d a desc : Reg)
  | tld (g : Guard) (lodx : Bool) (d a desc : Reg)
  | texq (g : Guard) (d a desc : Reg)
  | splatRun (g : Guard) (scope : BitVec 3) (s p : Reg)
  | splatBwd (g : Guard) (scope : BitVec 3) (s p : Reg)
  -- Rings, launch, special registers, long control flow (R180 to R182, R189, R195 to R200)
  | rtt (g : Guard) (q : BitVec 2) (pd : BitVec 3) (d : Reg)
  | launch (g : Guard) (d a : Reg)
  | emit (g : Guard) (d a b : Reg)
  | glaunch (g : Guard) (d a : Reg)
  | gcancelDrain (g : Guard) (d a : Reg)
  | gcancelKill (g : Guard) (d a : Reg)
  | getsr (g : Guard) (id : BitVec 8) (d : Reg)
  | setsr (g : Guard) (id : BitVec 8) (a : Reg)
  | brx (g : Guard) (fuseId : BitVec 8) (a : Reg)
  | joinBlock (g : Guard) (a : Reg)
  | brl (g : Guard) (off : BitVec 24) (fuseId : BitVec 8)
  | call (g : Guard) (off : BitVec 24) (fuseId : BitVec 8)
  -- Events of waves, operations and engines (95_what_each_step_holds)
  | fuseTimeout (wave : Nat) (pc : Word)
  | fusehang (wave entry : Nat)
  | missSplit (wave entry : Nat)
  | deferredSpillFill (wave quad : Nat)
  | sleepExpire (wave entry : Nat)
  | memOpComplete (wave op : Nat)
  | pageWalk (sect asid : Nat) (va : DWord) (kind : BitVec 4)
  | cubePassBegin (core : Nat)
  | cubePassWrite (core : Nat)
  | cubeAssistComplete (core : Nat)
  | accMoveBegin (core : Nat)
  | accMoveWrite (core : Nat)
  | weightSlotFill (core : Nat)
  | lazyRefill (core slot : Nat)
  | rtComplete (wave op : Nat)
  | copyEngineTake (sect : Nat)
  | copyComplete (sect cmd : Nat)
  | publishExchange (sect cmd : Nat)
  | collPeerLost (sect cmd : Nat)
  | splatEngineTake (sect : Nat)
  | splatComplete (sect : Nat)
  | batchTimeout (die ctx node grid : Nat)
  | joinParentPush (die : Nat)
  | pendingLaunchPop (core : Nat)
  | workgroupStart (sect : Nat)
  | waveRetire (wave : Nat)
  | guidonGrant (grid level holder : Nat)
  | guidonRangeRequest (grid level holder : Nat)
  | permitReturn (link : Nat)
  | gridComplete (grid : Nat)
  -- Queues and command blocks (R323 to R326, R365)
  | queueLoad (q : Nat)
  | grid (q version record param tag : Nat)
  | copy (q scope record dst : Nat) (crd : List Word)
  | signal (q : Nat) (add : Bool) (addr value : Nat)
  | wait (q cond addr value : Nat)
  | umxload (q container result : Nat)
  | barrier (q : Nat)
  | timestamp (q addr : Nat)
  -- Pod-wide grids (R333 to R336, R450, R451)
  | startTimeout (gen : Nat)
  | poolRangeRequest (root gen place lo hi : Nat)
  -- Pre-emption (R341 to R354, R454)
  | deadlineExpire (wg : Nat)
  | clusterSave (cluster : Nat)
  | saveTimeout (cluster : Nat)
  | clusterResume (cluster core : Nat)
  -- Mailbox registers and messages (R357 to R360)
  | write (h : MsgHead) (data : List Byte)
  | queuePut (h : MsgHead) (queue : Nat)
  | install (h : MsgHead) (queue shadow pool poolSize heapSize : Nat) (debug : Bool) (capbase : Word)
  | remove (h : MsgHead) (queue : Nat)
  | removeDrainEnd (queue : Nat)
  | replayByToken (h : MsgHead) (token result : Nat)
  | replayByPage (h : MsgHead) (result : Nat)
  | fenceOrder (h : MsgHead)
  | inval (h : MsgHead) (length : Nat)
  | evict (h : MsgHead)
  | read (h : MsgHead) (bus count : Nat)
  | report (h : MsgHead) (nonce : List Byte) (bus : Nat)
  | extend (h : MsgHead) (index : Nat) (value : List Byte)
  | stage (h : MsgHead) (bus size : Nat) (image : List Byte)
  | commit (h : MsgHead)
  | vfasid (h : MsgHead) (vf base count : Nat)
  | vfmsix (h : MsgHead) (fn first count : Nat)
  | power (h : MsgHead) (watts : Nat)
  -- Reports, debug, errors, reset and links
  | debugResume (ctx wave dump : Nat)
  | debugStep (ctx wave dump : Nat)
  | debugKill (ctx wave dump : Nat)
  | readregs (ctx wave dump addr : Nat)
  | writeregs (ctx wave dump addr : Nat)
  | hangWatchdog (ctx : Nat)
  | illop (c : ReservedWord)
  | pktstraddle
  | reservedMessageType (h : MsgHead) (type : Nat)
  | unknownCommandType (q : Nat)
  | rootReturnsGeneration (wave op : Nat)
  | shadowRegionOpened (sect cmd : Nat)
  | collComplete (sect cmd : Nat) (shares : List CollShare)
  | countReport (root gen place completed cancelled : Nat) (final : Bool) (err lost : Nat) (counts : List Nat) (recs : List (Nat × List Byte))
  | moduleLost (root gen place : Nat)
  -- Inputs that only the outside brings
  | eccError (e : EccReport)
  | bootStep (r : BootOutcome)
  | dvfsChange (point : BitVec 2) (cause : BitVec 2)
  | rilrakFlitError (port : BitVec 5) (retrain : Bool)
  | pcieLinkTrained (speed width : Nat)
  | machineCheckLogRdidxWrite (value : Nat)
  | faultqRdidxWrite (ctx value : Nat)
  | umxloadFinish (q : Nat) (bodies : List TranslatedBody)
  | halyardLaunch (ctxid root gen : Nat) (span : List Nat) (record : List Byte)
  | halyardAck (root gen child : Nat)
  | halyardStart (root gen : Nat)
  | halyardAbort (root gen : Nat)
  | halyardCancel (root gen : Nat) (kill : Bool)
  | sqtailWrite (fn tail : Nat) (fetched : List Byte)
  | cqheadWrite (fn head : Nat)
  | mailboxRegWrite (fn offset value : Nat)
  | yieldRequest (ctx : Nat)
  | schedulerTakeover
  | coldReset
  | warmReset
  | pcieLinkDown
  | pcieRetrainTimeout
  | pcieCorrectableError
  | handoverTimeout
  | stagedFirmwareReady
  deriving DecidableEq, Repr

end Sys2Proof
end

