-- ==== Sys2Proof/WellFormed.lean ====
section
/-!
DEFINITION. WellFormed.lean: the terms of Instr that an encoding, a message or an event can denote. A field that the
encoding of a form reserves holds zero in the term (R144, R163, R404), and an event's data have the length the manual gives.
-/

namespace Sys2Proof

/-- Well-formed instructions: what a form reserves is zero, and a branch that always goes is BRA (R145). -/
def Instr.wf : Instr → Bool
  | .brc g _ _ => g != .always
  | .fsh _ _ imm _ _ _ _ c => !imm || c == 0
  | .bfe _ _ _ imm _ _ _ b => !imm || b == 0
  | .bfi _ _ _ imm _ _ _ c => !imm || c == 0
  | .shfl _ _ _ imm _ _ _ _ b => !imm || b == 0
  | .vote _ _ mode _ _ pd cnt d => if mode == 2 then pd == 0 else !cnt && d == 0
  | .elect _ _ _ wd _ d => wd || d == 0
  | .atom _ m _ _ _ c => m.aop == 7 || c == 0
  | .red _ m _ _ c => m.aop == 7 || c == 0
  | .atoms _ _ r d _ _ _ _ => r || d == 0
  | .cldb _ f => f.rel || f.idxk == 0
  | .copy _ _ _ _ crd => crd.length == 5
  | .halyardLaunch _ _ _ span record => decide (span.length ≤ 256) && record.length == 128
  | .sqtailWrite _ _ fetched => fetched.length % 64 == 0
  | .write h data => data.length == h.len && decide (1 ≤ h.len) && decide (h.len ≤ 48)
  | .report _ nonce _ => nonce.length == 32
  | .extend _ _ value => value.length == 47
  | _ => true

/-- The instructions that the sequencer fetches, as against the device's events (95_what_each_step_holds). -/
def Instr.isEvent : Instr → Bool
  | .fuseTimeout .. | .fusehang .. | .missSplit .. | .deferredSpillFill .. | .sleepExpire .. | .memOpComplete ..
  | .pageWalk .. | .cubePassBegin .. | .cubePassWrite .. | .cubeAssistComplete .. | .accMoveBegin .. | .accMoveWrite ..
  | .weightSlotFill .. | .lazyRefill .. | .rtComplete .. | .copyEngineTake .. | .copyComplete .. | .publishExchange ..
  | .collComplete .. | .collPeerLost .. | .splatEngineTake .. | .splatComplete .. | .batchTimeout .. | .joinParentPush ..
  | .pendingLaunchPop .. | .workgroupStart .. | .waveRetire .. | .guidonGrant .. | .guidonRangeRequest ..
  | .permitReturn .. | .gridComplete .. | .queueLoad .. | .grid .. | .copy .. | .signal .. | .wait .. | .umxload ..
  | .barrier .. | .timestamp .. | .halyardLaunch .. | .halyardAck .. | .halyardStart .. | .startTimeout ..
  | .halyardAbort .. | .halyardCancel .. | .poolRangeRequest .. | .countReport .. | .moduleLost .. | .yieldRequest ..
  | .deadlineExpire .. | .clusterSave .. | .saveTimeout .. | .clusterResume .. | .sqtailWrite .. | .cqheadWrite ..
  | .mailboxRegWrite .. | .write .. | .queuePut .. | .install .. | .remove .. | .removeDrainEnd .. | .replayByToken ..
  | .replayByPage .. | .fenceOrder .. | .inval .. | .evict .. | .read .. | .report .. | .extend .. | .stage ..
  | .commit .. | .handoverTimeout | .vfasid .. | .vfmsix .. | .power .. | .faultqRdidxWrite .. | .debugResume ..
  | .debugStep .. | .debugKill .. | .readregs .. | .writeregs .. | .eccError .. | .hangWatchdog .. | .schedulerTakeover
  | .coldReset | .warmReset | .bootStep .. | .dvfsChange .. | .rilrakFlitError .. | .pcieLinkDown | .pcieRetrainTimeout
  | .reservedMessageType .. | .unknownCommandType .. | .rootReturnsGeneration .. | .shadowRegionOpened ..
  | .umxloadFinish .. | .stagedFirmwareReady | .pcieLinkTrained .. | .pcieCorrectableError
  | .machineCheckLogRdidxWrite .. => true
  | _ => false

end Sys2Proof
end

