-- ==== Sys2Proof/Decode.lean ====
section
/-!
DEFINITION. Decode.lean: the decoder of Atash words (R133 to R151 and the encodings of the instruction chapters), total on
any words, and after it the encoder written from the same tables. A reserved OP, FN, SUB, XOP or selector decodes to ILLOP
with its details (R402); reserved values in named fields are kept as they stand, for the meaning to trap BADVAL (R403).
-/

namespace Sys2Proof

/-! ### Short words -/

/-- Guard of a BR word or of a long head: G at `lo + 1` upward, GNEG at `lo` (Tables 8.7, 8.10). -/
def guardAt (lo : Nat) (w : Word) : Guard := ⟨bits (lo + 1) 3 w, w.getLsbD lo⟩

/-- FN of OP 0x01 (Table 8.12). -/
def decodeArith (d a b : Reg) (fn : Nat) : Instr :=
  match fn with
  | 0 => .iadd d a b
  | 1 => .isub d a b
  | 2 => .imul d a b
  | 3 => .imulh d a b
  | 4 => .imulhu d a b
  | 5 => .imin d a b
  | 6 => .iminu d a b
  | 7 => .imax d a b
  | 8 => .imaxu d a b
  | 9 => .iabsd d a b
  | n => .illop (.reserved 0x01 (BitVec.ofNat 8 n))

/-- FN of OP 0x02 (Table 8.12). -/
def decodeLogic (d a b : Reg) (fn : Nat) : Instr :=
  match fn with
  | 0 => .and d a b
  | 1 => .or d a b
  | 2 => .xor d a b
  | 3 => .andn d a b
  | 4 => .shl d a b
  | 5 => .shr d a b
  | 6 => .sar d a b
  | 7 => .popc d a
  | 8 => .clz d a
  | 9 => .brev d a
  | 10 => .mov d a
  | n => .illop (.reserved 0x02 (BitVec.ofNat 8 n))

/-- FN of OP 0x0B (Table 8.12). -/
def decodeFloat (d a b : Reg) (fn : Nat) : Instr :=
  match fn with
  | 0 => .fadd d a b
  | 1 => .fsub d a b
  | 2 => .fmul d a b
  | 3 => .fmin d a b
  | 4 => .fmax d a b
  | 5 => .hadd2 d a b
  | 6 => .hmul2 d a b
  | 7 => .hmin2 d a b
  | 8 => .hmax2 d a b
  | 9 => .badd2 d a b
  | 10 => .bmul2 d a b
  | n => .illop (.reserved 0x0B (BitVec.ofNat 8 n))

/-- FN of OP 0x0C (Table 8.12). -/
def decodeUnary (d a : Reg) (fn : Nat) : Instr :=
  match fn with
  | 0 => .frcp d a
  | 1 => .frsq d a
  | 2 => .fsqrt d a
  | 3 => .fex2 d a
  | 4 => .flg2 d a
  | 5 => .fsin d a
  | 6 => .fcos d a
  | 7 => .ftanh d a
  | 8 => .frndRn d a
  | 9 => .frndRz d a
  | 10 => .frndRm d a
  | 11 => .frndRp d a
  | 12 => .i2f d a
  | 13 => .f2i d a
  | n => .illop (.reserved 0x0C (BitVec.ofNat 8 n))

/-- Kind of OP 0x07, in IMM11[10:9] (R146). -/
def decodeShift (d a : Reg) (w : Word) : Instr :=
  match (bits 9 2 w).toNat with
  | 0 => .shli d a (bits 0 5 w)
  | 1 => .shri d a (bits 0 5 w)
  | 2 => .sari d a (bits 0 5 w)
  | _ => .illop .shiftKind

/-- SUB of OP 0x1A (Table 8.13). -/
def decodeSys (w : Word) : Instr :=
  match (bits 20 5 w).toNat with
  | 0 => .ret
  | 1 => .exit
  | 2 => .fuse (bits 16 4 w) (bits 0 8 w)
  | 3 => .regang (bits 0 3 w)
  | 4 => .waitcnt (bits 16 4 w) (bits 12 4 w) (bits 8 4 w) (bits 4 4 w) (bits 0 4 w)
  | 5 => .barArv (bits 0 4 w) (bits 4 10 w)
  | 6 => .barWait (bits 0 4 w)
  | 7 => .barSync (bits 0 4 w) (bits 4 10 w)
  | 8 => .yield (bits 0 5 w) (w.getLsbD 5)
  | 9 => .trap (bits 0 16 w)
  | 10 => .brk (bits 0 16 w)
  | 11 => .sleep (bits 0 16 w)
  | 12 => .setprio (bits 0 3 w)
  | 13 => .fence (bits 0 3 w) (bits 3 3 w)
  | n => .illop (.reserved 0x1A (BitVec.ofNat 8 n))

/-- OP of a short word (Table 8.11). OP 0x3F is a long head, here one with no tail: it stands in slot 2 (R406). -/
def decodeShort (w : Word) : Instr :=
  let d : Reg := bits 18 7 w
  let a : Reg := bits 11 7 w
  let b : Reg := bits 4 7 w
  let fn := (bits 0 4 w).toNat
  let imm : BitVec 11 := bits 0 11 w
  let size : BitVec 3 := bits 8 3 w
  let off : BitVec 8 := bits 0 8 w
  match (bits 25 6 w).toNat with
  | 0x00 => .nop
  | 0x01 => decodeArith d a b fn
  | 0x02 => decodeLogic d a b fn
  | 0x03 => .iaddi d a imm
  | 0x04 => .andi d a imm
  | 0x05 => .ori d a imm
  | 0x06 => .xori d a imm
  | 0x07 => decodeShift d a w
  | 0x08 => .imuli d a imm
  | 0x09 => .isetp (bits 22 3 w) (bits 20 2 w) (bits 13 7 w) (bits 6 7 w) (bits 2 4 w) (bits 0 2 w)
  | 0x0A => .fsetp (bits 22 3 w) (bits 20 2 w) (bits 13 7 w) (bits 6 7 w) (bits 2 4 w) (bits 0 2 w)
  | 0x0B => decodeFloat d a b fn
  | 0x0C => decodeUnary d a fn
  | 0x10 => .ld d a size off
  | 0x11 => .st d a size off
  | 0x12 => .lds d a size off
  | 0x13 => .sts d a size off
  | 0x14 => .ldk d a size off
  | 0x18 =>
    if bits 21 4 w = 0xE#4 then .bra (bits 8 13 w) (bits 0 8 w)
    else .brc (guardAt 21 w) (bits 8 13 w) (bits 0 8 w)
  | 0x1A => decodeSys w
  | 0x3F => .pktstraddle
  | n => .illop (.reserved (BitVec.ofNat 6 n) 0)

/-! ### Long instructions: head `h` and tail `t` -/

/-- D, A, B and C of the standard tail (Table 9.1). -/
abbrev tailD (t : Word) : Reg := bits 25 7 t
abbrev tailA (t : Word) : Reg := bits 18 7 t
abbrev tailB (t : Word) : Reg := bits 11 7 t
abbrev tailC (t : Word) : Reg := bits 4 7 t

/-- XOP 0x0D: an integer operation with a 32-bit immediate (R178). -/
def decodeImm32 (g : Guard) (h t : Word) : Instr :=
  let da : Reg := bits 3 7 h
  match (bits 10 3 h).toNat with
  | 0 => .iaddImm32 g da t
  | 1 => .andImm32 g da t
  | 2 => .orImm32 g da t
  | 3 => .xorImm32 g da t
  | 4 => .imulImm32 g da t
  | _ => .illop (.reserved 0x3F 0x0D)

/-- XOP 0x11: FADD, FSUB, FMUL, FMIN and FMAX in the layout that IMM selects (R206). -/
def decodeFloatLong (g : Guard) (h t : Word) : Instr :=
  if h.getLsbD 0 then
    let da : Reg := bits 6 7 h
    match (bits 3 3 h).toNat with
    | 0 => .faddImm g da t
    | 1 => .fsubImm g da t
    | 2 => .fmulImm g da t
    | 3 => .fminImm g da t
    | 4 => .fmaxImm g da t
    | _ => .illop (.reserved 0x3F 0x11)
  else
    let m : FloatMods :=
      ⟨bits 7 3 h, h.getLsbD 6, h.getLsbD 5, h.getLsbD 4, h.getLsbD 3, h.getLsbD 2⟩
    match (bits 10 3 h).toNat with
    | 0 => .faddLong g m (tailD t) (tailA t) (tailB t)
    | 1 => .fsubLong g m (tailD t) (tailA t) (tailB t)
    | 2 => .fmulLong g m (tailD t) (tailA t) (tailB t)
    | 3 => .fminLong g m (tailD t) (tailA t) (tailB t)
    | 4 => .fmaxLong g m (tailD t) (tailA t) (tailB t)
    | _ => .illop (.reserved 0x3F 0x11)

/-- CCOP of XOP 0x38 (R235). -/
def decodeCctl (g : Guard) (h t : Word) : Instr :=
  match (bits 10 3 h).toNat with
  | 0 => .cctlInv g (tailA t) (bits 0 18 t)
  | 1 => .cctlDemote g (tailA t) (bits 0 18 t)
  | 2 => .cctlInvall g
  | _ => .illop (.reserved 0x3F 0x38)

/-- Modifiers of a packed multiply-add (R207). -/
def packedMods (h : Word) : PackedMods :=
  ⟨bits 7 3 h, h.getLsbD 6, h.getLsbD 5, h.getLsbD 4, h.getLsbD 3, bits 1 2 h⟩

/-- X13 of LD, ST and PREF (Table 11.1). -/
def globalMods (h : Word) : GlobalMods := ⟨bits 10 3 h, bits 8 2 h, bits 5 3 h, bits 3 2 h⟩

/-- X13 and DY of LDS and STS (R228). -/
def scratchMods (h t : Word) : ScratchMods := ⟨bits 10 3 h, bits 8 2 h, bits 5 3 h, bits 0 5 h, bits 13 5 t⟩

/-- X13 of ATOM, ATOMS and RED (R231, R232). -/
def atomicMods (h : Word) : AtomicMods := ⟨bits 9 4 h, bits 7 2 h, bits 4 3 h, bits 2 2 h⟩

/-- The tile fields of CASTS, CALDS and CAZERO (Table 13.8). -/
def accTile (t : Word) : AccTile := ⟨bits 27 5 t, bits 23 4 t, bits 18 5 t, bits 14 4 t⟩

/-- C of an atomic: the new value of CAS, reserved otherwise (R231). -/
def casOperand (m : AtomicMods) (t : Word) : Reg := if m.aop = 7 then tailC t else 0

/-- XOP of a long head (Table 8.14). -/
def decodeLong (h t : Word) : Instr :=
  let g := guardAt 13 h
  let d := tailD t
  let a := tailA t
  let b := tailB t
  let c := tailC t
  match (bits 17 8 h).toNat with
  | 0x00 => .imad g (bits 0 2 h) d a b c
  | 0x01 => .imad64 g (h.getLsbD 0) d a b c
  | 0x02 => if h.getLsbD 0 then .isub64 g d a b else .iadd64 g d a b
  | 0x03 => .lea g (bits 0 5 h) (h.getLsbD 5) (h.getLsbD 6) d a b
  | 0x04 => .lop3 g (bits 0 8 h) d a b c
  | 0x05 => .fsh g (h.getLsbD 0) (h.getLsbD 1) (bits 2 5 h) d a b (if h.getLsbD 1 then 0 else c)
  | 0x06 => .bfe g (bits 7 6 h) (bits 2 5 h) (h.getLsbD 1) (h.getLsbD 0) d a (if h.getLsbD 1 then 0 else b)
  | 0x07 => .bfi g (bits 7 6 h) (bits 2 5 h) (h.getLsbD 1) d a b (if h.getLsbD 1 then 0 else c)
  | 0x08 => .prmt g d a b c
  | 0x09 => .sel g (bits 0 3 h) (h.getLsbD 3) d a b
  | 0x0A => .movi g (bits 6 7 h) t
  | 0x0B => .idp4 g (h.getLsbD 0) (h.getLsbD 1) (h.getLsbD 2) d a b c
  | 0x0C =>
    if h.getLsbD 7 then .isubc g (bits 0 3 h) (h.getLsbD 3) (bits 4 3 h) d a b
    else .iaddc g (bits 0 3 h) (h.getLsbD 3) (bits 4 3 h) d a b
  | 0x0D => decodeImm32 g h t
  | 0x10 => .ffma g ⟨bits 7 3 h, h.getLsbD 6, h.getLsbD 5, h.getLsbD 4, h.getLsbD 3, h.getLsbD 2, h.getLsbD 1,
      h.getLsbD 0⟩ d a b c
  | 0x11 => decodeFloatLong g h t
  | 0x12 => .hfma2 g (packedMods h) d a b c
  | 0x13 => .bfma2 g (packedMods h) d a b c
  | 0x14 => .cvt g (bits 9 4 h) (bits 5 4 h) (bits 2 3 h) (bits 0 2 h) (t.getLsbD 10) (bits 3 2 t) (bits 0 3 t) d a b
  | 0x15 => .fclass g (bits 0 3 h) d a
  | 0x20 => .shfl g (bits 0 3 h) (bits 3 2 h) (h.getLsbD 5) (bits 6 6 h) (h.getLsbD 12) d a
      (if h.getLsbD 5 then 0 else b)
  | 0x21 =>
    if bits 3 2 h = 2 then
      .vote g (bits 0 3 h) (bits 3 2 h) (bits 5 3 h) (h.getLsbD 8) 0 (h.getLsbD 12) d
    else .vote g (bits 0 3 h) (bits 3 2 h) (bits 5 3 h) (h.getLsbD 8) (bits 9 3 h) false 0
  | 0x22 => .matchLanes g (bits 0 3 h) (h.getLsbD 3) (h.getLsbD 4) (bits 5 3 h) d a
  | 0x23 => .redux g (bits 0 3 h) (bits 3 3 h) (h.getLsbD 6) d a
  | 0x24 => .scan g (bits 0 3 h) (bits 3 3 h) (h.getLsbD 6) (h.getLsbD 7) d a
  | 0x25 => .qswz g (bits 0 3 h) (bits 3 8 h) d a
  | 0x26 => .elect g (bits 0 3 h) (bits 3 3 h) (h.getLsbD 6) (h.getLsbD 7) (if h.getLsbD 6 then d else 0)
  | 0x30 => .ldLong g (globalMods h) d a (bits 0 18 t)
  | 0x31 => .stLong g (globalMods h) d a (bits 0 18 t)
  | 0x32 => .ldsLong g (scratchMods h t) d a (bits 0 13 t)
  | 0x33 => .stsLong g (scratchMods h t) d a (bits 0 13 t)
  | 0x34 => .atom g (atomicMods h) d a b (casOperand (atomicMods h) t)
  | 0x35 => .atoms g (atomicMods h) (h.getLsbD 1) (if h.getLsbD 1 then d else 0) a b (bits 6 5 t) (bits 1 5 t)
  | 0x36 => .red g (atomicMods h) a b (casOperand (atomicMods h) t)
  | 0x37 => .pref g (bits 8 2 h) (bits 5 3 h) (bits 3 2 h) (h.getLsbD 0) a (bits 0 18 t)
  | 0x38 => decodeCctl g h t
  | 0x39 => .ldkLong g (bits 10 3 h) d a (bits 0 12 t)
  | 0x40 => .cpy g (bits 10 3 h) (bits 8 2 h) (h.getLsbD 7) (bits 5 2 h) d a b c
  | 0x41 => .coll g (bits 11 2 h) (bits 9 2 h) (bits 7 2 h) (bits 4 3 h) d a b
  | 0x42 => .publish g (bits 10 3 h) d a
  | 0x43 => .shdw g d a b
  | 0x44 => if h.getLsbD 0 then .stageRel g (bits 1 2 h) a else .stageAcq g (bits 1 2 h) d
  | 0x50 => .cube g ⟨bits 10 3 h, bits 7 3 h, bits 5 2 h, h.getLsbD 4, h.getLsbD 3, h.getLsbD 2, bits 0 2 h⟩
      ⟨bits 27 5 t, bits 23 4 t, bits 17 6 t, bits 12 5 t, bits 5 7 t, bits 0 5 t⟩
  | 0x51 => .cldb g ⟨bits 10 3 h, bits 8 2 h, h.getLsbD 7, h.getLsbD 6, bits 4 2 h, bits 26 6 t, bits 20 6 t,
      bits 15 5 t, if h.getLsbD 6 then bits 10 5 t else 0⟩
  | 0x52 => .card g (bits 10 3 h) (h.getLsbD 9) (h.getLsbD 8) (bits 3 5 h) (bits 27 5 t) (bits 23 4 t) (bits 16 7 t)
  | 0x53 => .cawr g (bits 10 3 h) (bits 27 5 t) (bits 23 4 t) (bits 16 7 t)
  | 0x54 => .casts g (bits 10 3 h) (h.getLsbD 9) (h.getLsbD 8) (h.getLsbD 7) (bits 5 2 h) (accTile t) (bits 9 5 t)
      (bits 4 5 t)
  | 0x55 => .calds g (bits 10 3 h) (h.getLsbD 7) (bits 5 2 h) (accTile t) (bits 9 5 t)
  | 0x56 => if h.getLsbD 0 then .cazeroTile g (accTile t) else .cazeroMask g (bits 9 5 t)
  | 0x60 => .rayt g (h.getLsbD 12) (h.getLsbD 11) (h.getLsbD 10) (bits 2 8 h) d a b
  | 0x61 => .raya g d a b
  | 0x62 => .tex g (bits 11 2 h) (h.getLsbD 10) d a b
  | 0x63 => .texg g (h.getLsbD 10) (bits 8 2 h) d a b
  | 0x64 => .tld g (h.getLsbD 10) d a b
  | 0x65 => .texq g d a b
  | 0x70 => if h.getLsbD 0 then .splatBwd g (bits 1 3 h) d a else .splatRun g (bits 1 3 h) d a
  | 0x71 => .rtt g (bits 1 2 h) (bits 3 3 h) d
  | 0x78 => .launch g d a
  | 0x79 => .emit g d a b
  | 0x7A => .glaunch g d a
  | 0x7B => if h.getLsbD 0 then .gcancelKill g d a else .gcancelDrain g d a
  | 0x7C => .getsr g (bits 0 8 h) d
  | 0x7D => .setsr g (bits 0 8 h) a
  | 0x7E => .brx g (bits 0 8 h) a
  | 0x7F => .joinBlock g a
  | 0x80 => .brl g (bits 8 24 t) (bits 0 8 t)
  | 0x81 => .call g (bits 8 24 t) (bits 0 8 t)
  | n => .illop (.reserved 0x3F (BitVec.ofNat 8 n))

/-! ### The encoder -/

/-- Format VV, CH clear (Table 8.4). -/
def encVV (op : BitVec 6) (d a b : Reg) (fn : BitVec 4) : Word := 0#1 ++ op ++ d ++ a ++ b ++ fn

/-- Format VI, CH clear (Table 8.5). -/
def encVI (op : BitVec 6) (d a : Reg) (imm : BitVec 11) : Word := 0#1 ++ op ++ d ++ a ++ imm

/-- Format PC, CH clear (Table 8.6). -/
def encPC (op : BitVec 6) (pd : BitVec 3) (comb : BitVec 2) (a b : Reg) (cond : BitVec 4) (type : BitVec 2) : Word :=
  0#1 ++ op ++ pd ++ comb ++ a ++ b ++ cond ++ type

/-- Format BR, CH clear (Table 8.7). -/
def encBR (g : Guard) (off : BitVec 13) (id : BitVec 8) : Word :=
  0#1 ++ 0x18#6 ++ g.g ++ BitVec.ofBool g.neg ++ off ++ id

/-- Format MS, CH clear (Table 8.8). -/
def encMS (op : BitVec 6) (d a : Reg) (size : BitVec 3) (off : BitVec 8) : Word := 0#1 ++ op ++ d ++ a ++ size ++ off

/-- Format SY, CH clear (Table 8.10). -/
def encSY (sub : BitVec 5) (imm : BitVec 20) : Word := 0#1 ++ 0x1A#6 ++ sub ++ imm

/-- A long head, CH clear (Table 8.10). -/
def encHead (xop : BitVec 8) (g : Guard) (x : BitVec 13) : Word :=
  0#1 ++ 0x3F#6 ++ xop ++ g.g ++ BitVec.ofBool g.neg ++ x

/-- The standard tail (Table 9.1). -/
def encTail (d a b c : Reg) : Word := d ++ a ++ b ++ c ++ 0#4

/-- One bit. -/
abbrev bit1 (b : Bool) : BitVec 1 := BitVec.ofBool b

/-- X13 of LD, ST and PREF (Table 11.1). -/
def encGlobal (m : GlobalMods) (low : BitVec 3) : BitVec 13 := m.size ++ m.ord ++ m.scope ++ m.hint ++ low

/-- X13 of the atomics (R231, R232). -/
def encAtomic (m : AtomicMods) (low : BitVec 2) : BitVec 13 := m.aop ++ m.ord ++ m.scope ++ m.type ++ low

/-- X13 of a register form of XOP 0x11 (R206). -/
def encFloatMods (sel : BitVec 3) (m : FloatMods) : BitVec 13 :=
  sel ++ m.rnd ++ bit1 m.sat ++ bit1 m.negA ++ bit1 m.absA ++ bit1 m.negB ++ bit1 m.absB ++ 0#2

/-- X13 of a packed multiply-add (R207). -/
def encPacked (m : PackedMods) : BitVec 13 :=
  0#3 ++ m.rnd ++ bit1 m.sat ++ bit1 m.negA ++ bit1 m.negB ++ bit1 m.negC ++ m.bsel ++ 0#1

/-- Tile fields of an accumulator tail (Table 13.8). -/
def encTile (t : AccTile) (low : BitVec 14) : Word := t.row0 ++ t.col0 ++ t.nrow ++ t.ncol ++ low

/-- The words of an instruction, CH clear; none for an event and for a word no instruction owns. -/
def encode : Instr → List Word
  | .nop => [0]
  | .iadd d a b => [encVV 0x01 d a b 0]
  | .isub d a b => [encVV 0x01 d a b 1]
  | .imul d a b => [encVV 0x01 d a b 2]
  | .imulh d a b => [encVV 0x01 d a b 3]
  | .imulhu d a b => [encVV 0x01 d a b 4]
  | .imin d a b => [encVV 0x01 d a b 5]
  | .iminu d a b => [encVV 0x01 d a b 6]
  | .imax d a b => [encVV 0x01 d a b 7]
  | .imaxu d a b => [encVV 0x01 d a b 8]
  | .iabsd d a b => [encVV 0x01 d a b 9]
  | .and d a b => [encVV 0x02 d a b 0]
  | .or d a b => [encVV 0x02 d a b 1]
  | .xor d a b => [encVV 0x02 d a b 2]
  | .andn d a b => [encVV 0x02 d a b 3]
  | .shl d a b => [encVV 0x02 d a b 4]
  | .shr d a b => [encVV 0x02 d a b 5]
  | .sar d a b => [encVV 0x02 d a b 6]
  | .popc d a => [encVV 0x02 d a 0 7]
  | .clz d a => [encVV 0x02 d a 0 8]
  | .brev d a => [encVV 0x02 d a 0 9]
  | .mov d a => [encVV 0x02 d a 0 10]
  | .iaddi d a i => [encVI 0x03 d a i]
  | .andi d a i => [encVI 0x04 d a i]
  | .ori d a i => [encVI 0x05 d a i]
  | .xori d a i => [encVI 0x06 d a i]
  | .shli d a n => [encVI 0x07 d a (0#2 ++ 0#4 ++ n)]
  | .shri d a n => [encVI 0x07 d a (1#2 ++ 0#4 ++ n)]
  | .sari d a n => [encVI 0x07 d a (2#2 ++ 0#4 ++ n)]
  | .imuli d a i => [encVI 0x08 d a i]
  | .isetp pd comb a b cond ty => [encPC 0x09 pd comb a b cond ty]
  | .fsetp pd comb a b cond ty => [encPC 0x0A pd comb a b cond ty]
  | .fadd d a b => [encVV 0x0B d a b 0]
  | .fsub d a b => [encVV 0x0B d a b 1]
  | .fmul d a b => [encVV 0x0B d a b 2]
  | .fmin d a b => [encVV 0x0B d a b 3]
  | .fmax d a b => [encVV 0x0B d a b 4]
  | .hadd2 d a b => [encVV 0x0B d a b 5]
  | .hmul2 d a b => [encVV 0x0B d a b 6]
  | .hmin2 d a b => [encVV 0x0B d a b 7]
  | .hmax2 d a b => [encVV 0x0B d a b 8]
  | .badd2 d a b => [encVV 0x0B d a b 9]
  | .bmul2 d a b => [encVV 0x0B d a b 10]
  | .frcp d a => [encVV 0x0C d a 0 0]
  | .frsq d a => [encVV 0x0C d a 0 1]
  | .fsqrt d a => [encVV 0x0C d a 0 2]
  | .fex2 d a => [encVV 0x0C d a 0 3]
  | .flg2 d a => [encVV 0x0C d a 0 4]
  | .fsin d a => [encVV 0x0C d a 0 5]
  | .fcos d a => [encVV 0x0C d a 0 6]
  | .ftanh d a => [encVV 0x0C d a 0 7]
  | .frndRn d a => [encVV 0x0C d a 0 8]
  | .frndRz d a => [encVV 0x0C d a 0 9]
  | .frndRm d a => [encVV 0x0C d a 0 10]
  | .frndRp d a => [encVV 0x0C d a 0 11]
  | .i2f d a => [encVV 0x0C d a 0 12]
  | .f2i d a => [encVV 0x0C d a 0 13]
  | .ld d a s o => [encMS 0x10 d a s o]
  | .st d a s o => [encMS 0x11 d a s o]
  | .lds d a s o => [encMS 0x12 d a s o]
  | .sts d a s o => [encMS 0x13 d a s o]
  | .ldk d a s o => [encMS 0x14 d a s o]
  | .brc g off id => [encBR g off id]
  | .bra off id => [encBR .always off id]
  | .ret => [encSY 0 0]
  | .exit => [encSY 1 0]
  | .fuse cls id => [encSY 2 (cls ++ 0#8 ++ id)]
  | .regang w => [encSY 3 (0#17 ++ w)]
  | .waitcnt l s c b r => [encSY 4 (l ++ s ++ c ++ b ++ r)]
  | .barArv id exp => [encSY 5 (0#6 ++ exp ++ id)]
  | .barWait id => [encSY 6 (0#16 ++ id)]
  | .barSync id exp => [encSY 7 (0#6 ++ exp ++ id)]
  | .yield k nt => [encSY 8 (0#14 ++ bit1 nt ++ k)]
  | .trap code => [encSY 9 (0#4 ++ code)]
  | .brk tag => [encSY 10 (0#4 ++ tag)]
  | .sleep n => [encSY 11 (0#4 ++ n)]
  | .setprio p => [encSY 12 (0#17 ++ p)]
  | .fence scope kind => [encSY 13 (0#14 ++ kind ++ scope)]
  | .imad g mode d a b c => [encHead 0x00 g (0#11 ++ mode), encTail d a b c]
  | .imad64 g sign d a b c => [encHead 0x01 g (0#12 ++ bit1 sign), encTail d a b c]
  | .iadd64 g d a b => [encHead 0x02 g (0#12 ++ 0#1), encTail d a b 0]
  | .isub64 g d a b => [encHead 0x02 g (0#12 ++ 1#1), encTail d a b 0]
  | .lea g sh sx w32 d a b => [encHead 0x03 g (0#6 ++ bit1 w32 ++ bit1 sx ++ sh), encTail d a b 0]
  | .lop3 g lut d a b c => [encHead 0x04 g (0#5 ++ lut), encTail d a b c]
  | .fsh g left imm amt d a b c => [encHead 0x05 g (0#6 ++ amt ++ bit1 imm ++ bit1 left), encTail d a b c]
  | .bfe g len pos imm sg d a b => [encHead 0x06 g (len ++ pos ++ bit1 imm ++ bit1 sg), encTail d a b 0]
  | .bfi g len pos imm d a b c => [encHead 0x07 g (len ++ pos ++ bit1 imm ++ 0#1), encTail d a b c]
  | .prmt g d a b c => [encHead 0x08 g 0, encTail d a b c]
  | .sel g sp sneg d a b => [encHead 0x09 g (0#9 ++ bit1 sneg ++ sp), encTail d a b 0]
  | .movi g d imm => [encHead 0x0A g (d ++ 0#6), imm]
  | .idp4 g as bs sat d a b c => [encHead 0x0B g (0#10 ++ bit1 sat ++ bit1 bs ++ bit1 as), encTail d a b c]
  | .iaddc g ci cn co d a b => [encHead 0x0C g (0#5 ++ 0#1 ++ co ++ bit1 cn ++ ci), encTail d a b 0]
  | .isubc g ci cn co d a b => [encHead 0x0C g (0#5 ++ 1#1 ++ co ++ bit1 cn ++ ci), encTail d a b 0]
  | .iaddImm32 g da i => [encHead 0x0D g (0#3 ++ da ++ 0#3), i]
  | .andImm32 g da i => [encHead 0x0D g (1#3 ++ da ++ 0#3), i]
  | .orImm32 g da i => [encHead 0x0D g (2#3 ++ da ++ 0#3), i]
  | .xorImm32 g da i => [encHead 0x0D g (3#3 ++ da ++ 0#3), i]
  | .imulImm32 g da i => [encHead 0x0D g (4#3 ++ da ++ 0#3), i]
  | .ffma g m d a b c =>
    [encHead 0x10 g (0#3 ++ m.rnd ++ bit1 m.sat ++ bit1 m.negA ++ bit1 m.absA ++ bit1 m.negB ++ bit1 m.absB
      ++ bit1 m.negC ++ bit1 m.absC), encTail d a b c]
  | .faddLong g m d a b => [encHead 0x11 g (encFloatMods 0 m), encTail d a b 0]
  | .fsubLong g m d a b => [encHead 0x11 g (encFloatMods 1 m), encTail d a b 0]
  | .fmulLong g m d a b => [encHead 0x11 g (encFloatMods 2 m), encTail d a b 0]
  | .fminLong g m d a b => [encHead 0x11 g (encFloatMods 3 m), encTail d a b 0]
  | .fmaxLong g m d a b => [encHead 0x11 g (encFloatMods 4 m), encTail d a b 0]
  | .faddImm g da i => [encHead 0x11 g (da ++ 0#3 ++ 1#3), i]
  | .fsubImm g da i => [encHead 0x11 g (da ++ 1#3 ++ 1#3), i]
  | .fmulImm g da i => [encHead 0x11 g (da ++ 2#3 ++ 1#3), i]
  | .fminImm g da i => [encHead 0x11 g (da ++ 3#3 ++ 1#3), i]
  | .fmaxImm g da i => [encHead 0x11 g (da ++ 4#3 ++ 1#3), i]
  | .hfma2 g m d a b c => [encHead 0x12 g (encPacked m), encTail d a b c]
  | .bfma2 g m d a b c => [encHead 0x13 g (encPacked m), encTail d a b c]
  | .cvt g df sf rnd sat mg ds ss d a b =>
    [encHead 0x14 g (df ++ sf ++ rnd ++ sat), d ++ a ++ b ++ bit1 mg ++ 0#5 ++ ds ++ ss]
  | .fclass g ty d a => [encHead 0x15 g (0#10 ++ ty), encTail d a 0 0]
  | .shfl g mw mode imm limm zf d a b =>
    [encHead 0x20 g (bit1 zf ++ limm ++ bit1 imm ++ mode ++ mw), encTail d a b 0]
  | .vote g mw mode ps pn pd cnt d =>
    [encHead 0x21 g (bit1 cnt ++ pd ++ bit1 pn ++ ps ++ mode ++ mw), encTail d 0 0 0]
  | .matchLanes g mw rank wide pd d a =>
    [encHead 0x22 g (0#5 ++ pd ++ bit1 wide ++ bit1 rank ++ mw), encTail d a 0 0]
  | .redux g mw op sg d a => [encHead 0x23 g (0#6 ++ bit1 sg ++ op ++ mw), encTail d a 0 0]
  | .scan g mw op sg exc d a => [encHead 0x24 g (0#5 ++ bit1 exc ++ bit1 sg ++ op ++ mw), encTail d a 0 0]
  | .qswz g mw pat d a => [encHead 0x25 g (0#2 ++ pat ++ mw), encTail d a 0 0]
  | .elect g mw pd wd high d => [encHead 0x26 g (0#5 ++ bit1 high ++ bit1 wd ++ pd ++ mw), encTail d 0 0 0]
  | .ldLong g m d a off => [encHead 0x30 g (encGlobal m 0), d ++ a ++ off]
  | .stLong g m d a off => [encHead 0x31 g (encGlobal m 0), d ++ a ++ off]
  | .ldsLong g m d a off => [encHead 0x32 g (m.size ++ m.ord ++ m.scope ++ m.dx), d ++ a ++ m.dy ++ off]
  | .stsLong g m d a off => [encHead 0x33 g (m.size ++ m.ord ++ m.scope ++ m.dx), d ++ a ++ m.dy ++ off]
  | .atom g m d a b c => [encHead 0x34 g (encAtomic m 0), encTail d a b c]
  | .atoms g m r d a b dx dy => [encHead 0x35 g (encAtomic m (bit1 r ++ 0#1)), d ++ a ++ b ++ dx ++ dy ++ 0#1]
  | .red g m a b c => [encHead 0x36 g (encAtomic m 0), encTail 0 a b c]
  | .pref g ord scope hint l2 a off =>
    [encHead 0x37 g (0#3 ++ ord ++ scope ++ hint ++ 0#2 ++ bit1 l2), 0#7 ++ a ++ off]
  | .cctlInv g a off => [encHead 0x38 g (0#3 ++ 0#10), 0#7 ++ a ++ off]
  | .cctlDemote g a off => [encHead 0x38 g (1#3 ++ 0#10), 0#7 ++ a ++ off]
  | .cctlInvall g => [encHead 0x38 g (2#3 ++ 0#10), 0]
  | .ldkLong g size d a off => [encHead 0x39 g (size ++ 0#10), d ++ a ++ 0#6 ++ off]
  | .cpy g sc dir rel ring s l crd dst =>
    [encHead 0x40 g (sc ++ dir ++ bit1 rel ++ ring ++ 0#5), encTail s l crd dst]
  | .coll g kind op ty sc s c h => [encHead 0x41 g (kind ++ op ++ ty ++ sc ++ 0#4), encTail s c h 0]
  | .publish g sc d a => [encHead 0x42 g (sc ++ 0#10), encTail d a 0 0]
  | .shdw g d a b => [encHead 0x43 g 0, encTail d a b 0]
  | .stageAcq g q d => [encHead 0x44 g (0#10 ++ q ++ 0#1), encTail d 0 0 0]
  | .stageRel g q a => [encHead 0x44 g (0#10 ++ q ++ 1#1), encTail 0 a 0 0]
  | .cube g m o =>
    [encHead 0x50 g (m.fmtA ++ m.fmtB ++ m.cmode ++ bit1 m.asrc ++ bit1 m.acc ++ bit1 m.sparse ++ m.cfmt),
     o.row0 ++ o.col0 ++ o.bslot ++ o.koff ++ o.aopnd ++ o.copnd]
  | .cldb g f =>
    [encHead 0x51 g (f.fmt ++ f.spn ++ bit1 f.space ++ bit1 f.rel ++ f.ring ++ 0#4),
     f.slot ++ f.kext ++ f.srck ++ f.idxk ++ 0#10]
  | .card g af relu scale sck r c d =>
    [encHead 0x52 g (af ++ bit1 relu ++ bit1 scale ++ sck ++ 0#3), r ++ c ++ d ++ 0#16]
  | .cawr g af r c a => [encHead 0x53 g (af ++ 0#10), r ++ c ++ a ++ 0#16]
  | .casts g af relu scale rel ring t offk sck =>
    [encHead 0x54 g (af ++ bit1 relu ++ bit1 scale ++ bit1 rel ++ ring ++ 0#5), encTile t (offk ++ sck ++ 0#4)]
  | .calds g af rel ring t offk =>
    [encHead 0x55 g (af ++ 0#2 ++ bit1 rel ++ ring ++ 0#5), encTile t (offk ++ 0#5 ++ 0#4)]
  | .cazeroMask g mk => [encHead 0x56 g 0, 0#18 ++ mk ++ 0#9]
  | .cazeroTile g t => [encHead 0x56 g 1, encTile t 0]
  | .rayt g first cb cf mask d a root =>
    [encHead 0x60 g (bit1 first ++ bit1 cb ++ bit1 cf ++ mask ++ 0#2), encTail d a root 0]
  | .raya g d a b => [encHead 0x61 g 0, encTail d a b 0]
  | .tex g filter lodx d a desc => [encHead 0x62 g (filter ++ bit1 lodx ++ 0#10), encTail d a desc 0]
  | .texg g lodx chan d a desc => [encHead 0x63 g (0#2 ++ bit1 lodx ++ chan ++ 0#8), encTail d a desc 0]
  | .tld g lodx d a desc => [encHead 0x64 g (0#2 ++ bit1 lodx ++ 0#10), encTail d a desc 0]
  | .texq g d a desc => [encHead 0x65 g 0, encTail d a desc 0]
  | .splatRun g sc s p => [encHead 0x70 g (0#9 ++ sc ++ 0#1), encTail s p 0 0]
  | .splatBwd g sc s p => [encHead 0x70 g (0#9 ++ sc ++ 1#1), encTail s p 0 0]
  | .rtt g q pd d => [encHead 0x71 g (0#7 ++ pd ++ q ++ 0#1), encTail d 0 0 0]
  | .launch g d a => [encHead 0x78 g 0, encTail d a 0 0]
  | .emit g d a b => [encHead 0x79 g 0, encTail d a b 0]
  | .glaunch g d a => [encHead 0x7A g 0, encTail d a 0 0]
  | .gcancelDrain g d a => [encHead 0x7B g 0, encTail d a 0 0]
  | .gcancelKill g d a => [encHead 0x7B g 1, encTail d a 0 0]
  | .getsr g id d => [encHead 0x7C g (0#5 ++ id), encTail d 0 0 0]
  | .setsr g id a => [encHead 0x7D g (0#5 ++ id), encTail 0 a 0 0]
  | .brx g id a => [encHead 0x7E g (0#5 ++ id), encTail 0 a 0 0]
  | .joinBlock g a => [encHead 0x7F g 0, encTail 0 a 0 0]
  | .brl g off id => [encHead 0x80 g 0, off ++ id]
  | .call g off id => [encHead 0x81 g 0, off ++ id]
  | _ => []

/-! ### The decoder of a packet's words -/

/-- What the decoder reads at a slot: the instruction, its length in words, its chain bit, its words, and whether a
field it reserves is not zero (R404). -/
structure Decoded where
  instr : Instr
  len : Nat
  ch : Bool
  word0 : Word
  word1 : Word
  rsv : Bool
  deriving DecidableEq, Repr

/-- A word with CH cleared. -/
def clearCh (w : Word) : Word := w &&& 0x7FFFFFFF#32

/-- Whether a set bit lies in a field the instruction reserves: its words, CH apart, are not those its fields encode to
(R404). A trapping word has none. -/
def hasReserved (i : Instr) (ws : List Word) : Bool :=
  match encode i, ws with
  | [], _ => false
  | e, w :: rest => e != clearCh w :: rest
  | _, [] => false

/-- Is the word a long head (R135)? -/
def isHead (w : Word) : Bool := bits 25 6 w == 0x3F#6

/-- Decode the instruction that begins with `w0` in a slot; `w1` is the word after it in the packet, none in slot 2. -/
def decodeAt (w0 : Word) (w1 : Option Word) : Decoded :=
  match w1 with
  | some t =>
    if isHead w0 then
      let i := decodeLong w0 t
      ⟨i, 2, w0.getLsbD 31, w0, t, hasReserved i [w0, t]⟩
    else
      let i := decodeShort w0
      ⟨i, 1, w0.getLsbD 31, w0, 0, hasReserved i [w0]⟩
  | none =>
    let i := decodeShort w0
    ⟨i, 1, w0.getLsbD 31, w0, 0, hasReserved i [w0]⟩

/-- Words of a packet in a row, lowest first, decoded as the instruction in slot 0. -/
def decodeWords : List Word → Option Decoded
  | [] => none
  | [w] => some (decodeAt w none)
  | w :: t :: _ => some (decodeAt w (some t))

/-- The instruction the decoder reads from the bits of a row of the opcode table: the first word in bits 31 to 0, the
tail of a long instruction in bits 63 to 32, zero above `nbits`. None for a word no instruction owns. -/
def decodeTableWord (nbits w : Nat) : Option Instr :=
  let x := w % 2 ^ nbits
  let dec := decodeAt (BitVec.ofNat 32 x) (some (BitVec.ofNat 32 (x / 2 ^ 32)))
  match dec.instr with
  | .illop _ => none
  | .pktstraddle => none
  | i => some i

end Sys2Proof
end

