-- ==== Sys2Proof/Machine/Num.lean ====
section
/-!
DEFINITION. Machine/Num.lean: number formats and exact arithmetic (05_number_formats). Every operand is decoded to its
exact value, the result is exact, and one rounding delivers a code.
-/

namespace Sys2Proof.Machine

/-- Floating-point codings (Table 5.1). -/
inductive Fmt where
  | fp32 | fp16 | bf16 | e5m2 | e4m3 | e2m1
  deriving DecidableEq, Repr, Inhabited

/-- The four roundings (R80). -/
inductive Rounding where
  | rne | rz | rm | rp
  deriving DecidableEq, Repr, Inhabited

/-- The saturate argument of Convert (R81). -/
inductive Saturate where
  | none | fmt | unit
  deriving DecidableEq, Repr, Inhabited

/-- Width of the exponent field (Table 5.1). -/
def Fmt.ebits : Fmt → Nat
  | .fp32 | .bf16 => 8
  | .fp16 | .e5m2 => 5
  | .e4m3 => 4
  | .e2m1 => 2

/-- Width of the fraction field, P - 1 (Table 5.1). -/
def Fmt.fbits : Fmt → Nat
  | .fp32 => 23
  | .fp16 => 10
  | .bf16 => 7
  | .e5m2 => 2
  | .e4m3 => 3
  | .e2m1 => 1

/-- Exponent bias (Table 5.1). -/
def Fmt.bias (f : Fmt) : Nat := 2 ^ (f.ebits - 1) - 1

/-- Width of a code (Table 5.1). -/
def Fmt.width (f : Fmt) : Nat := 1 + f.ebits + f.fbits

/-- Code of the largest finite magnitude (Table 5.1). -/
def Fmt.maxCode : Fmt → Nat
  | .fp32 => 0x7F7FFFFF
  | .fp16 => 0x7BFF
  | .bf16 => 0x7F7F
  | .e5m2 => 0x7B
  | .e4m3 => 0x7E
  | .e2m1 => 0x7

/-- Code of +infinity, where the format has one (Table 5.1). -/
def Fmt.infCode : Fmt → Option Nat
  | .fp32 => some 0x7F800000
  | .fp16 => some 0x7C00
  | .bf16 => some 0x7F80
  | .e5m2 => some 0x7C
  | .e4m3 | .e2m1 => none

/-- The canonical NaN (R82); E2M1 has none, and its largest code stands in where no instruction asks for it. -/
def Fmt.nan : Fmt → Nat
  | .fp32 => 0x7FC00000
  | .fp16 => 0x7E00
  | .bf16 => 0x7FC0
  | .e5m2 => 0x7E
  | .e4m3 => 0x7F
  | .e2m1 => 0x7

/-- Exponent of the grid's finest spacing: EMIN - P + 1 (R80). -/
def Fmt.qmin (f : Fmt) : Int := 1 - (f.bias : Int) - f.fbits

/-- An exact value: NaN, an infinity, or sign and magnitude `num / den`; the sign of zero is kept (R76). -/
inductive XVal where
  | nan
  | inf (neg : Bool)
  | fin (neg : Bool) (num den : Nat)
  deriving DecidableEq, Repr, Inhabited

namespace XVal

/-- Zero with a sign. -/
def zero (neg : Bool) : XVal := .fin neg 0 1

/-- An integer. -/
def ofInt (i : Int) : XVal := .fin (i < 0) i.natAbs 1

/-- `n × 2^e`. -/
def scaled (neg : Bool) (n : Nat) (e : Int) : XVal :=
  if 0 ≤ e then .fin neg (n * 2 ^ e.toNat) 1 else .fin neg n (2 ^ (-e).toNat)

def isNan : XVal → Bool
  | nan => true
  | _ => false

def isInf : XVal → Bool
  | inf _ => true
  | _ => false

def isZero : XVal → Bool
  | fin _ n _ => n == 0
  | _ => false

/-- The sign bit. -/
def sign : XVal → Bool
  | nan => false
  | inf s => s
  | fin s _ _ => s

def neg : XVal → XVal
  | nan => nan
  | inf s => inf (!s)
  | fin s n d => fin (!s) n d

def abs : XVal → XVal
  | nan => nan
  | inf _ => inf false
  | fin _ n d => fin false n d

/-- Signed numerator. -/
def snum (s : Bool) (n : Nat) : Int := if s then -(n : Int) else n

/-- Exact product (R83): an infinity times zero is NaN; the sign is the exclusive-or. -/
def mul : XVal → XVal → XVal
  | nan, _ => nan
  | _, nan => nan
  | inf s, inf t => inf (s != t)
  | inf s, fin t n _ => if n = 0 then nan else inf (s != t)
  | fin s n _, inf t => if n = 0 then nan else inf (s != t)
  | fin s n d, fin t m e => fin (s != t) (n * m) (d * e)

/-- Exact sum (R83); a zero sum of operands that are not two zeros of one sign is +0, and -0 in RM. -/
def add (mode : Rounding) : XVal → XVal → XVal
  | nan, _ => nan
  | _, nan => nan
  | inf s, inf t => if s = t then inf s else nan
  | inf s, fin _ _ _ => inf s
  | fin _ _ _, inf t => inf t
  | fin s n d, fin t m e =>
    if n = 0 ∧ m = 0 ∧ s = t then zero s
    else
      let v : Int := snum s n * e + snum t m * d
      if v = 0 then zero (mode == .rm) else fin (v < 0) v.natAbs (d * e)

def sub (mode : Rounding) (x y : XVal) : XVal := add mode x (neg y)

/-- Exact quotient; x / 0 of a nonzero x is an infinity (R83, Table 10.6). -/
def div : XVal → XVal → XVal
  | nan, _ => nan
  | _, nan => nan
  | inf _, inf _ => nan
  | inf s, fin t _ _ => inf (s != t)
  | fin s _ _, inf t => zero (s != t)
  | fin s n d, fin t m e =>
    if m = 0 then (if n = 0 then nan else inf (s != t)) else fin (s != t) (n * e) (d * m)

/-- x < y of two numbers, zeros equal (R208). -/
def lt : XVal → XVal → Bool
  | nan, _ => false
  | _, nan => false
  | inf s, inf t => s && !t
  | inf s, fin _ _ _ => s
  | fin _ _ _, inf t => !t
  | fin s n d, fin t m e => decide (snum s n * (e : Int) < snum t m * (d : Int))

/-- x = y of two numbers, zeros equal (R208). -/
def eq : XVal → XVal → Bool
  | nan, _ => false
  | _, nan => false
  | inf s, inf t => s == t
  | inf _, fin _ _ _ => false
  | fin _ _ _, inf _ => false
  | fin s n d, fin t m e => decide (snum s n * (e : Int) = snum t m * (d : Int))

def le (x y : XVal) : Bool := lt x y || eq x y

/-- minimumNumber: -0 below +0, a NaN ignored beside a number (R83). -/
def minNum (x y : XVal) : XVal :=
  if x.isNan then y else if y.isNan then x
  else if lt x y then x else if lt y x then y else if x.sign then x else y

/-- maximumNumber (R83). -/
def maxNum (x y : XVal) : XVal :=
  if x.isNan then y else if y.isNan then x
  else if lt x y then y else if lt y x then x else if x.sign then y else x

end XVal

/-- floor(log2 (n / d)) of positive n and d. -/
def floorLog2 (n d : Nat) : Int :=
  let k : Int := (Nat.log2 n : Int) - Nat.log2 d
  if (if 0 ≤ k then decide (d * 2 ^ k.toNat ≤ n) else decide (d ≤ n * 2 ^ (-k).toNat)) then k else k - 1

/-- The magnitude n / d in units of 2^q, as a fraction. -/
def inUnits (n d : Nat) (q : Int) : Nat × Nat :=
  if 0 ≤ q then (n, d * 2 ^ q.toNat) else (n * 2 ^ (-q).toNat, d)

/-- What lies between a grid point and the value above it. -/
inductive Rest where
  | exact | below | half | above
  deriving DecidableEq, Repr

/-- Where r / d lies in [0, 1). -/
def restOf (r d : Nat) : Rest :=
  if r = 0 then .exact else if 2 * r < d then .below else if 2 * r = d then .half else .above

/-- Whether a magnitude between grid points m and m + 1 is rounded up (R80). -/
def roundsUp (mode : Rounding) (neg : Bool) (m : Nat) (r : Rest) : Bool :=
  match r with
  | .exact => false
  | _ =>
    match mode with
    | .rz => false
    | .rm => neg
    | .rp => !neg
    | .rne => r == .above || (r == .half && m % 2 == 1)

/-- A code with its sign bit. -/
def Fmt.signed (f : Fmt) (neg : Bool) (mag : Nat) : Nat := if neg then 2 ^ (f.width - 1) + mag else mag

/-- Whether an overflow becomes an infinity (R80). -/
def overflowsToInf (mode : Rounding) (neg : Bool) : Bool :=
  mode == .rne || (mode == .rp && !neg) || (mode == .rm && neg)

/-- The code of m units of 2^q, with what lies above; q is the grid spacing of R80 at the value. The codes of one sign
are consecutive along the grid. -/
def Fmt.finish (f : Fmt) (mode : Rounding) (sat : Saturate) (neg : Bool) (q : Int) (m : Nat) (r : Rest) : Nat :=
  let m' := if roundsUp mode neg m r then m + 1 else m
  let mag := (q - f.qmin).toNat * 2 ^ f.fbits + m'
  if m' = 0 then f.signed neg 0
  else if mag ≤ f.maxCode then f.signed neg mag
  else if sat == .fmt then f.signed neg f.maxCode
  else if overflowsToInf mode neg then
    match f.infCode with
    | some i => f.signed neg i
    | none => f.nan
  else f.signed neg f.maxCode

/-- Grid spacing exponent at a magnitude with floor(log2) = l (R80). -/
def Fmt.spacing (f : Fmt) (l : Int) : Int := max (l - f.fbits) f.qmin

/-- Round, and the FMT saturation of Convert (R80, R81). -/
def Fmt.round (f : Fmt) (mode : Rounding) (sat : Saturate) : XVal → Nat
  | .nan => f.nan
  | .inf s =>
    if sat == .fmt then f.signed s f.maxCode
    else match f.infCode with
      | some i => f.signed s i
      | none => f.nan
  | .fin s n d =>
    if n = 0 then f.signed s 0
    else
      let q := f.spacing (floorLog2 n d)
      let (a, b) := inUnits n d q
      f.finish mode sat s q (a / b) (restOf (a % b) b)

/-- The code of 1 (R81, UNIT). -/
def Fmt.one (f : Fmt) : Nat := f.bias * 2 ^ f.fbits

/-- Decode (R76). -/
def Fmt.decode (f : Fmt) (code : Nat) : XVal :=
  let s := code.testBit (f.width - 1)
  let mag := code % 2 ^ (f.width - 1)
  let e := mag / 2 ^ f.fbits
  let m := mag % 2 ^ f.fbits
  if f == .e4m3 && mag == 0x7F then .nan
  else if f.infCode == some mag then .inf s
  else if f.infCode.isSome && e == 2 ^ f.ebits - 1 then .nan
  else if e = 0 then XVal.scaled s m f.qmin
  else XVal.scaled s (2 ^ f.fbits + m) (f.qmin + (e - 1 : Nat))

/-- Convert to a floating-point format (R81). -/
def Fmt.convert (f : Fmt) (x : XVal) (mode : Rounding) (sat : Saturate) : Nat :=
  if sat == .unit then
    let y := f.decode (f.round mode .none x)
    if y.isNan || y.sign || y.isZero then 0
    else if XVal.lt (XVal.ofInt 1) y then f.one else f.round mode .none x
  else f.round mode sat x

/-- The integer nearest a finite value under a rounding (R81). -/
def roundInt (mode : Rounding) (neg : Bool) (n d : Nat) : Int :=
  let m := n / d
  XVal.snum neg (if roundsUp mode neg m (restOf (n % d) d) then m + 1 else m)

/-- MINV and MAXV of an integer format of `w` bits (R78). -/
def minInt (signed : Bool) (w : Nat) : Int := if signed then -(2 : Int) ^ (w - 1) else 0
def maxInt (signed : Bool) (w : Nat) : Int := if signed then (2 : Int) ^ (w - 1) - 1 else (2 : Int) ^ w - 1

/-- Clamp to an integer format (R78). -/
def clampInt (signed : Bool) (w : Nat) (n : Int) : Int := min (max n (minInt signed w)) (maxInt signed w)

/-- Convert to an integer format of `w` bits (R81). -/
def convertInt (signed : Bool) (w : Nat) (x : XVal) (mode : Rounding) (sat : Bool) : Nat :=
  match x with
  | .nan => 0
  | .inf s => wrapNat w (if s then minInt signed w else maxInt signed w)
  | .fin s n d =>
    let v := roundInt mode s n d
    wrapNat w (if sat then clampInt signed w v else v)

/-- Integer square root by bits, from bit `k` down. -/
def isqrtFrom (n : Nat) : Nat → Nat → Nat
  | 0, r => if (r + 1) * (r + 1) ≤ n then r + 1 else r
  | k + 1, r => let c := r + 2 ^ (k + 1); isqrtFrom n k (if c * c ≤ n then c else r)

/-- floor(√n). -/
def isqrt (n : Nat) : Nat := isqrtFrom n (Nat.log2 n / 2 + 1) 0

/-- √(n / d) of positive n and d, rounded once (R210: correctly rounded). -/
def Fmt.sqrt (f : Fmt) (mode : Rounding) (n d : Nat) : Nat :=
  let q := f.spacing (Int.fdiv (floorLog2 n d) 2)
  let (a, b) := inUnits n d (2 * q)
  let m := isqrt (a / b)
  let r : Rest :=
    if m * m * b = a then .exact
    else if 4 * a < (4 * m * m + 4 * m + 1) * b then .below
    else if 4 * a = (4 * m * m + 4 * m + 1) * b then .half else .above
  f.finish mode .none false q m r

/-- Table 5.4: the value of an element code as an E2M1 code, the extra value apart. DecodeE2M1X (R84). -/
def decodeE2M1X (c e xb : Nat) : XVal :=
  if e = 0xFF then .nan
  else (if c = 8 then Fmt.decode .e4m3 xb else Fmt.decode .e2m1 c).mul (XVal.scaled false 1 ((e : Int) - 127))

/-- A block of the E2M1X format (R84): 32 codes, the scale and the extra byte. -/
structure Block where
  codes : List Nat
  scale : Nat
  extra : Nat
  deriving DecidableEq, Repr

/-- The largest magnitude of finite values. -/
def maxAbs (xs : List XVal) : XVal := xs.foldl (fun m x => if XVal.lt m x.abs then x.abs else m) (XVal.zero false)

/-- Index of the first greatest of finite values. -/
def argMax : List XVal → Nat → Nat → XVal → Nat
  | [], _, best, _ => best
  | x :: xs, i, best, m => if XVal.lt m x then argMax xs (i + 1) i x else argMax xs (i + 1) best m

/-- ConvertBlockE2M1X (R86). -/
def convertBlock (xs : List XVal) : Block :=
  if xs.any (fun x => x.isNan || x.isInf) then ⟨xs.map fun _ => 0, 0xFF, 0⟩
  else
    match maxAbs xs with
    | .fin _ n d =>
      if n = 0 then ⟨xs.map fun _ => 0, 127, 0⟩
      else
        let e : Nat := (min (max (floorLog2 n d - 2 + 127) 0) 254).toNat
        let ys := xs.map fun x => x.mul (XVal.scaled false 1 (127 - (e : Int)))
        let q := ys.map fun y => Fmt.convert .e2m1 y .rne .fmt
        let errs := List.zipWith (fun y c => (XVal.sub .rne y (Fmt.decode .e2m1 c)).abs) ys q
        let j := argMax (errs.drop 1) 1 0 (errs.headD (XVal.zero false))
        let xb := Fmt.convert .e4m3 (ys.getD j (XVal.zero false)) .rne .fmt
        let v := Fmt.decode .e4m3 xb
        let code := fun (y : XVal) (p : Nat × XVal) =>
          if XVal.lt (XVal.sub .rne y v).abs p.2 then 8
          else if (Fmt.decode .e2m1 p.1).isZero then 0 else p.1
        ⟨List.zipWith code ys (List.zip q errs), e, xb⟩
    | _ => ⟨xs.map fun _ => 0, 0xFF, 0⟩

/-- An FP32 word's exact value. -/
abbrev fval (w : Word) : XVal := Fmt.decode .fp32 w.toNat

/-- The word of an FP32 code. -/
abbrev fword (n : Nat) : Word := BitVec.ofNat 32 n

/-- 1 / 255 scaled by an UN8 code (R298). -/
def un8 (c : Nat) : XVal := .fin false c 255

/-- Add-then-round once to FP32 by RNE, and its product and quotient (R311). -/
def fadd32 (x y : Word) : Word := fword (Fmt.round .fp32 .rne .none (XVal.add .rne (fval x) (fval y)))
def fsub32 (x y : Word) : Word := fword (Fmt.round .fp32 .rne .none (XVal.sub .rne (fval x) (fval y)))
def fmul32 (x y : Word) : Word := fword (Fmt.round .fp32 .rne .none (XVal.mul (fval x) (fval y)))
def fdiv32 (x y : Word) : Word := fword (Fmt.round .fp32 .rne .none (XVal.div (fval x) (fval y)))

/-- Correctly rounded square root of an FP32 word (Table 10.6, R311). -/
def fsqrt32 (mode : Rounding) (x : Word) : Word :=
  match fval x with
  | .nan => fword (Fmt.nan .fp32)
  | .inf s => if s then fword (Fmt.nan .fp32) else x
  | .fin s n d => if n = 0 then x else if s then fword (Fmt.nan .fp32) else fword (Fmt.sqrt .fp32 mode n d)

/-! ### Values that the manual bounds (Table 10.5, R311)

The exact result of a transcendental function is enclosed between two rationals, far closer than any bound of the manual; the
device's own value is taken where it meets the bound against every value enclosed, and the nearest one otherwise
(DEDUCED, unsafe; log entry 7). -/

/-- An exact value lies between lo / den and hi / den. -/
structure Encl where
  lo : Int
  hi : Int
  den : Nat
  deriving DecidableEq, Repr

/-- Units of the fixed-point evaluation to 1, what its result may be off by, and ln 2 and 2π in units of 2^-160 and
2^-320. -/
def fixOne : Nat := 2 ^ 160
def fixSlack : Nat := 2 ^ 40
def fixLn2 : Nat := 0xb17217f7d1cf79abc9e3b39803f2f6af40f34326
def fixTau : Nat := 0x6487ed5110b4611a62633145c06e0e68948127044533e63a0105df531d89cd9128a5043cc71a026ef

/-- Sum of the terms of e^r in fixed point from term `i`, for 0 ≤ r < 1. -/
def expTerms (r : Nat) : Nat → Nat → Nat → Nat
  | 0, _, _ => 0
  | n + 1, i, t => t + expTerms r n (i + 1) (t * r / fixOne / (i + 1))

/-- The value m units times 2^k, enclosed. -/
def Encl.scaled (m : Nat) (k : Int) : Encl :=
  if 0 ≤ k then ⟨((m - fixSlack) * 2 ^ k.toNat : Nat), ((m + fixSlack) * 2 ^ k.toNat : Nat), fixOne⟩
  else ⟨(m - fixSlack : Nat), (m + fixSlack : Nat), fixOne * 2 ^ (-k).toNat⟩

/-- The largest exponent that is evaluated as it stands: beyond it every FP32 bound gives the same values. -/
def clampExp (k : Int) : Int := max (-1000) (min k 1000)

/-- 2^x. -/
def exp2Encl (s : Bool) (n d : Nat) : Encl :=
  let t := XVal.snum s n * fixOne
  let k := t / (d * fixOne)
  let r := ((t - k * (d * fixOne)) / d).toNat
  Encl.scaled (expTerms (r * fixLn2 / fixOne) 45 0 fixOne) (clampExp k)

/-- e^x. -/
def expEncl (s : Bool) (n d : Nat) : Encl :=
  let t := XVal.snum s n * fixOne / d
  let k := t / fixLn2
  Encl.scaled (expTerms (t - k * fixLn2).toNat 45 0 fixOne) (clampExp k)

/-- Terms of artanh(z) in fixed point, from z^(2i + 1) / (2i + 1). -/
def atanhTerms (z2 : Nat) : Nat → Nat → Nat → Nat
  | 0, _, _ => 0
  | n + 1, i, p => p / (2 * i + 1) + atanhTerms z2 n (i + 1) (p * z2 / fixOne)

/-- log2 of a positive value. -/
def log2Encl (n d : Nat) : Encl :=
  let k := floorLog2 n d
  let m := inUnits n d k
  let z := (m.1 - m.2) * fixOne / (m.1 + m.2)
  let ln := 2 * atanhTerms (z * z / fixOne) 60 0 z
  let v : Int := k * fixOne + (ln * fixOne / fixLn2 : Nat)
  ⟨v - fixSlack, v + fixSlack, fixOne⟩

/-- Alternating terms of sine and cosine: term i is term i - 1 times r² / ((a + 2i)(a + 2i + 1)). -/
def trigTerms (r2 a : Nat) : Nat → Nat → Nat → Int
  | 0, _, _ => 0
  | n + 1, i, t => (t : Int) - trigTerms r2 a n (i + 1) (t * r2 / fixOne / ((a + 2 * i) * (a + 2 * i + 1)))

/-- A magnitude reduced modulo 2π, in fixed point. -/
def reduceTau (n d : Nat) : Nat := n * 2 ^ 320 / d % fixTau / 2 ^ 160

/-- sin x. -/
def sinEncl (s : Bool) (n d : Nat) : Encl :=
  let r := reduceTau n d
  let v := trigTerms (r * r / fixOne) 2 45 0 r
  let v := if s then -v else v
  ⟨v - fixSlack, v + fixSlack, fixOne⟩

/-- cos x. -/
def cosEncl (n d : Nat) : Encl :=
  let r := reduceTau n d
  let v := trigTerms (r * r / fixOne) 1 45 0 fixOne
  ⟨v - fixSlack, v + fixSlack, fixOne⟩

/-- tanh x for |x| < 10. -/
def tanhEncl (s : Bool) (n d : Nat) : Encl :=
  let e := expEncl false (2 * n) d
  let v : Int := (e.lo - e.den) * fixOne / (e.lo + e.den)
  let v := if s then -v else v
  ⟨v - fixSlack, v + fixSlack, fixOne⟩

/-- Is |c - v| at most bn / bd for every value v enclosed? -/
def Encl.within (e : Encl) (bn bd : Nat) (neg : Bool) (n d : Nat) : Bool :=
  let c := XVal.snum neg n
  decide ((c * e.den - e.lo * d) * bd ≤ bn * (d * e.den)) && decide ((e.hi * d - c * e.den) * bd ≤ bn * (d * e.den))

/-- The exact value nearest the middle of what is enclosed, as FP32. -/
def Encl.nearest (e : Encl) : Word := fword (Fmt.round .fp32 .rne .none (.fin (decide (e.lo < 0)) e.lo.natAbs e.den))

/-- `k` units in the last place of the FP32 grid at the value enclosed, as a fraction (Table 10.5). -/
def Encl.ulps (e : Encl) (k : Nat) : Nat × Nat :=
  let q := Fmt.spacing .fp32 (if e.lo.natAbs = 0 then -150 else floorLog2 e.lo.natAbs e.den)
  if 0 ≤ q then (k * 2 ^ q.toNat, 1) else (k, 2 ^ (-q).toNat)

/-- A value of the device's within a bound of the one enclosed, and in [-1, 1] where `unit` asks; an infinity stands for 2^128,
beyond which it is within every bound. -/
def Encl.pick (e : Encl) (b : Nat × Nat) (unit : Bool) (cand : Word) : Word :=
  let ok := match fval cand with
    | .nan => false
    | .inf s => !unit && !s && (e.within b.1 b.2 false (2 ^ 128) 1 || decide ((2 ^ 128 * e.den : Nat) ≤ e.lo))
    | .fin s n d => (!unit || decide (n ≤ d)) && e.within b.1 b.2 s n d
  if ok then cand else e.nearest

end Sys2Proof.Machine
end

