-- ==== Sys2Proof/Config.lean ====
section
/-!
DEFINITION. Config.lean: what the manual fixes for every FML-2048 as tables, and the free values: what it leaves open.
A free value has no body, so no proof can see it, and a statement that holds is true whatever it is.
-/

namespace Sys2Proof.Config

/-- Counts of the FUSE timeout classes 1 to 14 without `.fusetab` (Table 3.5). -/
def fuseCounts : List Nat :=
  [16, 32, 64, 128, 256, 512, 1024, 2048, 4096, 8192, 16384, 32768, 65535, 65535]

/-- A word the manual does not state, by the free-value counter (DESIGN CHOICE, safe; log entry 1). -/
opaque freeWord : Nat → Word

/-- A byte the manual does not state, by the free-value counter and a position (DESIGN CHOICE, safe; log entry 1). -/
opaque freeByte : Nat → Nat → Byte

/-- What the device returns for FRSQ, FEX2, FLG2, FSIN, FCOS and FTANH (functions 1 and 3 to 7 of Table 10.5) of a
finite FP32 input whose result the manual bounds and does not state; the same on every execution (R210; DESIGN CHOICE,
safe; log entry 7). -/
opaque transcendental : Nat → Word → Word

/-- e^x of the splat pipeline for x other than 0: within 2 ulp, the same on every execution (R311; DESIGN CHOICE,
safe; log entry 7). -/
opaque splatExp : Word → Word

/-- Bits beyond 24 in which the splat engine holds an intermediate value of a gradient, 0 for FP32: by the command and pixel,
the operation, and the exact value (R315; DESIGN CHOICE, unsafe; log entry 8). -/
opaque gradWidth : Nat → Nat → Nat → Nat → Nat

/-- The order of the terms of a sum of a gradient, or of a tile's adds, by the command and pixel and the number of them; used
when it is an order of all of them (R315, R316; DESIGN CHOICE, unsafe; log entry 8). -/
opaque gradOrder : Nat → Nat → List Nat

/-- Whether the splat engine combines a tile's contributions to one word before it adds them, by the command and pixel and the
address (R316; DESIGN CHOICE, unsafe; log entry 8). -/
opaque gradCombine : Nat → Nat → Bool

/-- The order in which a collective adds the shares of `n` places; used when it is an order of all of them (R249;
DESIGN CHOICE, safe; log entry 9). -/
opaque sumOrder : Nat → List Nat

/-- Bytes of a collective's destination after a peer was lost (R441; DESIGN CHOICE, safe; log entry 9). -/
opaque lostBytes : Nat → Nat → Byte

/-- The SHA3-512 digest, 64 bytes (R368 to R371; DESIGN CHOICE, safe; log entry 10). -/
opaque sha3 : List Byte → List Byte

/-- The ML-DSA-87 signature of a digest under the module's identity key, 4,627 bytes (R370; DESIGN CHOICE, safe; log
entry 10). -/
opaque sign : List Byte → List Byte

/-- Whether a firmware image verifies as boot step 8 does (R368, R371; DESIGN CHOICE, safe; log entry 10). -/
opaque verifies : List Byte → Bool

/-- The last 64 bytes of a quad record, from the predicates of its four lanes, its `SR_RESUMED` state and its clock
latch: the manual gives their place there, and not their layout (R350, R414; DESIGN CHOICE, safe; log entry 21). -/
opaque packQuad : BitVec 28 → Bool → Option Word → List Byte

/-- The predicates and the `SR_RESUMED` state that those 64 bytes hold (R414; DESIGN CHOICE, safe; log entry 21). -/
opaque quadPreds : List Byte → BitVec 28
opaque quadResumed : List Byte → Bool

/-- A byte of the identity public key, 2,592 bytes (R361, R370; DESIGN CHOICE, safe; log entry 10). -/
opaque publicKey : Nat → Byte

/-- The copy engine that serves a host COPY command, by its number (R326; DESIGN CHOICE, safe; log entry 11). -/
opaque hostEngine : Nat → Nat

end Sys2Proof.Config
end

