-- ==== Sys2Proof/Machine/State.lean ====
section
/-!
DEFINITION. State.lean: every piece of state the manual gives one Firomal module, as plain data, and the state at reset.
Each field's comment gives its width, the rule that names it and its value at reset (a field of a record that does not
exist at reset, such as a wave's, gives the value at the record's creation).
-/

namespace Sys2Proof.Machine

/-- A table from numbers to values in one canonical form: keys strictly rising, and no entry equal to the default, which
is what an unlisted key reads as. Registers, memories and unit tables are kept so, and equal tables are equal data. -/
abbrev Cells (α : Type) := List (Nat × α)

/-- Fuse-wait state of a part (Table 3.2). -/
inductive Fws where
  | run | fuse | forced | parked
  deriving DecidableEq, Repr, Inhabited

/-- Split reason of a part (Table 3.2). -/
inductive Reason where
  | whole | brT | brN | brM | miss | fault | merged | defer
  deriving DecidableEq, Repr, Inhabited

/-- What keeps a part in state RUN from being ready: the phase of a barrier that it waits to see passed, at a BAR.WAIT
that has yet to issue or after a BAR.SYNC (R31, R139, R141), a ring slot it claimed (R36), the cycles left of a SLEEP
(R191), a YIELD with its live-tile mask (R190, R343). `passed` and `got` hold nothing: the BAR.WAIT or STAGE.ACQ at the
part's index may now issue (R139). -/
inductive Hold where
  | none
  | barrier (id phase : Nat) (waits : Bool)
  | passed
  | ring (q slot : Nat)
  | got (slot : Nat)
  | sleep (left : Nat)
  | yielded (live : Word)
  deriving DecidableEq, Repr, Inhabited

/-- A further instruction of a chain that a part is still to issue alone: its index, its lanes, and the lanes active for it
when its chain issued (R57, R142, R401). -/
structure Later where
  pc : Word
  lanes : BitVec 64
  act : BitVec 64
  deriving DecidableEq, Repr, Inhabited

/-- An instruction to be issued alone, for the lanes named, with the index at which the part then continues (R57, R142,
R414). -/
structure Redo where
  /-- 64 bits: lanes not yet done (R57). -/
  lanes : BitVec 64
  /-- 32 bits: index after the chain (R142). -/
  next : Word
  /-- Further instructions of the chain to issue alone after it, by index (R57, R141, R401). -/
  more : List Later
  /-- 64 bits: lanes active for the instruction when its chain issued, of which a quad's lowest gives the result of a k
  register (R64). -/
  act : BitVec 64
  deriving DecidableEq, Repr, Inhabited

/-- A part: an entry of its partition's part table (R41, Table 3.1). Its block follows from its members (R42), its
counters and scoreboard from the wave's outstanding operations (R43). -/
structure Part where
  /-- 5 bits: part-table entry (R46, R61). 0 at launch. -/
  entry : Nat
  /-- 16 bits: member mask (R41). Every quad of the wave at launch. -/
  members : BitVec 16
  /-- 32 bits: program counter, a code index (R41, R134). The entry index at launch. -/
  pc : Word
  /-- 64 bits: the 4-bit lane mask of each member quad, bit L for lane L (R41, R63). Every lane at launch (R74). -/
  masks : BitVec 64
  /-- Fuse-wait state (R41). RUN at launch (R74). -/
  fws : Fws
  /-- 8 bits: wait id (R41): fuse id, width code or wait-table entry. 0. -/
  waitId : Nat
  /-- 24 bits, saturating: wait clock (R54, R58, R61). 0. -/
  clock : Nat
  /-- 4 bits: timeout class of the FUSE waited at (R54, Table 3.6). 0. -/
  cls : Nat
  /-- Split reason (R41). WHOLE at launch (R74). -/
  reason : Reason
  /-- Age stamp (R44). From the partition's counter at launch. -/
  age : Nat
  /-- 10 bits: the part's copy of SR_PENNANT (R45, R396). 0 at launch (R74). -/
  pennant : BitVec 10
  /-- 3 bits: priority (R192). The launch record's. -/
  prio : BitVec 3
  /-- What a part in RUN waits for (R31, R36, R191, R343). none. -/
  hold : Hold
  /-- 16 bits: token of the wait-table entry it is parked under (R57, Table 3.6). 0. -/
  token : BitVec 16
  /-- The instruction it reissues alone (R57, R142, R414). none. -/
  redo : Option Redo
  /-- Index at which a part stopped by TRAP, BRK or YIELD, or waiting at a FUSE, goes on (R53, R190, R414). none. -/
  after : Option Word
  /-- End of a chain that it issues serially, and the flags that the chain has set so far (R407, R416). none. -/
  serial : Option (Word × BitVec 10)
  /-- First index of the chain whose instruction it waits for in FORCED (R412). 0. -/
  first : Word
  /-- Index of the instruction that last redirected it (R408, Table 25.1, BADTARGET). 0. -/
  came : Word
  /-- Cycles until it is ready (R46, R50, R184). 0 at launch. -/
  delay : Nat
  /-- Cycles since it last issued (R339). 0. -/
  idle : Nat
  /-- Cycles its next chain has waited on the scoreboard (R56). 0. -/
  stalled : Nat
  /-- Engine commands that must complete before later commands of the part begin (R127, FENCE kind 3). none. -/
  fenced : List Nat
  /-- A replay answered its entry while the part was saved or being saved (R348). false. -/
  replayed : Bool
  /-- A replay failed it while it was saved, so that no later answer wakes it (R429). false. -/
  failed : Bool
  /-- It found every wait-table entry of its section in use: it walks again once one is freed (R430). false. -/
  starved : Bool
  deriving DecidableEq, Repr, Inhabited

/-- A deferred-path entry (R49, Table 3.3). An entry of a stack is valid by its presence. -/
structure DefEntry where
  /-- 1 bit: PH, the deferred path is running (R49). 0 when pushed. -/
  running : Bool
  /-- 4 bits: DEFMASK (R49). -/
  defMask : BitVec 4
  /-- 4 bits: RESTMASK (R49). -/
  restMask : BitVec 4
  /-- 8 bits: FUSEID (R49). -/
  fuseId : BitVec 8
  /-- 32 bits: RESUME (R49). -/
  resume : Word
  deriving DecidableEq, Repr, Inhabited

/-- What each quad of a wave holds beside its lanes. -/
structure Quad where
  /-- Deferred-path entries on chip, top first, at most 8 once its moves are made (R49, R50). Empty at launch. -/
  stack : List DefEntry
  /-- Number of entries in the divergence area (R50). 0. -/
  spilled : Nat
  /-- SR_RESUMED reads 1 to the next read (R72). false. -/
  resumed : Bool
  /-- 32 bits: latched high half of the cycle count (R71). Nothing latched. -/
  clockHi : Option Word
  deriving DecidableEq, Repr, Inhabited

/-- The registers of one lane. -/
structure Lane where
  /-- v0 to v95, 32 bits each (R63). 0 at launch (R74). -/
  v : Cells Word
  /-- p0 to p6, one bit each (R65). False at launch (R74). -/
  p : BitVec 7
  /-- 96 bits: poison mark of each v register (R424). 0. -/
  bad : BitVec 96
  deriving DecidableEq, Repr, Inhabited

/-- The registers of one quad that its lanes share. -/
structure QuadRegs where
  /-- k0 to k31, 32 bits each (R64). 0 at launch, but as Table 4.5 gives for a continuation (R74). -/
  k : Cells Word
  /-- 32 bits: poison mark of each k register (R424). 0. -/
  bad : BitVec 32
  /-- Scope, plus 1, of the engine command whose status word the register holds: reading it is an acquire (R127, R128).
  0: no status word. -/
  status : Cells Nat
  deriving DecidableEq, Repr, Inhabited

/-- The register file of a wave: its lanes and its quads (R13, R63, R64). -/
structure RegFile where
  /-- Lanes 0 to 63 (R19). -/
  lanes : Cells Lane
  /-- Quads 0 to 15 (R19). -/
  quads : Cells QuadRegs
  deriving DecidableEq, Repr, Inhabited

/-- A write that an outstanding operation makes to a register when it completes: a v register of a lane, or a k register
of a quad (R64, R68). -/
structure RegWrite where
  isK : Bool
  index : Nat
  reg : Nat
  value : Word
  bad : Bool
  deriving DecidableEq, Repr, Inhabited

/-- A step of a store, RED or non-returning ATOMS still to be performed at the home slice (R93, R117, R231). -/
structure HomeStep where
  addr : Nat
  data : List Byte
  rmw : Option (Nat × Nat × Nat × Nat)
  /-- CP of its page (R92, R99); 0 in a window. -/
  cp : Nat
  deriving DecidableEq, Repr, Inhabited

/-- The counter classes of Table 4.3, and operations that no counter counts. (DEDUCED, unsafe; log entry 59.) -/
inductive OpClass where
  | ldc | stc | cpc | cbc | rtc | uncounted
  deriving DecidableEq, Repr, Inhabited

/-- What an outstanding operation still has to do. -/
inductive OpKind where
  | regs (w : List RegWrite)
  | home (w : List HomeStep)
  | none
  | rt (pc word0 word1 : Word) (w : List RegWrite)
  | engine (sect cmd : Nat)
  | cube (left : Nat)
  | launch (addr : Nat) (waited : Nat)
  deriving DecidableEq, Repr, Inhabited

/-- An outstanding operation of a wave (R43, R68). -/
structure Op where
  /-- Its number in the module's order of issue (R68). -/
  id : Nat
  /-- The instruction it belongs to, which counts once: the number of the instruction's first operation (R236). -/
  group : Nat
  /-- Its counter class (R68). -/
  cls : OpClass
  /-- 16 bits: member quads of the part that issued it (R43). -/
  quads : BitVec 16
  /-- 64 bits: lanes it serves (R57, R64). -/
  lanes : BitVec 64
  /-- Its destination registers, as register fields, held on the scoreboard (R43). -/
  regs : List Nat
  kind : OpKind
  /-- Cycle in which it was issued (R199, R236). -/
  born : Nat
  /-- It has completed and waits to leave its count in issue order (R68). -/
  done : Bool
  /-- It missed in L2 (R56). -/
  missed : Bool
  /-- Miss registers of the core that it holds: one for each line it missed (R12, R15). -/
  misses : Nat
  /-- A ring release it performs on completion: ring and slot (R37). -/
  release : Option (Nat × Nat)
  /-- Remote scratch steps not yet applied: target core (R97). -/
  target : Nat
  /-- The scratchpad tile of a cube operation that its part's later accesses wait for (R285): 1 one that a CUBE or a CALDS
  reads, 2 one that a CASTS writes; 0 none. -/
  tile : Nat
  /-- Faults its ray or texture reads have met: code, lane, address, detail (R418). -/
  faults : List (Nat × Nat × Nat × Nat)
  deriving DecidableEq, Repr, Inhabited

/-- A stop of a whole wave by a trap or a debug stop (R62, R390, R413). -/
structure Stop where
  /-- 64 bits: DUMP field of its latest record, or the record's address (R413). -/
  dump : Nat
  /-- It stays for the debugger (R390, R413). -/
  debug : Bool
  /-- A record of it waits for room in the fault queue (R389). -/
  held : Bool
  /-- A single step in progress: entries of the parts still to issue, the oldest first (R62, R414). none. -/
  stepping : Option (List Nat)
  /-- Cycle of its latest record, that record's write index and PART, and whether a part trapped in that cycle, so that parts
  of the wave that trap in one cycle set MULTI in their records (R390, R416). -/
  cycle : Nat
  record : Nat
  part : Nat
  trap : Bool
  /-- Dumps taken in that cycle, which show the wave as the cycle leaves it (R61, R62). -/
  dumps : List Nat
  deriving DecidableEq, Repr, Inhabited

/-- A resident wave (R19 to R23, Table 4.1). -/
structure Wave where
  /-- The model's own name of the wave. -/
  id : Nat
  /-- The workgroup it belongs to. -/
  wg : Nat
  /-- 5 bits: SR_WAVE (R21). -/
  num : Nat
  /-- Width in lanes, SR_WIDTH (R19). -/
  width : Nat
  /-- Partition of its core, 0 to 3 (R21). -/
  partition : Nat
  /-- Its registers and predicates (R63 to R65). -/
  rf : RegFile
  /-- Its parts (R41). One part at launch (R74). -/
  parts : List Part
  /-- Deferred stacks and the other state of its quads (R49, R71, R72). Empty at launch (R74). -/
  quads : Cells Quad
  /-- 64 bits: lanes that have exited (R183). None at launch; lanes without a record in a gather wave (R304). -/
  exited : BitVec 64
  /-- 2 bits: SR_ROUND (R73). The launch record's (R74). -/
  round : BitVec 2
  /-- 1 bit: SR_CUBEMODE, 1 ASSIST (R73). The launch record's (R74). -/
  assist : Bool
  /-- 16 bits per barrier id: quads that executed an arrival since the wave's previous one (R30). 0. -/
  arrived : Cells (BitVec 16)
  /-- 10 bits per barrier id: expected count of the last arrival executed (R30). 0. -/
  expects : Cells Nat
  /-- Phase number of the wave's last arrival at each id (R31). None. -/
  phases : Cells (Option Nat)
  /-- Outstanding operations in issue order, the oldest first (R43, R68). Empty at launch. -/
  ops : List Op
  /-- The wave is stopped (R62). none. -/
  stop : Option Stop
  deriving DecidableEq, Repr, Inhabited

/-- A barrier of a workgroup (R29). -/
structure Barrier where
  /-- Arrival count (R29). 0 at start. -/
  count : Nat
  /-- Expected count, fixed by the first arrival of a phase (R29, R186). None at start. -/
  expected : Option Nat
  /-- Phase number (R29). 0 at start. -/
  phase : Nat
  deriving DecidableEq, Repr, Inhabited

/-- A slot of a stage ring (R35). -/
structure RingSlot where
  /-- 1 bit: a wave or engine holds the slot (R35). 0 at start. -/
  full : Bool
  /-- 3 bits: the stage that may take it next (R35). 0 at start. -/
  owner : Nat
  /-- The wave that holds it (R410). None. -/
  holder : Option Nat
  /-- An engine release of it is pending (R410). false. -/
  pending : Bool
  deriving DecidableEq, Repr, Inhabited

/-- A declared ring (R35, Table 16.4). -/
structure Ring where
  valid : Bool
  slots : Nat
  size : Nat
  offset : Nat
  deriving DecidableEq, Repr, Inhabited

/-- An entry of a node table (R364, Table 18.5b). -/
structure Node where
  id : Nat
  width : Nat
  timer : Nat
  stride : Nat
  code : Word
  deriving DecidableEq, Repr, Inhabited

/-- A launch record (R328, Table 16.4). -/
structure LaunchRec where
  code : Word
  nwgx : Nat
  nwgy : Nat
  nwgz : Nat
  width : Nat
  waves : Nat
  cw : Nat
  ch : Nat
  scratch : Nat
  param : Nat
  stagemap : List Nat
  rings : List Ring
  barriers : Nat
  splitMiss : Bool
  round : BitVec 2
  assist : Bool
  prio : BitVec 3
  yieldDl : Nat
  divN : Nat
  divOffset : Nat
  fusetab : List Nat
  span : Nat
  compl : Nat
  nodetab : Nat
  deriving DecidableEq, Repr, Inhabited

/-- A resident workgroup (R21, R22, R29, R35, R95). -/
structure WG where
  /-- The model's own name of the workgroup. -/
  id : Nat
  /-- The grid it belongs to, or that created it (R327). -/
  grid : Nat
  /-- Its context (R322). -/
  ctx : Nat
  /-- Its core: die * 256 + y * 16 + x (R8). -/
  core : Nat
  /-- The cluster it belongs to, by its rank-0 workgroup (R27). -/
  cluster : Nat
  /-- 4 bits: SR_CLRANK (R27). -/
  rank : Nat
  /-- SR_WGX, SR_WGY, SR_WGZ (R24). -/
  x : Nat
  y : Nat
  z : Nat
  /-- The launch values its special registers read (R70, R328, R338). -/
  launch : LaunchRec
  /-- It is a continuation or a gather-node workgroup (R338). -/
  descendant : Bool
  /-- Barriers 0 to 15 (R29). -/
  barriers : Cells Barrier
  /-- Ring slots, at 16 * ring + slot (R35). -/
  slots : Cells RingSlot
  /-- Cursor of each (ring, stage), at 8 * ring + stage (R35). 0 at start. -/
  cursors : Cells Nat
  /-- The scratchpad window, a byte at each offset (R95). Every byte 0 at start (R96). -/
  scratch : Cells Byte
  /-- Cycles left of its deadline counter (R342). Not running. -/
  deadline : Option Nat
  /-- Waves that have not wholly exited (R31). -/
  live : List Nat
  deriving DecidableEq, Repr, Inhabited

/-- A weight slot (R259). -/
structure Slot where
  /-- 1 bit: VALID (R259). 0 when a core passes to a context (R264). -/
  valid : Bool
  /-- FMT (R259). -/
  fmt : Nat
  /-- SPARSE: 0, 2, 4 or 8 (R259). -/
  sparse : Nat
  /-- KEXT (R259). -/
  kext : Nat
  /-- SRCSPACE: scratch (R259). -/
  fromScratch : Bool
  /-- SRCADDR (R259). -/
  src : Nat
  /-- Element storage and side store, as the image's bytes (R259, R278). -/
  image : List Byte
  /-- To be refilled from SRCADDR on its next use (R262). -/
  refill : Bool
  /-- Context whose address space a refill reads (R279). -/
  ctx : Nat
  deriving DecidableEq, Repr, Inhabited

/-- One octet operation of CUBE, captured at issue (R251 to R254, R275). -/
structure OctetOp where
  octet : Nat
  lanes : BitVec 8
  rows : List (List Word)
  gates : List (List Word)
  kgates : List Word
  tile : Nat
  deriving DecidableEq, Repr, Inhabited

/-- An operation that has reached the cube unit (R265, R272). -/
inductive CubeJob where
  | octet (m : CubeMods) (o : CubeOperands) (op : OctetOp) (assist : Bool)
  | load (f : CldbFields) (src : Nat)
  | card (afmt : Nat) (relu scale : Bool) (row0 col0 : Nat) (d : Nat) (lanes : BitVec 8) (octet : Nat) (scales : List Nat)
  | cawr (afmt : Nat) (row0 col0 : Nat) (lanes : BitVec 8) (octet : Nat) (rows : List (List Word))
  | casts (afmt : Nat) (relu scale : Bool) (row0 col0 rows cols off pitch s : Nat)
  | calds (afmt : Nat) (row0 col0 rows cols off pitch : Nat)
  | zeroTile (row0 col0 rows cols : Nat)
  | zeroMask (mask : Word)
  deriving DecidableEq, Repr, Inhabited

/-- A waiting or running operation of a cube unit. -/
structure CubeOp where
  /-- Order in which it reached the unit (R265). -/
  seq : Nat
  /-- Cycle in which it reached the unit (R267). -/
  reached : Nat
  /-- Wave, workgroup and operation it belongs to. -/
  wave : Nat
  wg : Nat
  op : Nat
  job : CubeJob
  /-- Pass or move it is part of, once begun: the cycle in which it is written (R267, R272). -/
  ends : Option Nat
  /-- It is handed to the section controller with its exact results (R257). -/
  assisted : Bool
  /-- Token of the wait-table entry its fill or refill is parked under (R262, R279). none. -/
  parked : Option Nat
  /-- The weight slots that it names, as its pass read them when it began (R261, R267). Empty. -/
  held : Cells Slot
  /-- Its fill has begun and met a page that is not present: it holds no entry of its partition's queue (R14). false. -/
  begun : Bool
  deriving DecidableEq, Repr, Inhabited

/-- A line of an L1 (R92, R98). -/
structure Line where
  /-- Tag: ASID and virtual line address (R92). -/
  asid : Nat
  va : Nat
  /-- Physical line it was filled from (R108). -/
  pa : Nat
  /-- Its 128 bytes (R92). -/
  data : List Byte
  /-- R and W bits it keeps from its translation (R418). -/
  readable : Bool
  writable : Bool
  /-- Evict-last and evict-first marks (R98). Clear. -/
  el : Bool
  ef : Bool
  /-- 4 bits: poisoned 32-byte sectors (R423, R425). 0. -/
  bad : BitVec 4
  /-- Its poison has been consumed by a load or a fetch (R425). false. -/
  used : Bool
  deriving DecidableEq, Repr, Inhabited

/-- A core (R12 to R14). -/
structure Core where
  /-- The context whose work it holds (R264). None at reset. -/
  ctx : Option Nat
  /-- Accumulator store, the cell of row r and column c at 256 * r + c, 32 bits (R263). 0 (R264). -/
  acc : Cells Word
  /-- Poisoned accumulator cells (R394). None. -/
  accBad : List Nat
  /-- Weight slots 0 to 63 (R259). Invalid (R264). -/
  slots : Cells Slot
  /-- Operations of the cube unit in the order they reached it (R265). Empty. -/
  cube : List CubeOp
  /-- The number the next operation to reach the unit takes (R265). -/
  cubeSeq : Nat
  /-- Fills from global memory that a save abandoned and whose slots' headers are restored: their operations complete with the
  slots' refills (R354). Empty. -/
  pendingFills : List CubeOp
  /-- References that its cube unit holds to leaf entries, by the weight slot whose fill or refill targets their pages
  (R105). Empty. -/
  pins : List (Nat × Nat)
  /-- First cycles in which the array and the accumulator port accept again (R267, R272). 0. -/
  arrayFree : Nat
  portFree : Nat
  /-- Unpinned lines of the L1, least recently used first (R92, R99). Empty. -/
  l1 : List Line
  /-- Reverse map: physical frame, ASID and virtual page of each alias (R108). Empty. -/
  rmap : List (Nat × Nat × Nat)
  /-- Age counter of each partition (R44). 0. -/
  ages : Cells Nat
  /-- The wave and part entry that lost a pipe in the last cycle, of each partition (R339). None. -/
  loser : Cells (Option (Nat × Nat))
  /-- Instructions of each partition in its queue of the RT port, the oldest first: wave, operation, and whether it is
  texture work (R14). Empty. -/
  rtQ : Cells (List (Nat × Nat × Bool))
  /-- First cycle in which each pipe of each partition accepts again, at 8 * partition + pipe (R13, R139). 0. -/
  pipes : Cells Nat
  /-- The partitions whose queues the ray unit and the texture unit try next (R14). 0. -/
  rayTurn : Nat
  texTurn : Nat
  deriving DecidableEq, Repr, Inhabited

/-- An entry of a section TLB (R107). -/
structure TlbEntry where
  asid : Nat
  page : Nat
  level : Nat
  pte : DWord
  deriving DecidableEq, Repr, Inhabited

/-- An entry of a fault wait table (R109). -/
structure WaitEntry where
  /-- In use (R109). false. -/
  used : Bool
  /-- 1 bit: generation bit of the token (R109). 0, toggling at each reuse. -/
  gen : Bool
  /-- ASID, page and level at which NP was found (R109). -/
  asid : Nat
  page : Nat
  level : Nat
  /-- Its page-fault record is held (R389). false. -/
  held : Bool
  /-- Used before, so that the generation toggles at the next use (R109). false. -/
  fresh : Bool
  /-- Its context was killed and its token retired (R391, R428). false. -/
  retired : Bool
  /-- A replay that has freed it while its record is held: RESULT, and whether it named the page. What is parked under it
  stays so until the record is written (R389). none. -/
  answer : Option (Nat × Bool)
  deriving DecidableEq, Repr, Inhabited

/-- What an engine command asks for (R237, R317, R325). -/
inductive Job where
  | cpy (dir scope : Nat) (release : Option Nat) (layout : Nat) (crd : List Word) (dst : Nat)
  | coll (kind op type scope record : Nat) (handle : Word)
  | shdw (base count : Nat)
  | publish (scope : Nat) (handle : Word)
  | splat (bwd : Bool) (scope record : Nat)
  | host (q scope layout dst : Nat) (crd : List Word)
  deriving DecidableEq, Repr, Inhabited

/-- A command in the queue of a copy or splat engine (R237, R319). -/
structure Cmd where
  /-- Its number in the module. -/
  id : Nat
  job : Job
  /-- Issuing wave, workgroup, operation, and the quad and k register of its status (R238). -/
  wave : Nat
  wg : Nat
  op : Nat
  quad : Nat
  reg : Nat
  ctx : Nat
  grid : Nat
  core : Nat
  /-- Commands that must complete before its first access (R127). -/
  after : List Nat
  /-- The engine has taken it and read its record (R239, R310). false. -/
  taken : Bool
  /-- The record as read (R239, R310). Empty. -/
  record : List Byte
  /-- An error found when it was taken (R436). 0. -/
  err : Nat
  /-- Elements or tiles done (R109, R321). 0. -/
  progress : Nat
  /-- Half bytes written, and methods met, so far (Table 11.4). 0. -/
  nibbles : Nat
  methods : Nat
  /-- A collective's shares of the other participants once all have arrived, the bytes of its source read so far, and the
  result that it writes (R109, R249). Empty. -/
  shares : List CollShare
  data : List Byte
  out : List Byte
  /-- A splat command: contributions of the tile it replays, addresses and words, not yet added; the Gaussians that received
  one; whether a tile list is truncated (R315, R316, R318). Empty, false. -/
  adds : List (Nat × Word)
  seen : List Nat
  trunc : Bool
  /-- Token it is parked under (R109). none. -/
  parked : Option Nat
  /-- Paused by a save (R349). false. -/
  paused : Bool
  /-- The slot its release takes, once checked (R242). none. -/
  slot : Option Nat
  /-- Pages it pins: ASID and leaf address (R105). Empty. -/
  pins : List Nat
  deriving DecidableEq, Repr, Inhabited

/-- A section (R9). -/
structure Sect where
  /-- Section TLB, at most 16,384 entries (R107). Empty. -/
  tlb : List TlbEntry
  /-- Fault wait table, entries 0 to 255 (R109). Free. -/
  waits : Cells WaitEntry
  /-- Commands of the copy engine, at most 256 waiting (R237). Empty. -/
  copyQ : List Cmd
  /-- Commands of the splat engine, at most 16 waiting (R317). Empty. -/
  splatQ : List Cmd
  /-- The origin at which its controller lost a core to a lower section in the last cycle (R331). none. -/
  lost : Option Nat
  deriving DecidableEq, Repr, Inhabited

/-- What an entry of a pending-launch store starts (R337). -/
inductive Pending where
  | cont (record : List Byte)
  | batch (node : Nat) (records : List (List Word))
  deriving DecidableEq, Repr, Inhabited

/-- An entry of a pending-launch store (R337). -/
structure Entry where
  ctx : Nat
  grid : Nat
  prio : Nat
  what : Pending
  deriving DecidableEq, Repr, Inhabited

/-- An open gather batch (R304). -/
structure Batch where
  ctx : Nat
  grid : Nat
  node : Nat
  /-- Records in joining order (R304). -/
  records : List (List Word)
  /-- Batch clock (R304). 0 when opened. -/
  clock : Nat
  /-- Order in which its first record arrived (R305). -/
  first : Nat
  deriving DecidableEq, Repr, Inhabited

/-- A parent record still to be read and pushed (R197). -/
structure ParentRead where
  ctx : Nat
  grid : Nat
  addr : Nat
  core : Nat
  parked : Option Nat
  deriving DecidableEq, Repr, Inhabited

/-- A compute die (R8, R304, R337). -/
structure Die where
  /-- Pending-launch store, at most 4,096 entries, oldest first (R337). Empty. -/
  store : List Entry
  /-- Overflow ring, at most 65,536 entries (R337). Empty. -/
  ring : List Entry
  /-- Parent records held at join blocks (R448). Empty. -/
  heldJoins : List Entry
  /-- Parent records being read (R197). Empty. -/
  parents : List ParentRead
  /-- Open batches, at most 256 a context (R304). Empty. -/
  batches : List Batch
  deriving DecidableEq, Repr, Inhabited

/-- An open shadow region (R245, R246). -/
structure Region where
  /-- Region index, 0 to 15 (R245). -/
  index : Nat
  /-- 24 bits: SERIAL (R245). -/
  serial : Nat
  base : Nat
  pages : Nat
  /-- Page number and frame of each page an engine has written (R246). Empty. -/
  frames : List (Nat × Nat)
  deriving DecidableEq, Repr, Inhabited

/-- A record that waits for room in a fault queue, with what waits for it (R389). -/
structure HeldRec where
  /-- Bytes 0 to 59, DEV and RTYPE of the record. -/
  body : List Byte
  dev : Nat
  rtype : Nat
  /-- The stopped wave whose record it is, none: 0. -/
  wave : Nat
  /-- The wait-table entry whose record it is: section and entry; none. -/
  entry : Option (Nat × Nat)
  /-- The grid that the trap's course cancels once the record is written (R390); none. -/
  course : Option Nat
  /-- The completion word that follows the record: address and value (R395); none. -/
  word : Option (Nat × Nat)
  deriving DecidableEq, Repr, Inhabited

/-- A context of the module (R322, R324). -/
structure Ctx where
  /-- 16 bits: CTXID (R322). -/
  id : Nat
  /-- It exists: a queue of it is installed (R324). false. -/
  installed : Bool
  /-- Context state fixed by the first INSTALL (R324); POOLSIZE and HEAPSIZE in units of 16 KiB (Table 18.3). -/
  ptroot : Nat
  asid : Nat
  faultq : Nat
  faultLog : Nat
  codebase : Nat
  shpool : Nat
  shpooln : Nat
  msix : Nat
  pool : Nat
  poolSize : Nat
  heapSize : Nat
  debug : Bool
  capbase : Word
  /-- Frames of the shadow pool that are free (R246). The array's frames at INSTALL. -/
  frames : List Nat
  /-- Open shadow regions, at most 16 (R245). Empty. -/
  regions : List Region
  /-- Count that gives SERIAL, starting at 1 (R245). 0 regions opened at INSTALL. -/
  serial : Nat
  /-- Index of the next packet of the code heap that UMXLOAD places (R365, R456). Line 1. -/
  heapNext : Nat
  /-- SR_YIELDREQ (R341). 0. -/
  yieldReq : Bool
  /-- Records held for room in its fault queue, oldest first (R389). Empty. -/
  held : List HeldRec
  /-- RDIDX has been written since the vector was last raised (R397). true. -/
  armed : Bool
  /-- Units of 256 bytes of the save pool in use: first unit, count, and the owner (0 image, else record index + 1)
  (R352). Empty. -/
  poolUse : List (Nat × Nat × Nat)
  /-- The context was killed (R391). false. -/
  killed : Bool
  /-- Cycles without progress (R453). 0. -/
  quiet : Nat
  deriving DecidableEq, Repr, Inhabited

/-- A host queue (R322, R323). -/
structure Queue where
  /-- A queue number in use (R358). false. -/
  installed : Bool
  ctx : Nat
  /-- Virtual address of the user half, physical address of the shadow half (R358). -/
  user : Nat
  shadow : Nat
  /-- Fields in force since the last load (R323). -/
  loaded : Bool
  prio : Nat
  ringbase : Nat
  ringsize : Nat
  writeidx : Nat
  readidx : Nat
  irqdone : Bool
  deadline : Nat
  maxspan : Nat
  engmask : BitVec 5
  maxprio : Nat
  msix : Nat
  /-- HALTED and its code (R393). 0: not halted. -/
  halt : Nat
  /-- REMOVE drains it: function and TAG of the message (R358). none. -/
  draining : Option (Nat × Nat)
  /-- Grids and engine commands taken and not complete (R326): true for a grid. Empty. -/
  taken : List (Bool × Nat)
  /-- A UMXLOAD in progress: container, result, stubs placed (R365). none. -/
  umx : Option (Nat × Nat × List Nat)
  /-- Token under which a memory access of its own is parked (R326). none. -/
  parked : Option Nat
  deriving DecidableEq, Repr, Inhabited

/-- A range of dispatch units (R329). -/
structure URange where
  lo : Nat
  hi : Nat
  grant : Nat
  deriving DecidableEq, Repr, Inhabited

/-- A count report of another place of the span: its subtree's counts, its counts per class and its first records (R334,
R395). -/
structure CountRep where
  place : Nat
  completed : Nat
  cancelled : Nat
  final : Bool
  err : Nat
  lost : Nat
  counts : List Nat
  recs : List (Nat × List Byte)
  deriving DecidableEq, Repr, Inhabited

/-- What the module holds of a grid (R326 to R336). -/
structure Grid where
  /-- The module's own name of the grid. -/
  id : Nat
  ctx : Nat
  queue : Nat
  launch : LaunchRec
  /-- Address of its launch record (R350). -/
  addr : Nat
  /-- TAG of a GRID v2 (R325). 0. -/
  tag : Nat
  /-- Generation G; 0 for a grid that is not pod-wide (R199). -/
  gen : Nat
  /-- Pod module number of the root, and of each place of the span (R332). -/
  root : Nat
  span : List Nat
  /-- SR_DEV (R332). -/
  place : Nat
  nodes : List Node
  /-- It deals units (R333, R336). -/
  dealing : Bool
  /-- Units not yet dealt by the device grid dispatcher (R329). -/
  undealt : List URange
  /-- Undealt pool units at the root (R334). -/
  pool : Nat
  poolEnd : Nat
  /-- Ranges of each die dispatcher and each section controller (R329). Empty. -/
  dieRanges : Cells (List URange)
  sectRanges : Cells (List URange)
  /-- Die dispatchers and section controllers whose request for a range is unanswered (R329). Empty. -/
  dieAsks : List Nat
  sectAsks : List Nat
  /-- Workgroups completed and cancelled on this module (R334, R336). 0. -/
  completed : Nat
  cancelled : Nat
  /-- The latest report of each child (R334). Empty. -/
  reports : List CountRep
  /-- Children that acknowledged (R333). Empty. -/
  acks : List Nat
  /-- Its own acknowledgement has been sent (R333). false. -/
  acked : Bool
  /-- START has arrived (R333); the cycle in which the root sent LAUNCH (R333). false, 0. -/
  started : Bool
  sent : Nat
  /-- It has begun dealing or been aborted (R335, R450). false. -/
  begun : Bool
  /-- MODE of the completion word: 0, 1 drain, 2 kill (R327). 0. -/
  mode : Nat
  /-- Lowest non-zero ERR so far (R392). 0. -/
  err : Nat
  /-- Its first trap or machine-check record and counts per class (R395). None. -/
  first : Option (List Byte)
  counts : List Nat
  /-- Modules lost (R395, R451). 0. -/
  lost : Nat
  /-- Its completion word has been written, or waits for the records before it (R327, R395). false. -/
  done : Bool
  /-- A trap's course has begun: the grid is cancelled in KILL mode at the end of the cycle (R390). false. -/
  killing : Bool
  /-- Messages of section controllers to the root or the module's dispatcher that wait for a send permit: link,
  workgroups completed, workgroups cancelled (R330). Empty. -/
  messages : List (Nat × Nat × Nat)
  /-- The pool has answered with no unit; a request of this module for pool units has no answer yet (R334). false. -/
  poolDone : Bool
  poolAsked : Bool
  /-- When the module last reported its counts to its parent, from START on, and when it last heard those of each child, by
  place, in fifteenths of a nanosecond (R334, R451). 0. -/
  reported : Nat
  heard : Cells Nat
  deriving DecidableEq, Repr, Inhabited

/-- A workgroup saved in an image (R350). -/
structure SavedWg where
  wg : WG
  waves : List Wave
  /-- Regions of the accumulator store named by LIVEMASK, and the slot headers and storage (R350). -/
  live : Word
  acc : Cells Word
  slots : Cells Slot
  /-- Paused engine commands: true for a splat command (R349). -/
  cmds : List (Bool × Cmd)
  /-- CLDB fills abandoned: slot operation to be made again (R347). -/
  fills : List CubeOp
  /-- Address and size of the image in the save pool (R350). -/
  image : Nat
  size : Nat
  forced : Bool
  deriving DecidableEq, Repr, Inhabited

/-- A saved cluster: its members in rank order (R350). -/
structure Saved where
  cluster : Nat
  ctx : Nat
  members : List SavedWg
  deriving DecidableEq, Repr, Inhabited

/-- A cluster whose save has begun or is forced (R344, R346, R454). -/
structure Saving where
  cluster : Nat
  /-- Forced by its deadline (R346). -/
  forced : Bool
  /-- Cycles of settling that count toward 50 µs (R454). 0. -/
  clock : Nat
  deriving DecidableEq, Repr, Inhabited

/-- A function's mailbox (R357, Table 18.1) and share of the module (R360). -/
structure Mailbox where
  /-- SQBASE, 64 bits (Table 18.1). 0. -/
  sqbase : Nat
  /-- SQSIZE, 32 bits (Table 18.1). 0. -/
  sqsize : Nat
  /-- SQTAIL, 32 bits (Table 18.1). 0. -/
  sqtail : Nat
  /-- SQHEAD, 32 bits (Table 18.1). 0. -/
  sqhead : Nat
  /-- CQBASE, 64 bits (Table 18.1). 0. -/
  cqbase : Nat
  /-- CQSIZE, 32 bits (Table 18.1). 0. -/
  cqsize : Nat
  /-- CQHEAD, 32 bits (Table 18.1). 0. -/
  cqhead : Nat
  /-- CQTAIL, 32 bits (Table 18.1). 0. -/
  cqtail : Nat
  /-- MBCTL, 32 bits (Table 18.1). 0. -/
  mbctl : Nat
  /-- CQHEAD has been written since the vector was last raised (R357). Armed by the model's choice (DESIGN CHOICE,
  unsafe; log entry 6). -/
  unarmed : Bool
  /-- Messages fetched and not yet applied, oldest first, 64 bytes each (R357). Empty. -/
  pending : List (List Byte)
  /-- Completion entries to be written, in order, with the queue number plus 1 whose REMOVE an entry waits for, or 0
  (R358, R359). Empty. -/
  owed : List (Nat × List Byte)
  /-- ASIDs the function may name: base and count (R360). Count 0. -/
  asidBase : Nat
  asidCount : Nat
  /-- Its block of MSI-X vectors: first and count (R360). All 2,048 for function 0, none for the others. -/
  vecFirst : Nat
  vecCount : Nat
  deriving DecidableEq, Repr, Inhabited

/-- A boot-step record (R368). -/
structure BootRecord where
  status : Nat
  attempts : Nat
  micros : Nat
  detail : Nat
  deriving DecidableEq, Repr, Inhabited

/-- The I/O dies' firmware state: boot, identity, links and power (R361 to R373, R457, R458). -/
structure Firmware where
  /-- Boot-step records 1 to 10 (R368). Not run at a cold reset. -/
  boot : Cells BootRecord
  /-- Next boot step, 1 to 10; 11 once booted (R368). 1. -/
  step : Nat
  /-- Attempts of that step that have failed in this boot (R457). 0. -/
  tries : Nat
  /-- Boot stopped at a required step that failed twice (R457). false. -/
  stuck : Bool
  /-- Measurements M0 to M7, 64 bytes each (R369). Zero. -/
  measures : Cells (List Byte)
  /-- Staged firmware image (R371). none. -/
  staged : Option (List Byte)
  /-- COMMIT in progress: function, TAG, version, and when state passed, in fifteenths of a nanosecond (R371, R455). none. -/
  committing : Option (Nat × Nat × Nat × Nat)
  /-- Pod number and size (R362). 0 and 1. -/
  podNumber : Nat
  podSize : Nat
  /-- Rilrak ports in use, 32 bits, those at two lanes, and retransmissions (R457, R458). 0. -/
  ports : BitVec 32
  narrow : BitVec 32
  retrans : Nat
  /-- GDDR7 channels mapped out, and those at 40 Gb/s (R457). None. -/
  badChannels : List Nat
  slowChannels : List Nat
  /-- PCI Express: link up, speed, width, correctable errors, held host writes, writes discarded (R356, R458). -/
  linkUp : Bool
  linkSpeed : Nat
  linkWidth : Nat
  linkErrors : Nat
  heldHost : List (Nat × List Byte)
  lostHost : Nat
  /-- When the link went down, in fifteenths of a nanosecond, and whether 1 s has passed since without
  training (R458). 0, false. -/
  downSince : Nat
  downLong : Bool
  /-- DVFS point, throttle counts per cause, package limit in W (R372). P0, 0, 10,000. -/
  dvfs : BitVec 2
  throttles : Cells Nat
  limit : Nat
  /-- When a cause last moved the module to a lower point, in fifteenths of a nanosecond (R372). 0. -/
  throttledAt : Nat
  /-- Active scheduler core: true once IO1 has taken over (R7, R452). false. -/
  takenOver : Bool
  /-- Messages that named a killed context (R428). 0. -/
  stalecnt : Nat
  /-- ASIDs killed since they were last installed (R428). None. -/
  killedAsids : List Nat
  /-- Next function served by the mailbox engine (R359). 0. -/
  turn : Nat
  /-- The queue the scheduler core serves, and whether it has taken a command since it loaded it (R323). none. -/
  serving : Option (Nat × Bool)
  deriving DecidableEq, Repr, Inhabited

/-- The machine-check log (R394). -/
structure McLog where
  /-- Control block: WRIDX, RDIDX, MCVEC, HELD (R394, Table 24.2). 0. -/
  wridx : Nat
  rdidx : Nat
  mcvec : Nat
  held : Nat
  /-- Entries 0 to 254, 64 bytes each (R394). Empty. -/
  entries : Cells (List Byte)
  /-- Records held for room, each with its DEV (R394, Table 24.3). Empty. -/
  waiting : List (Nat × List Byte)
  /-- Unit, location, time and write index of the latest record of a corrected error of each (R394). Empty. -/
  recent : List (Nat × Nat × Nat × Nat)
  deriving DecidableEq, Repr, Inhabited

/-- A lane that met a page that is not present (R57). -/
structure Absent where
  lane : Nat
  va : Nat
  level : Nat
  pte : DWord
  deriving DecidableEq, Repr, Inhabited

/-- Lanes of an instruction of a chain of several that leave as parked parts once the instructions that complete have issued:
its index, the lanes and their pages, the KIND of access, and the lanes active for it (R57, R142). -/
structure Parking where
  pc : Word
  absents : List Absent
  kind : Nat
  act : BitVec 64
  deriving DecidableEq, Repr, Inhabited

/-- What the chain in issue captured (R140, R143): the part, the instruction, the lanes. -/
structure Issue where
  /-- Entry of the issuing part (R143). -/
  entry : Nat
  /-- First index of the chain (R401, R412). -/
  first : Word
  /-- Index of the instruction in issue (R142). -/
  pc : Word
  /-- Index after the chain (R138, R141). -/
  next : Word
  /-- Member quads and active lanes as the chain issued (R140). -/
  members : BitVec 16
  lanes : BitVec 64
  /-- The instruction's words (R390, WORD0 and WORD1). -/
  word0 : Word
  word1 : Word
  /-- `SR_ROUND` and `SR_CUBEMODE` of the wave as the chain issued (R73, R203). 0. -/
  round : BitVec 2
  assist : Bool
  /-- An instruction of the chain has trapped (R401), and how many have met a trap. false, 0. -/
  trapped : Bool
  traps : Nat
  /-- Lanes of a chain of several that are to park (R142). Empty. -/
  parks : List Parking
  /-- Page faults that the chain has met (R398). Empty. -/
  faults : List Parking
  /-- An instruction of the chain acts once the other chains of the cycle have issued (R33, R38). false. -/
  later : Bool
  /-- An instruction of the chain has parked quads of the part (R57). false. -/
  parked : Bool
  /-- An instruction of the chain has redirected the part (R141). false. -/
  moved : Bool
  /-- The waits of the chain are over, so that none of its instructions waits again (R139, R143). false. -/
  waited : Bool
  /-- The chain still waits, and has not issued (R58, R139, R143). false. -/
  held : Bool
  /-- The part's Pennant copy as the chain issued, and the flags the chain has set (R140, R416). 0. -/
  pennant : BitVec 10
  flags : BitVec 10
  /-- The reissue in progress (R57, R414). none. -/
  redo : Option Redo
  deriving DecidableEq, Repr, Inhabited

/-- A message to another module of the pod (R333 to R336, R395). -/
inductive PodMsg where
  | launch (dest root gen : Nat) (ctxid : Nat) (record : List Byte) (span : List Nat)
  | ack (dest root gen : Nat)
  | start (dest root gen : Nat)
  | abort (dest root gen : Nat)
  | cancel (dest root gen : Nat) (kill : Bool)
  | poolRequest (dest root gen : Nat)
  | poolGrant (dest root gen lo hi : Nat)
  | count (dest root gen : Nat) (rep : CountRep)
  | lost (dest root gen place : Nat)
  deriving DecidableEq, Repr, Inhabited

/-- The architectural state of one module, with the latch of the instruction in issue. -/
structure State where
  /-- The model's clock: one step is one cycle (DESIGN CHOICE, unsafe; log entry 2). 0. -/
  cycle : Nat
  /-- Time passed, in fifteenths of a nanosecond: a cycle of P0 to P3 takes 12, 15, 20 or 30 (R372, Table 18.9; the unit is
  the model's own, DESIGN CHOICE, safe; log entry 2). 0. -/
  time : Nat
  /-- Cycle at which boot step 10 completed, from which the cycle count of R71 counts. none: boot has not ended. -/
  clock0 : Option Nat
  /-- Counter of free values, the model's own (DESIGN CHOICE, safe; log entry 1). 0. -/
  fresh : Nat
  /-- Events and messages that reach the machine next, in order, the model's own (DESIGN CHOICE, unsafe; log entry 3).
  Empty. -/
  agenda : List Instr
  /-- Memory of the module and of the pod by physical address (R90), in canonical form; what an unlisted byte reads as
  is DESIGN CHOICE, unsafe; log entry 4. Empty. -/
  mem : List Host.Cell
  /-- The wave in focus: the one whose instruction issues. -/
  wave : Wave
  /-- Every other resident wave (R23). Empty. -/
  waves : List Wave
  /-- The workgroup of the wave in focus. -/
  wg : WG
  /-- Every other resident workgroup (R22). Empty. -/
  wgs : List WG
  /-- The latch of the chain in issue (R143). -/
  iss : Issue
  /-- The captured sources of the chain in issue (R140). -/
  src : RegFile
  /-- Cores 0 to 2047, at die * 256 + y * 16 + x (R8, R12). -/
  cores : Cells Core
  /-- Sections 0 to 127, at die * 16 + s (R8, R9). -/
  sects : Cells Sect
  /-- Dies 0 to 7 (R8). -/
  dies : Cells Die
  /-- Lines of the L2 with their marks, by home slice, least recently used first: line, evict-last, evict-first (R98 to
  R100). Empty. -/
  l2 : Cells (List (Nat × Bool × Bool))
  /-- Poisoned 32-byte sectors, by physical address (R423). Empty. -/
  poison : List Nat
  /-- Contexts by CTXID (R322). None. -/
  ctxs : Cells Ctx
  /-- Host queues 0 to 1,023 (R322). None. -/
  queues : Cells Queue
  /-- Grids the module holds (R326). None. -/
  grids : List Grid
  /-- Next generation the root assigns (R199). 1 (held as generations assigned: 0). -/
  gens : Nat
  /-- Send permits spent on each command link, of 8 (R330). 0. -/
  permits : Cells Nat
  /-- Pod-wide grids whose LAUNCH the module has passed on without holding them: root, generation, and the modules it passed
  it to (R333, R450). None. -/
  relayed : List (Nat × Nat × List Nat)
  /-- Saved clusters and clusters being saved (R350, R347). None. -/
  saved : List Saved
  saving : List Saving
  /-- Mailboxes of functions 0 to 32 (R356, R357). -/
  mailbox : Cells Mailbox
  /-- Firmware, identity, links and power (R361 to R373). -/
  fw : Firmware
  /-- Machine-check log (R394). Empty. -/
  mclog : McLog
  /-- Debug command block, 64 bytes, STATUS among them (R413, Table 25.4). 0. -/
  debugBlk : Cells Byte
  /-- Host memory as the device has written it by DMA, by bus address (R357, R370). Empty. -/
  host : Cells Byte
  /-- MSI-X vectors raised, the latest first (R356, R397). None. -/
  msix : List Nat
  /-- Messages sent to other modules, the latest first (R333). None. -/
  pod : List PodMsg
  /-- The number the next wave, workgroup, grid or command takes, the model's own (DESIGN CHOICE, safe; log entry 5).
  1 (held as names given: 0). -/
  names : Nat
  deriving DecidableEq, Repr, Inhabited

/-- How a step may stop at a fault: never. A trap of the manual is a next state, in which the wave has stopped and the
record is written (R62, R390), so the type is empty. (DEDUCED, safe; log entry 29.) -/
inductive Fault where
  deriving DecidableEq, Repr

/-- Why the model gives an instruction no meaning. (DEDUCED, safe; log entry 29.) -/
inductive Refusal where
  /-- The instruction named has no meaning in the model yet. Raised by its arm alone. Safe. -/
  | notModelled (mnemonic : String)
  deriving DecidableEq, Repr

/-- The machine right after reset: no wave, no workgroup, no context, nothing in memory, boot step 1 next (R71, R357,
R360, R368). -/
def State.reset : State :=
  { (default : State) with
    mailbox := [(0, { (default : Mailbox) with vecCount := 2048 })]
    fw := { (default : Firmware) with step := 1, podSize := 1, limit := 10000 } }

end Sys2Proof.Machine
end

