-- ==== Sys2Proof/Machine/Cells.lean ====
section
/-!
DEFINITION. Machine/Cells.lean: the named operations over a table in canonical form. Registers, unit tables and memory
are all read and written here.
-/

namespace Sys2Proof.Machine

/-- What a table holds at a key: the default where it lists nothing. -/
def Cells.get {α : Type} [Inhabited α] : Cells α → Nat → α
  | [], _ => default
  | (k, v) :: t, i => if k = i then v else Cells.get t i

/-- Insert an entry in its place, or replace the one there. -/
def Cells.put {α : Type} : Cells α → Nat → α → Cells α
  | [], i, x => [(i, x)]
  | (k, v) :: t, i, x =>
    if i < k then (i, x) :: (k, v) :: t else if i = k then (i, x) :: t else (k, v) :: Cells.put t i x

/-- Remove every entry of a key. -/
def Cells.del {α : Type} : Cells α → Nat → Cells α
  | [], _ => []
  | (k, v) :: t, i => if k = i then Cells.del t i else (k, v) :: Cells.del t i

/-- Write a table at a key; writing the default removes the entry, so the form stays canonical. -/
def Cells.set {α : Type} [Inhabited α] [DecidableEq α] (t : Cells α) (i : Nat) (x : α) : Cells α :=
  if x = default then Cells.del t i else Cells.put t i x

/-- Change what a table holds at a key. -/
def Cells.upd {α : Type} [Inhabited α] [DecidableEq α] (t : Cells α) (i : Nat) (f : α → α) : Cells α :=
  t.set i (f (t.get i))

/-- Change everything a table lists; an entry that becomes the default goes. -/
def Cells.mapV {α : Type} [Inhabited α] [DecidableEq α] (t : Cells α) (f : α → α) : Cells α :=
  (t.map fun e => (e.1, f e.2)).filter fun e => e.2 != default

/-- The canonical form: keys strictly rising, no entry equal to the default. -/
def Cells.wf {α : Type} [Inhabited α] [DecidableEq α] : Cells α → Bool
  | [] => true
  | [(_, v)] => v != default
  | (k, v) :: (k', v') :: t => v != default && k < k' && Cells.wf ((k', v') :: t)

/-- The keys a table lists. -/
def Cells.keys {α : Type} (t : Cells α) : List Nat := t.map Prod.fst

/-- The `n` values from a key upward. -/
def Cells.read {α : Type} [Inhabited α] (t : Cells α) (i : Nat) : Nat → List α
  | 0 => []
  | n + 1 => t.get i :: Cells.read t (i + 1) n

/-- Write values from a key upward. -/
def Cells.write {α : Type} [Inhabited α] [DecidableEq α] : Cells α → Nat → List α → Cells α
  | t, _, [] => t
  | t, i, x :: xs => Cells.write (t.set i x) (i + 1) xs

/-- Memory in canonical form (MEMORY of the model: rising addresses, no entry that equals the unlisted byte). -/
abbrev Memory.wf (m : List Host.Cell) : Bool := Cells.wf m

end Sys2Proof.Machine
end

