-- ==== Sys2Proof/Machine/Regs.lean ====
section
/-!
DEFINITION. Machine/Regs.lean: the one place that reads and writes registers and predicates, and the lanes an instruction
acts for (R63 to R67).
-/

namespace Sys2Proof.Machine

/-- The lanes of a mask in ascending order. -/
def lanesOf (m : BitVec 64) : List Nat := (List.range 64).filter fun i => m.getLsbD i

/-- The quads of a mask in ascending order. -/
def quadsOf (m : BitVec 16) : List Nat := (List.range 16).filter fun i => m.getLsbD i

/-- The mask of a list of lanes. -/
def maskOf (ls : List Nat) : BitVec 64 := ls.foldl (fun m i => m ||| BitVec.twoPow 64 i) 0

/-- The mask of a list of quads. -/
def quadMask (qs : List Nat) : BitVec 16 := qs.foldl (fun m i => m ||| BitVec.twoPow 16 i) 0

/-- The 64-bit lane mask of a quad mask. -/
def spread (m : BitVec 16) : BitVec 64 := (quadsOf m).foldl (fun r q => r ||| (0xF#64 <<< (4 * q))) 0

/-- The four lane bits of quad `q`. -/
def nibble (m : BitVec 64) (q : Nat) : BitVec 4 := (m >>> (4 * q)).setWidth 4

/-- A lane mask with the four bits of quad `q` replaced. -/
def setNibble (m : BitVec 64) (q : Nat) (n : BitVec 4) : BitVec 64 :=
  (m &&& ~~~(0xF#64 <<< (4 * q))) ||| (n.setWidth 64 <<< (4 * q))

/-- The quads of a mask of lanes: those with a lane set. -/
def quadsWith (m : BitVec 64) : BitVec 16 := quadMask ((List.range 16).filter fun q => nibble m q != 0)

/-- Register `v n` of a lane (R63). -/
def RegFile.v (rf : RegFile) (lane n : Nat) : Word := (rf.lanes.get lane).v.get n

/-- Register `k n` of a quad (R64). -/
def RegFile.k (rf : RegFile) (quad n : Nat) : Word := (rf.quads.get quad).k.get n

/-- Predicate `p i` of a lane; p7 reads as true (R65). -/
def RegFile.p (rf : RegFile) (lane : Nat) (i : Nat) : Bool := i == 7 || (rf.lanes.get lane).p.getLsbD i

/-- Write `v n` of a lane; the write clears its poison mark (R424). -/
def RegFile.setV (rf : RegFile) (lane n : Nat) (x : Word) : RegFile :=
  { rf with lanes := rf.lanes.upd lane fun l =>
      { l with v := l.v.set n x, bad := l.bad &&& ~~~(BitVec.twoPow 96 n) } }

/-- Write `k n` of a quad; the write clears its poison mark (R424), and it holds a status word no longer (R127). -/
def RegFile.setK (rf : RegFile) (quad n : Nat) (x : Word) : RegFile :=
  { rf with quads := rf.quads.upd quad fun q =>
      { q with k := q.k.set n x, bad := q.bad &&& ~~~(BitVec.twoPow 32 n), status := q.status.set n 0 } }

/-- The register holds the status word of an engine command of a scope (R127, R128). -/
def RegFile.setStatus (rf : RegFile) (quad n scope : Nat) : RegFile :=
  { rf with quads := rf.quads.upd quad fun q => { q with status := q.status.set n (scope + 1) } }

/-- Write `p i` of a lane; a write to p7 is discarded (R65). -/
def RegFile.setP (rf : RegFile) (lane i : Nat) (b : Bool) : RegFile :=
  if 7 ≤ i then rf
  else { rf with lanes := rf.lanes.upd lane fun l =>
      { l with p := if b then l.p ||| BitVec.twoPow 7 i else l.p &&& ~~~(BitVec.twoPow 7 i) } }

/-- Put a poison mark on a register of a lane or quad (R424). -/
def RegFile.mark (rf : RegFile) (isK : Bool) (index n : Nat) : RegFile :=
  if isK then { rf with quads := rf.quads.upd index fun q => { q with bad := q.bad ||| BitVec.twoPow 32 n } }
  else { rf with lanes := rf.lanes.upd index fun l => { l with bad := l.bad ||| BitVec.twoPow 96 n } }

/-- Does a register field's register carry a poison mark in a lane (R424)? -/
def RegFile.marked (rf : RegFile) (lane r : Nat) : Bool :=
  if r < 96 then (rf.lanes.get lane).bad.getLsbD r else (rf.quads.get (lane / 4)).bad.getLsbD (r - 96)

/-- The register a 7-bit field names, read by a lane (Table 4.2, R64). -/
def RegFile.read (rf : RegFile) (lane r : Nat) : Word :=
  if r < 96 then rf.v lane r else rf.k (lane / 4) (r - 96)

/-- The pair a field names, read by a lane (R67). -/
def RegFile.read2 (rf : RegFile) (lane r : Nat) : DWord := rf.read lane (r + 1) ++ rf.read lane r

/-- Write the register a field names, for one lane: its own copy, or its quad's (R63, R64). -/
def RegFile.write (rf : RegFile) (lane r : Nat) (x : Word) : RegFile :=
  if r < 96 then rf.setV lane r x else rf.setK (lane / 4) (r - 96) x

/-- Write a result in every lane of an ascending list: the highest lane first, so that a k register keeps the result of
its quad's lowest active lane (R64). -/
def RegFile.writeLanes (rf : RegFile) (ls : List Nat) (r : Nat) (f : Nat → Word) : RegFile :=
  ls.foldr (fun i acc => acc.write i r (f i)) rf

/-- The same for a pair (R67). -/
def RegFile.writeLanes2 (rf : RegFile) (ls : List Nat) (r : Nat) (f : Nat → DWord) : RegFile :=
  ls.foldr (fun i acc => (acc.write i r ((f i).setWidth 32)).write i (r + 1) ((f i >>> 32).setWidth 32)) rf

/-- Write a predicate in every lane of a list (R65). -/
def RegFile.writePreds (rf : RegFile) (ls : List Nat) (i : Nat) (f : Nat → Bool) : RegFile :=
  ls.foldr (fun l acc => acc.setP l i (f l)) rf

/-- Write one predicate of every lane of a list from the same list of values. -/
def RegFile.writeOne (rf : RegFile) (w : RegWrite) : RegFile :=
  let r' := if w.isK then rf.setK w.index w.reg w.value else rf.setV w.index w.reg w.value
  if w.bad then r'.mark w.isK w.index w.reg else r'

/-- Does the guard hold in a lane (R144, R63)? -/
def guardHolds (g : Guard) (rf : RegFile) (lane : Nat) : Bool := rf.p lane g.g.toNat != g.neg

/-- The lanes active for a short word: those of the part's masks as the chain issued (R140). -/
def State.act (s : State) : List Nat := lanesOf s.iss.lanes

/-- The lanes active for a long instruction: those whose guard holds too (R63). -/
def State.actG (s : State) (g : Guard) : List Nat := s.act.filter fun l => guardHolds g s.src l

/-- Write D in the lanes given, each from the captured sources (R140). -/
def State.writeD (s : State) (ls : List Nat) (d : Reg) (f : Nat → Word) : State :=
  { s with wave := { s.wave with rf := s.wave.rf.writeLanes ls d.toNat f } }

/-- Write the pair D. -/
def State.writeD2 (s : State) (ls : List Nat) (d : Reg) (f : Nat → DWord) : State :=
  { s with wave := { s.wave with rf := s.wave.rf.writeLanes2 ls d.toNat f } }

/-- Write a predicate in the lanes given. -/
def State.writeP (s : State) (ls : List Nat) (p : BitVec 3) (f : Nat → Bool) : State :=
  { s with wave := { s.wave with rf := s.wave.rf.writePreds ls p.toNat f } }

/-- A captured source register (R140). -/
def State.rd (s : State) (r : Reg) (lane : Nat) : Word := s.src.read lane r.toNat

/-- A captured source pair (R67). -/
def State.rd2 (s : State) (r : Reg) (lane : Nat) : DWord := s.src.read2 lane r.toNat

/-- A k register by its number, read from the captured copy of the quad of a lane (R64). -/
def State.kOf (s : State) (n lane : Nat) : Word := if n < 32 then s.src.k (lane / 4) n else 0

end Sys2Proof.Machine
end

