-- ==== Sys2Proof/Machine/Waves.lean ====
section
/-!
DEFINITION. Machine/Waves.lean: the part table: blocks, counters and scoreboard of a part, splitting, merging, the
deferred-path stack, FUSE groups and forced fuses (03_split_and_fuse), barriers and rings (R29 to R38).
-/

namespace Sys2Proof.Machine

/-! ### Quads, parts and blocks -/

/-- Quads of a wave (R20). -/
def Wave.quadCount (w : Wave) : Nat := w.width / 4

/-- The quads of a wave not all of whose lanes have exited (R41). -/
def Wave.live (w : Wave) : BitVec 16 :=
  quadMask ((List.range w.quadCount).filter fun q => nibble w.exited q != 0xF#4)

/-- The lowest quad of a mask. -/
def lowQuad (m : BitVec 16) : Nat := (quadsOf m).headD 0

/-- log2 of the block of a member mask: the smallest aligned power-of-two block that holds every member (R42). -/
def blockLog (m : BitVec 16) : Nat :=
  ((List.range 4).find? fun k => (quadsOf m).all fun q => q / 2 ^ k == lowQuad m / 2 ^ k).getD 4

/-- Base quad of the block of a member mask (R42). -/
def blockBase (m : BitVec 16) : Nat := lowQuad m / 2 ^ blockLog m * 2 ^ blockLog m

/-- Rank among parts: age, then block base, then lowest member (R44). -/
def Part.older (a b : Part) : Bool :=
  a.age < b.age || (a.age == b.age && (blockBase a.members < blockBase b.members ||
    (blockBase a.members == blockBase b.members && lowQuad a.members < lowQuad b.members)))

/-- Insert in rank order. -/
def insertOlder (p : Part) : List Part → List Part
  | [] => [p]
  | q :: qs => if p.older q then p :: q :: qs else q :: insertOlder p qs

/-- Parts from the oldest (R44). -/
def byAge (ps : List Part) : List Part := ps.foldr insertOlder []

/-- Insert in ascending entry order (R61). -/
def insertEntry (p : Part) : List Part → List Part
  | [] => [p]
  | q :: qs => if p.entry < q.entry then p :: q :: qs else q :: insertEntry p qs

/-- The part of an entry. -/
def Wave.part (w : Wave) (e : Nat) : Part := (w.parts.find? fun p => p.entry == e).getD default

/-- Change the part of an entry. -/
def Wave.updPart (w : Wave) (e : Nat) (f : Part → Part) : Wave :=
  { w with parts := w.parts.map fun p => if p.entry = e then f p else p }

/-- Insert a number in ascending order, once. -/
def insertNat (n : Nat) : List Nat → List Nat
  | [] => [n]
  | m :: ms => if n < m then n :: m :: ms else if n = m then m :: ms else m :: insertNat n ms

/-- Distinct numbers in ascending order. -/
def distinct (ns : List Nat) : List Nat := ns.foldl (fun l n => insertNat n l) []

/-- The operations of a class that a part counts: outstanding and serving a member (R43). -/
def Wave.count (w : Wave) (m : BitVec 16) (c : OpClass) : Nat :=
  (distinct ((w.ops.filter fun o => o.cls == c && (o.quads &&& m) != 0).map Op.group)).length

/-- Outstanding operations of a class of the whole wave, at most 63 (R43). -/
def Wave.total (w : Wave) (c : OpClass) : Nat := 
  (distinct ((w.ops.filter fun o => o.cls == c).map Op.group)).length

/-- Is a register on a part's scoreboard (R43)? -/
def Wave.busy (w : Wave) (m : BitVec 16) (r : Nat) : Bool :=
  w.ops.any fun o => !o.done && (o.quads &&& m) != 0 && o.regs.contains r

/-- Operations that have completed leave their counts in issue order (R68): those that stay, and those that leave. An
instruction of several operations, some of whose lanes parked, leaves with the last of them (R236): `isOpen` holds of the
instructions with an operation not yet complete. -/
def retireFrom (isOpen : Nat → Bool) : List Op → List OpClass → List Op × List Op
  | [], _ => ([], [])
  | o :: os, blocked =>
    if o.done && !isOpen o.group && (o.cls == .uncounted || !blocked.contains o.cls) then
      let r := retireFrom isOpen os blocked
      (r.1, o :: r.2)
    else
      let r := retireFrom isOpen os (o.cls :: blocked)
      (o :: r.1, r.2)

/-- The operations of a wave that stay in their counts, and those that leave (R68, R236). -/
def retireOps (ops : List Op) : List Op × List Op :=
  retireFrom (fun g => ops.any fun o => o.group == g && !o.done) ops []

/-! ### The zipper of waves and workgroups -/

/-- Bring a workgroup into focus. -/
def State.focusWg (s : State) (id : Nat) : State :=
  if s.wg.id = id then s
  else match s.wgs.find? fun g => g.id == id with
    | none => s
    | some g => { s with wg := g, wgs := (if s.wg.id = 0 then [] else [s.wg]) ++ s.wgs.filter fun h => h.id != id }

/-- Bring a wave and its workgroup into focus. -/
def State.focus (s : State) (id : Nat) : State :=
  if s.wave.id = id then s
  else match s.waves.find? fun w => w.id == id with
    | none => s
    | some w =>
      State.focusWg { s with
        wave := w
        waves := (if s.wave.id = 0 then [] else [s.wave]) ++ s.waves.filter fun v => v.id != id } w.wg

/-- Every resident wave, the one in focus first. -/
def State.allWaves (s : State) : List Wave := if s.wave.id = 0 then s.waves else s.wave :: s.waves

/-- Every resident workgroup, the one in focus first. -/
def State.allWgs (s : State) : List WG := if s.wg.id = 0 then s.wgs else s.wg :: s.wgs

/-- Is a wave resident? -/
def State.hasWave (s : State) (id : Nat) : Bool := id != 0 && s.allWaves.any fun w => w.id == id

/-- The wave of a name. -/
def State.waveOf (s : State) (id : Nat) : Wave := (s.allWaves.find? fun w => w.id == id).getD default

/-- The workgroup of a name. -/
def State.wgOf (s : State) (id : Nat) : WG := (s.allWgs.find? fun g => g.id == id).getD default

/-- Is a wave's cluster being saved: none of its parts issues, and its clocks stand (R346, R347)? -/
def State.frozen (s : State) (wave : Nat) : Bool :=
  s.saving != [] && s.saving.any fun v => v.cluster == (s.wgOf (s.waveOf wave).wg).cluster

/-- Change every resident wave. -/
def State.mapWaves (s : State) (f : Wave → Wave) : State :=
  { s with wave := if s.wave.id = 0 then s.wave else f s.wave, waves := s.waves.map f }

/-- Change one resident wave. -/
def State.mapWave (s : State) (id : Nat) (f : Wave → Wave) : State :=
  s.mapWaves fun w => if w.id = id then f w else w

/-- Change every resident workgroup. -/
def State.mapWgs (s : State) (f : WG → WG) : State :=
  { s with wg := if s.wg.id = 0 then s.wg else f s.wg, wgs := s.wgs.map f }

/-- Change one resident workgroup. -/
def State.mapWg (s : State) (id : Nat) (f : WG → WG) : State :=
  s.mapWgs fun g => if g.id = id then f g else g

/-- Change the wave in focus. -/
def State.onWave (s : State) (f : Wave → Wave) : State := { s with wave := f s.wave }

/-- The part whose instruction issues. -/
def State.part (s : State) : Part := s.wave.part s.iss.entry

/-- Change the part whose instruction issues. -/
def State.onPart (s : State) (f : Part → Part) : State := s.onWave fun w => w.updPart s.iss.entry f

/-- Does a part hold quads with which the chain in issue issued: is it the issuing part, or a part split from it (R45,
R141, R142)? -/
def State.issued (s : State) (p : Part) : Bool := p.entry == s.iss.entry || (p.members &&& s.iss.members) != 0

/-- Change the issuing part and the parts that the chain in issue has split from it. -/
def State.onIssued (s : State) (f : Part → Part) : State :=
  s.onWave fun w => { w with parts := w.parts.map fun p => if s.issued p then f p else p }

/-- The issuing part cannot issue yet: it stays at its instruction (R143, NOT_ISSUED). -/
def State.stall (s : State) : State :=
  { s with iss := { s.iss with held := true } }.onPart fun p => { p with pc := s.iss.pc, redo := s.iss.redo }

/-- A fresh name. -/
def State.name (s : State) : Nat × State := (s.names + 1, { s with names := s.names + 1 })

/-! ### Splitting and merging -/

/-- Part-table entries in use in a wave's partition (R41). -/
def State.usedEntries (s : State) (w : Wave) : List Nat :=
  let core := (s.wgOf w.wg).core
  (s.allWaves.filter fun v => v.partition == w.partition && (s.wgOf v.wg).core == core).flatMap fun v =>
    v.parts.map Part.entry

/-- The lowest `n` entries not in a list (R46). -/
def freeEntries (used : List Nat) (n : Nat) : List Nat := ((List.range 64).filter fun e => !used.contains e).take n

/-- Replace the part of an entry of the wave in focus by new parts: the first keeps the entry, the others take the
lowest free entries in their order (R46). A part with no member is freed (R41). Where quads leave a part that stays,
R46 names MISS-ready and DEFER alone: the ready part comes first at a miss split, the staying part at a FUSE, an exit or
a park (DESIGN CHOICE, unsafe; log entry 73). -/
def State.splitPart (s : State) (e : Nat) (new : List Part) : State :=
  match new.filter fun p => p.members != 0 with
  | [] => s.onWave fun w => { w with parts := w.parts.filter fun p => p.entry != e }
  | p :: ps =>
    let free := freeEntries (s.usedEntries s.wave) ps.length
    let named := { p with entry := e } :: List.zipWith (fun (q : Part) n => { q with entry := n }) ps free
    s.onWave fun w => { w with parts := named.foldr insertEntry (w.parts.filter fun p => p.entry != e) }

/-- WHOLE when the members cover the wave's quads that have not exited, else another reason (R53, R58). -/
def Wave.reasonFor (w : Wave) (m : BitVec 16) (r : Reason) : Reason :=
  if (w.live &&& ~~~m) = 0 then .whole else r

/-- Parts merged into one (R44 to R46, R55, R58, R192). -/
def mergeTwo (a b : Part) : Part :=
  { a with
    entry := min a.entry b.entry
    members := a.members ||| b.members
    masks := a.masks ||| b.masks
    age := min a.age b.age
    pennant := a.pennant ||| b.pennant
    prio := if a.prio.toNat < b.prio.toNat then b.prio else a.prio
    clock := max a.clock b.clock
    delay := max a.delay b.delay
    fenced := a.fenced ++ b.fenced
    serial := match a.serial, b.serial with
      | some (e, m), some (_, n) => some (e, m ||| n)
      | x, _ => x }

/-- Merge the parts of the wave in focus that a test picks into one with a new program counter and state RUN, ready in
the second cycle after (R46), which goes on with a chain that they issue serially (R407); `fuseto` sets FUSETO and reason MERGED short of the wave (R54). -/
def State.mergeWhere (s : State) (pick : Part → Bool) (pc : Word) (fuseto : Bool) : State :=
  match s.wave.parts.filter pick with
  | [] => s
  | p :: ps =>
    let m := ps.foldl mergeTwo p
    let m := { m with
      pc := pc, fws := .run, waitId := 0, clock := 0, cls := 0, hold := .none, delay := max 2 m.delay, redo := none
      after := none
      reason := s.wave.reasonFor m.members .merged
      pennant := if fuseto && (s.wave.live &&& ~~~m.members) != 0 then m.pennant ||| 8#10 else m.pennant }
    s.onWave fun w => { w with parts := insertEntry m (w.parts.filter fun q => !pick q) }

/-! ### The deferred-path stack -/

/-- Byte offset of a quad's spill area in the window (R50). -/
def spillBase (l : LaunchRec) (w : Wave) (q : Nat) : Nat := l.divOffset + (w.num * w.quadCount + q) * l.divN * 8

/-- The eight bytes of a deferred-path entry (Table 3.3). -/
def DefEntry.toNat (d : DefEntry) : Nat :=
  2 ^ 63 + (if d.running then 2 ^ 62 else 0) + d.defMask.toNat * 2 ^ 52 + d.restMask.toNat * 2 ^ 48
    + d.fuseId.toNat * 2 ^ 40 + d.resume.toNat

/-- A deferred-path entry from its eight bytes (Table 3.3). -/
def DefEntry.ofNat (x : Nat) : DefEntry :=
  ⟨x.testBit 62, BitVec.ofNat 4 (x / 2 ^ 52), BitVec.ofNat 4 (x / 2 ^ 48), BitVec.ofNat 8 (x / 2 ^ 40),
    BitVec.ofNat 32 x⟩

/-- The entries of a quad from the top: those on chip, then those spilled, the most recently spilled first (R50). -/
def fullStack (g : WG) (w : Wave) (q : Nat) : List DefEntry :=
  let d := w.quads.get q
  d.stack ++ ((List.range d.spilled).map fun i =>
    DefEntry.ofNat (leValue (g.scratch.read (spillBase g.launch w q + 8 * (d.spilled - 1 - i)) 8)))

/-- Put a stack back, keeping in the area as many of its lowest entries as lay there (R50). -/
def Quad.withStack (d : Quad) (l : List DefEntry) : Quad :=
  let sp := min d.spilled l.length
  { d with stack := l.take (l.length - sp), spilled := sp }

/-- Moves a quad still has to make (R50). -/
def Quad.moves (d : Quad) : Nat :=
  if 8 < d.stack.length then d.stack.length - 8 else min d.spilled (8 - d.stack.length)

/-- Room for `n` more entries in a quad (R411). -/
def hasRoom (l : LaunchRec) (d : Quad) (n : Nat) : Bool := d.stack.length + d.spilled + n ≤ 8 + l.divN

/-- Cycles until a part is ready after an event that left its quads moves to make (R46, R50). -/
def delayFor (w : Wave) (m : BitVec 16) (least : Nat) : Nat :=
  (quadsOf m).foldl (fun t q => max t (let n := (w.quads.get q).moves; if n = 0 then 0 else 8 * n + 1)) least

/-- What a quad does at a FUSE (R52). -/
inductive FuseAct where
  | arrive (stack : List DefEntry) (mask : BitVec 4)
  | divert (stack : List DefEntry) (mask : BitVec 4) (pc : Word)
  deriving DecidableEq, Repr, Inhabited

/-- A quad acts on its top entry at the FUSE with an id and index (R52). -/
def fuseQuad (id : BitVec 8) (pc : Word) (exited : BitVec 4) : List DefEntry → BitVec 4 → FuseAct
  | [], mask => .arrive [] mask
  | d :: ds, mask =>
    if d.fuseId = id then
      if d.running then fuseQuad id pc exited ds (d.restMask &&& ~~~exited)
      else .divert ({ d with running := true, resume := pc } :: ds) d.defMask d.resume
    else .arrive (d :: ds) mask

/-- A quad whose active lanes have all exited acts on its top entry (R55): where it goes, or nothing left. An entry that was
itself diverted by an exit and is popped by one while others of the lanes it restores live goes to the RESUME it was
pushed with, since no FUSE replaced it: R55 says that such an entry's RESUME is never used, and gives no other index
(DESIGN CHOICE, unsafe; log entry 70). -/
def exitQuad (exited : BitVec 4) : List DefEntry → Option FuseAct
  | [] => none
  | d :: ds =>
    if d.running then
      let m := d.restMask &&& ~~~exited
      if m = 0 then exitQuad exited ds else some (.divert ds m d.resume)
    else some (.divert ({ d with running := true } :: ds) d.defMask d.resume)

/-- A part goes to an index, or, where an instruction of its chain is still to be issued alone, after that one (R141,
R414). -/
def Part.to (p : Part) (pc : Word) : Part :=
  match p.redo with
  | some r => { p with redo := some { r with next := pc } }
  | none => { p with pc := pc }

/-- Parts for quads that leave a part, one for each distinct index, in ascending order (R52, R55, R182). -/
def partsByIndex (base : Part) (r : Reason) (qs : List (Nat × Word × BitVec 4)) : List Part :=
  (distinct (qs.map fun q => q.2.1.toNat)).map fun i =>
    let mine := qs.filter fun q => q.2.1.toNat == i
    { base.to (BitVec.ofNat 32 i) with
      members := quadMask (mine.map Prod.fst)
      masks := mine.foldl (fun m q => setNibble m q.1 q.2.2) 0
      reason := r, fws := .run, waitId := 0, clock := 0, cls := 0, hold := .none
      after := none, serial := none, delay := 2 }

/-! ### FUSE groups and forced fuses -/

/-- The lanes of a forced fuse or minimum width code: 4 × 2^code (R147). -/
def widthOf (code : Nat) : Nat := 4 * 2 ^ code

/-- The quads of every aligned block of `w` lanes that holds a member (R58). -/
def blockOf (w : Nat) (m : BitVec 16) : BitVec 16 :=
  let n := w / 4
  quadMask ((List.range 16).filter fun q => (quadsOf m).any fun r => r / n == q / n)

/-- The quads a forced fuse of width `w` still lacks (R58). -/
def lacking (wave : Wave) (w : Nat) (m : BitVec 16) : BitVec 16 := blockOf w m &&& wave.live &&& ~~~m

/-- Complete what can complete in the wave in focus after quads have moved or exited: a FUSE group that holds every
quad not exited merges (R53), and a FORCED part that lacks none goes on (R58). -/
def State.settleOne (s : State) (p : Part) : State :=
  match p.fws with
  | .fuse =>
    let group := s.wave.parts.filter fun q => q.fws == .fuse && q.pc == p.pc
    let m := group.foldl (fun m q => m ||| q.members) 0#16
    if m != 0 && (s.wave.live &&& ~~~m) == 0 then
      s.mergeWhere (fun q => q.fws == .fuse && q.pc == p.pc) (p.after.getD (p.pc + 1)) false
    else s
  | .forced =>
    if lacking s.wave (widthOf p.waitId) p.members = 0 then
      s.onWave fun w => w.updPart p.entry fun q =>
        { q with
          pc := q.after.getD q.pc, after := none, fws := .run, waitId := 0, clock := 0, delay := max 2 q.delay }
    else s
  | _ => s

def State.settle (s : State) : State :=
  s.wave.parts.foldl (fun s p => if s.wave.parts.any (fun q => q.entry == p.entry && q.fws == p.fws && q.pc == p.pc)
    then s.settleOne p else s) s

/-- Forced fuse of width code `c` for the issuing part (R58): done at once when the quads with which its chain issued make
its blocks whole, those that another instruction of the chain has parked among them (R139, R142); else it merges with
the parts waiting in FORCED at its index, and waits. The result says whether the instruction may issue now. A part
that waits at a REGANG, whose chain has issued, goes on at `after` (R59, R141). -/
def State.gather (s : State) (c : Nat) (after : Option Word := none) : Bool × State :=
  let p := s.part
  if lacking s.wave (widthOf c) s.iss.members = 0 then (true, s)
  else
    let pick := fun (q : Part) => q.entry == p.entry || (q.fws == .forced && q.pc == s.iss.pc)
    match s.wave.parts.filter pick with
    | [] => (false, s)
    | a :: rest =>
      let m := rest.foldl mergeTwo a
      let m := { m with
        pc := s.iss.pc, fws := .forced, waitId := c, hold := .none, after := after, first := s.iss.first
        redo := if after.isSome then p.redo else s.iss.redo
        reason := if rest = [] then p.reason else s.wave.reasonFor m.members .merged }
      let s1 := { s with iss := { s.iss with held := s.iss.held || after.isNone } }.onWave fun w =>
        { w with parts := insertEntry m (w.parts.filter fun q => !pick q) }
      (false, s1.settle)

/-! ### Barriers (R29 to R33) -/

/-- Target of a barrier's phase (R31). -/
def barrierTarget (g : WG) (b : Barrier) : Nat :=
  match b.expected with
  | some n => if n = 0 then g.live.length else n
  | none => 0

/-- A barrier whose count has reached its target completes its phase (R31). -/
def closePhase (g : WG) (b : Barrier) : Barrier :=
  if b.expected.isSome && b.count != 0 && barrierTarget g b ≤ b.count then ⟨0, none, b.phase + 1⟩ else b

/-- Parts waiting at a barrier whose phase has passed the wave's recorded one resume in the next cycle (R31). -/
def wakeBarrier (g : WG) (w : Wave) : Wave :=
  { w with parts := w.parts.map fun p =>
      match p.hold with
      | .barrier id phase waits =>
        if phase < (g.barriers.get id).phase then
          { p with hold := if waits then .passed else .none, delay := max p.delay 1 }
        else p
      | _ => p }

/-- Wake the waves of a workgroup whose barriers have passed on. -/
def State.wakeBarriers (s : State) (wg : Nat) : State :=
  let g := s.wgOf wg
  s.mapWaves fun w => if w.wg = wg then wakeBarrier g w else w

/-- The wave in focus arrives at a barrier, the instruction that completes the arrival naming `exp` (R30, R31, R186). -/
def State.arrive (s : State) (id exp : Nat) : State :=
  let b := s.wg.barriers.get id
  let b := { b with count := b.count + 1, expected := some (b.expected.getD exp) }
  let phase := b.phase
  let s := { s with wg := { s.wg with barriers := s.wg.barriers.set id (closePhase s.wg b) } }
  let s := s.onWave fun w => { w with arrived := w.arrived.set id 0, phases := w.phases.set id (some phase) }
  s.wakeBarriers s.wg.id

/-- Quads of the wave in focus execute an arrival; the wave arrives once every quad not exited has (R30). -/
def State.barrierQuads (s : State) (id exp : Nat) (m : BitVec 16) : State :=
  let seen := s.wave.arrived.get id ||| m
  let s := s.onWave fun w => { w with expects := w.expects.set id exp }
  if (s.wave.live &&& ~~~seen) = 0 then s.arrive id exp
  else s.onWave fun w => { w with arrived := w.arrived.set id seen }

/-- An earlier arrival of the wave at the id is still pending in its phase, so a new one stalls (R31). -/
def arrivalPending (g : WG) (w : Wave) (id : Nat) : Bool :=
  match w.phases.get id with
  | some ph => ph == (g.barriers.get id).phase && (g.barriers.get id).count != 0
  | none => false

/-- After lanes of the wave in focus have exited: it arrives where its other quads have, also when its last quad has just
exited (R33), and then, with expected count 0, a barrier's target falls when the wave has wholly exited (R31). A wave
that arrives by its own last exit is counted before that exit (DEDUCED, unsafe; log entry 71). -/
def State.barrierExit (s : State) : State :=
  let w := s.wave
  let s :=
    ((List.range 16).filter fun id => w.arrived.get id != 0 && (w.live &&& ~~~(w.arrived.get id)) == 0).foldl
      (fun s id => s.arrive id (s.wave.expects.get id)) s
  let s :=
    if w.live = 0 then
      let g := { s.wg with live := s.wg.live.filter fun n => n != w.num }
      { s with wg := { g with barriers := g.barriers.mapV (closePhase g) } }
    else s
  s.wakeBarriers s.wg.id

/-! ### Rings (R35 to R38) -/

/-- Stage of a wave of a workgroup (R34). -/
def stageOf (g : WG) (w : Wave) : Nat := g.launch.stagemap.getD w.num 0

/-- Stage count: one more than the largest stage (R34). -/
def stageCount (g : WG) : Nat := (g.launch.stagemap.take g.launch.waves).foldl max 0 + 1

/-- A ring of a workgroup (R35). -/
def ringOf (g : WG) (q : Nat) : Ring := g.launch.rings.getD q default

/-- Waiting acquirers take the slots handed to their stage; the STAGE.ACQ may then issue (R36, R38, R139). -/
def State.takeSlot (s : State) (w : Wave) (p : Part) : State :=
  match p.hold with
  | .ring q i =>
    let g := s.wgOf w.wg
    let sl := g.slots.get (16 * q + i)
    if sl.owner = stageOf g w ∧ sl.full = false then
      let s := s.mapWg g.id fun g => { g with slots := g.slots.set (16 * q + i) ⟨true, sl.owner, some w.id, false⟩ }
      s.mapWave w.id fun v => v.updPart p.entry fun p => { p with hold := .got i, delay := max p.delay 1 }
    else s
  | _ => s

/-- Let every waiting acquirer of a workgroup test its slot, in ascending wave number: R38 orders the claims of a cursor, and
says no more of the order in which several waiters of one slot test it (DESIGN CHOICE, unsafe; log entry 72). -/
def State.serveRings (s : State) (wg : Nat) : State :=
  (List.range 32).foldl (fun s n =>
    (s.allWaves.filter fun w => w.wg == wg && w.num == n).foldl (fun s w =>
      w.parts.foldl (fun s p => s.takeSlot w p) s) s) s

/-- The waiting acquirers of every workgroup test their slots, once the releases and the claims of the cycle are made
(R38). -/
def State.serveAll (s : State) : State :=
  (s.allWgs.filter fun g => g.launch.rings != []).foldl (fun s g => s.serveRings g.id) s

/-- A ring slot passes to the stage after `stage` (R36). -/
def WG.passOn (g : WG) (q i stage : Nat) : WG :=
  { g with slots := g.slots.set (16 * q + i) ⟨false, (stage + 1) % stageCount g, none, false⟩ }

/-- STAGE.REL of a ring slot for a stage (R36); an engine's release does the same (R37). -/
def State.releaseSlot (s : State) (wg q i stage : Nat) : State := s.mapWg wg fun g => g.passOn q i stage

/-- Operations of a wave that have completed leave their counts, with the ring releases they name (R37, R68). -/
def State.retire (s : State) (wave : Nat) : State :=
  let w := s.waveOf wave
  let r := retireOps w.ops
  let s := s.mapWave wave fun v => { v with ops := r.1 }
  r.2.foldl (fun s o =>
    match o.release with
    | some (q, i) => s.releaseSlot w.wg q i (stageOf (s.wgOf w.wg) w)
    | none => s) s

/-- An operation of a wave has completed (R68). -/
def State.complete (s : State) (wave op : Nat) : State :=
  (s.mapWave wave fun w => { w with ops := w.ops.map fun o => if o.id = op then { o with done := true } else o }).retire
    wave

/-! ### Exits (R55, R183) -/

/-- Lanes of a part of the wave in focus exit: quads left with no active lane act on their stacks, leave as DEFER
parts or leave for good (R55), and what waited for them settles (R53, R58, R33). -/
def State.exitLanes (s : State) (e : Nat) (ls : BitVec 64) : State :=
  let p := s.wave.part e
  let ex := s.wave.exited ||| ls
  let masks := p.masks &&& ~~~ls
  let gone := (quadsOf p.members).filter fun q => nibble masks q == 0 && nibble (p.masks &&& ls) q != 0
  let acts := gone.map fun q => (q, exitQuad (nibble ex q) (fullStack s.wg s.wave q))
  let moved := acts.filterMap fun a =>
    match a.2 with
    | some (.divert _ m pc) => some (a.1, pc, m)
    | _ => none
  let quads := acts.foldl (fun (t : Cells Quad) a =>
    match a.2 with
    | some (.divert st _ _) => t.upd a.1 fun d => d.withStack st
    | _ => t.upd a.1 fun d => d.withStack []) s.wave.quads
  let s := s.onWave fun w => { w with exited := ex, quads := quads }
  let stay : Part := { p with members := p.members &&& ~~~(quadMask gone), masks := masks }
  let s := s.splitPart e (stay :: partsByIndex p .defer moved)
  let s := s.onWave fun w => { w with parts := w.parts.map fun q => { q with delay := delayFor w q.members q.delay } }
  s.settle.barrierExit

end Sys2Proof.Machine
end

