-- ==== Sys2Proof/Machine/Mem.lean ====
section
/-!
DEFINITION. Machine/Mem.lean: physical memory, home slices, page tables, the section TLB, the L1, and the order in which
stores reach their home (06_memory_and_translation, 07_consistency).
-/

namespace Sys2Proof.Machine

/-! ### Register space (R90, R361, R362) -/

/-- Local base of I/O-die register space (R90, R361). -/
def regBase : Nat := 0x080000000000

/-- Offset of a register from the base of its module's register space (R90). -/
def regOffset (pa : Nat) : Nat := pa % 2 ^ 44 - regBase

/-- Does a physical address name the register space of some module (R90)? -/
def isRegSpace (pa : Nat) : Bool := pa.testBit 43

/-- Does a physical address lie on this module (R362)? -/
def State.local (s : State) (pa : Nat) : Bool := pa / 2 ^ 44 == s.fw.podNumber

/-- Control block of the machine-check log: the form of Table 24.2 with MCVEC, and bytes 16 to 63 reserved (R394). -/
def mclogHeader (l : McLog) : List Byte :=
  leBytes 4 l.wridx ++ leBytes 4 l.rdidx ++ leBytes 2 l.mcvec ++ leBytes 2 0 ++ leBytes 4 l.held ++ leBytes 48 0

/-- Measurement i, 64 bytes (R369). -/
def Firmware.m (f : Firmware) (i : Nat) : List Byte := (f.measures.get i ++ List.replicate 64 0).take 64

/-- The 16-byte boot-step record of a step (R368). -/
def bootRecordBytes (f : Firmware) (step : Nat) : List Byte :=
  let r := f.boot.get step
  leBytes 1 step ++ leBytes 1 r.status ++ leBytes 1 r.attempts ++ leBytes 1 0 ++ leBytes 4 r.micros ++ leBytes 8 r.detail

/-- GDDR7 channels in use, and the rate of each in Gb/s a pin: 48, 40 after a retraining, 0 when mapped out (R15, R457). -/
def Firmware.channelRate (f : Firmware) (c : Nat) : Nat :=
  if f.badChannels.contains c then 0 else if f.slowChannels.contains c then 40 else 48

/-- A bitmap of `n` bits as bytes, bit i of the map first in its byte. -/
def bitmapBytes (n : Nat) (p : Nat → Bool) : List Byte :=
  leBytes (n / 8) ((List.range n).foldl (fun m i => if p i then m + 2 ^ i else m) 0)

/-- The content of each capability of Table 18.4, by its ID: the items in the table's order, each little-endian. The
table gives no widths, so those here are the model's (DESIGN CHOICE, unsafe; log entry 67). A GDDR7 channel gives
1 GB/s for each Gb/s a pin (R15, R457). -/
def Firmware.capability (f : Firmware) (id : Nat) : List Byte :=
  match id with
  | 1 => [0x46, 0x4D, 0x4C, 0x2D, 0x32, 0x30, 0x34, 0x38] ++ leBytes 2 3 ++ leBytes 2 2 ++ leBytes 2 0 ++ leBytes 2 2
      ++ leBytes 4 2048 ++ leBytes 4 128 ++ leBytes 4 8
  | 2 =>
    let k := f.badChannels.length
    leBytes 4 (512 - k) ++ leBytes 4 ((List.range 512).foldl (fun n c => n + f.channelRate c) 0)
      ++ leBytes 8 (2 ^ 39 - k * 2 ^ 30) ++ leBytes 8 (2 ^ 39)
      ++ bitmapBytes 512 (fun c => !f.badChannels.contains c) ++ ((List.range 512).flatMap fun c => leBytes 1 (f.channelRate c))
      ++ leBytes 4 f.stalecnt
  | 3 => leBytes 1 f.linkSpeed ++ leBytes 1 f.linkWidth ++ leBytes 2 f.podNumber ++ leBytes 2 f.podSize ++ leBytes 2 0
      ++ leBytes 4 f.ports.toNat ++ leBytes 4 f.narrow.toNat ++ leBytes 4 f.linkErrors ++ leBytes 4 f.lostHost
  | 4 => (List.range 10).flatMap fun i => bootRecordBytes f (i + 1)
  | 5 => ((List.range 8).flatMap f.m) ++ (List.range 2592).map Config.publicKey
  | 6 => leBytes 4 f.dvfs.toNat ++ ((List.range 3).flatMap fun i => leBytes 4 (f.throttles.get i)) ++ leBytes 4 f.limit
  | _ => [1, 2]

/-- Length of a list of bytes rounded up to whole 8-byte units. -/
def pad8 (l : List Byte) : List Byte := l ++ List.replicate ((8 - l.length % 8) % 8) 0

/-- VERSION of a capability: MEMORY's second version appends STALECNT (R428). -/
def capVersion (id : Nat) : Nat := if id = 2 then 2 else 1

/-- An entry of the capability list at an offset: ID, VERSION, SIZE in 8-byte units with the header, NEXT (R361). SIZE of
an entry of more than 255 units (ATTEST) has no value that its byte can hold, and is free (DESIGN CHOICE, safe; log
entry 67). -/
def Firmware.capEntry (f : Firmware) (id off : Nat) : List Byte :=
  let body := pad8 (f.capability id)
  let units := body.length / 8 + 1
  leBytes 2 id ++ leBytes 1 (capVersion id) ++ [if units < 256 then BitVec.ofNat 8 units else Config.freeByte 0 off]
    ++ leBytes 4 (if id = 7 then 0 else off + 8 * units) ++ body

/-- The capability list, entries 1 to 7 in turn (R361, Table 18.4). -/
def Firmware.capList (f : Firmware) : List Byte :=
  (List.range 7).foldl (fun l i => l ++ f.capEntry (i + 1) l.length) []

/-- Offset of the boot-step records from the base of the list (R361, R368). -/
def Firmware.bootOffset (f : Firmware) : Nat :=
  ((List.range 3).foldl (fun l i => l ++ f.capEntry (i + 1) l.length) []).length + 8

/-- The local register-space address that the DVSEC of the physical function's configuration space gives: the capability
list, or the boot-step records where boot has stopped (R356, R457). -/
def Firmware.dvsec (f : Firmware) : Nat := regBase + (if f.stuck then f.bootOffset else 0)

/-- A byte of this module's register space: the capability list once boot step 10 has published it, and the boot-step
records before (R361, R368), the machine-check log (R394), the debug command block (R413); another register gives a
byte the manual does not state (DESIGN CHOICE, unsafe; log entry 12). -/
def State.regByte (s : State) (off : Nat) : Byte :=
  if off < 0x10000 then
    if s.fw.step = 11 then (s.fw.capList)[off]?.getD (Config.freeByte s.fresh off)
    else if s.fw.bootOffset ≤ off ∧ off < s.fw.bootOffset + 160 then s.fw.capList.getD off 0
    else Config.freeByte s.fresh off
  else if off < 0x10040 then (mclogHeader s.mclog).getD (off - 0x10000) 0
  else if off < 0x10000 + 64 * 256 then ((s.mclog.entries.get ((off - 0x10040) / 64))).getD ((off - 0x10040) % 64) 0
  else if 0x20000 ≤ off ∧ off < 0x20040 then s.debugBlk.get (off - 0x20000)
  else Config.freeByte s.fresh off

/-- Bytes of a block after a write over part of it. -/
def overlay (old : List Byte) (at' off : Nat) (bs : List Byte) : List Byte :=
  (numbered' old).map fun b => if off ≤ at' + b.1 ∧ at' + b.1 < off + bs.length then bs.getD (at' + b.1 - off) 0 else b.2
where
  numbered' (l : List Byte) : List (Nat × Byte) := (List.range l.length).zip l

/-- Write bytes at an offset of register space: the machine-check log's RDIDX and MCVEC and the debug command block
take the bytes, but for STATUS, which the device writes (R394, R413); no other register is described (DESIGN CHOICE,
unsafe; log entry 12). -/
def State.writeReg (s : State) (off : Nat) (bs : List Byte) : State :=
  if off < 0x20040 ∧ 0x20000 < off + bs.length then
    let b := overlay (Cells.read s.debugBlk 0 64) 0x20000 off bs
    { s with debugBlk := (Cells.write [] 0 b).set 1 (s.debugBlk.get 1) }
  else if off < 0x10010 ∧ 0x10000 < off + bs.length then
    let h := overlay (mclogHeader s.mclog) 0x10000 off bs
    { s with mclog := { s.mclog with rdidx := leValue ((h.drop 4).take 4), mcvec := leValue ((h.drop 8).take 2) } }
  else s

/-! ### Home slices and the L2 (R98 to R101) -/

/-- The home slice of a local address (R100). -/
def homeSlice (pa : Nat) : Nat :=
  natBits 7 9 pa ^^^ natBits 16 9 pa ^^^ natBits 25 9 pa ^^^ natBits 34 5 pa

/-- The local address where R100 would place what a usable local address stores: its own, unless its channel is mapped
out; then the i-th line of the mapped-out channels takes the place of the i-th line of the reserved range on a channel
in use (R457). Each 64 KiB has one line of each channel. -/
def State.placed (s : State) (pa : Nat) : Nat :=
  let bad := s.fw.badChannels
  let k := bad.length
  if k = 0 ∨ pa / 2 ^ 44 ≠ s.fw.podNumber ∨ bad.contains (homeSlice pa) = false then pa
  else
    let line := fun (g j : Nat) => g * 2 ^ 16 + j * 2 ^ 7
    let group := pa % 2 ^ 44 / 2 ^ 16
    let before := ((List.range (pa % 2 ^ 16 / 2 ^ 7)).filter fun j => bad.contains (homeSlice (line group j))).length
    let i := group * k + before
    let spare := (2 ^ 39 - k * 2 ^ 30) / 2 ^ 16 + i / (512 - k)
    let good := (List.range 512).filter fun j => !bad.contains (homeSlice (line spare j))
    pa / 2 ^ 44 * 2 ^ 44 + line spare (good.getD (i % (512 - k)) 0) + pa % 128

/-- L2 set of a line: slice and ten bits of its channel line address (R100, R457; DESIGN CHOICE, safe; log entry 13). -/
def State.l2Set (s : State) (pa : Nat) : Nat := homeSlice (s.placed pa) * 1024 + natBits 16 10 (s.placed pa)

/-- Marks, evict-last and evict-first, after an access with a hint: 1 evict-first, 2 evict-last (R98). -/
def hintMarks (hint : Nat) (m : Bool × Bool) : Bool × Bool :=
  if hint = 2 then (true, false) else if hint = 1 then (m.1, m.2 || !m.1) else m

/-- Victim of a full set, by the order of R99: evict-first, unmarked, evict-last, the least recently used first. -/
def victimOf {α : Type} (el ef : α → Bool) (l : List α) : Option α :=
  match l.find? fun x => ef x && !el x with
  | some x => some x
  | none => match l.find? fun x => !el x with
    | some x => some x
    | none => l.head?

/-- Room for a ninth evict-last line in a set: the least recently used of eight loses its mark first (R99). -/
def demoteNinth (l : List (Nat × Bool × Bool)) : List (Nat × Bool × Bool) :=
  if 8 ≤ (l.filter fun x => x.2.1).length then
    match l.find? fun x => x.2.1 with
    | some v => l.map fun x => if x.1 = v.1 then (x.1, false, x.2.2) else x
    | none => l
  else l

/-- Whether the L2 holds the line of an address. -/
def State.inL2 (s : State) (pa : Nat) : Bool := (s.l2.get (s.l2Set pa)).any fun x => x.1 == pa / 128

/-- An access at the home slice of this module: the line becomes the most recently used of its set, with its marks; where
the hint brings a ninth evict-last line, another's mark clears first, and the victim of a full set leaves (R98, R99). An
access with .el to a page with CP = 2, which R99 gives the evict-first mark on every access, leaves the evict-first
mark and drops the hint (DEDUCED, unsafe; log entry 68). -/
def State.l2Touch (s : State) (pa hint cp : Nat) : State :=
  if isRegSpace pa || !s.local pa then s
  else
    let set := s.l2.get (s.l2Set pa)
    let old := ((set.find? fun x => x.1 == pa / 128).map Prod.snd).getD (false, false)
    let m := hintMarks (if cp = 2 then 1 else hint) old
    let rest := set.filter fun x => x.1 != pa / 128
    let rest := if m.1 then demoteNinth rest else rest
    let rest := if 12 ≤ rest.length then
        match victimOf (fun x => x.2.1) (fun x => x.2.2) rest with
        | some v => rest.filter fun x => x.1 != v.1
        | none => rest
      else rest
    { s with l2 := s.l2.set (s.l2Set pa) (rest ++ [(pa / 128, m)]) }

/-- The line addresses that `n` bytes touch. -/
def linesOf (pa n : Nat) : List Nat := (List.range (ceilDiv (pa % 128 + n) 128)).map fun i => (pa / 128 + i) * 128

/-- Accesses at the home slices of `n` bytes of a page with a CP: nothing for CP = 3 (R92, R99, R100). -/
def State.l2Lines (s : State) (pa n cp : Nat) : State :=
  if cp = 3 then s else (linesOf pa n).foldl (fun s a => s.l2Touch a 0 cp) s

/-! ### Physical memory -/

/-- Bytes at a physical address, read at the home slice. What the register space of another module gives is outside this
module (DESIGN CHOICE, unsafe; log entry 65). -/
def State.readPhys (s : State) (pa n : Nat) : List Byte :=
  if isRegSpace pa then
    (List.range n).map fun i => if s.local pa then s.regByte (regOffset (pa + i)) else Config.freeByte s.fresh (pa + i)
  else Cells.read s.mem pa n

/-- A little-endian number at a physical address. -/
def State.readNat (s : State) (pa n : Nat) : Nat := leValue (s.readPhys pa n)

/-- A write that covers a whole 32-byte sector clears its poison (R423). -/
def clearPoison (poison : List Nat) (pa n : Nat) : List Nat :=
  poison.filter fun p => !(decide (pa ≤ p) && decide (p + 32 ≤ pa + n))

/-- Write bytes at their home slice or in register space, holding no line in the L2: a page with CP = 3 (R92). What is
written to another module's register space leaves this one (DESIGN CHOICE, unsafe; log entry 65). -/
def State.writeUncached (s : State) (pa : Nat) (bs : List Byte) : State :=
  if isRegSpace pa then (if s.local pa then s.writeReg (regOffset pa) bs else s)
  else { s with mem := Cells.write s.mem pa bs, poison := clearPoison s.poison pa bs.length }

/-- Write bytes of a page with a CP at their home slice, which allocates their lines in the L2, or in register space (R90,
R92, R99, R100, R423). -/
def State.writeHome (s : State) (cp pa : Nat) (bs : List Byte) : State := (s.writeUncached pa bs).l2Lines pa bs.length cp

/-- The same for bytes of no page, such as page tables and images in the save pool. -/
def State.writePhys (s : State) (pa : Nat) (bs : List Byte) : State := s.writeHome 0 pa bs

/-- Is any sector of a range poisoned (R424)? -/
def State.poisoned (s : State) (pa n : Nat) : Bool :=
  s.poison.any fun p => decide (pa < p + 32) && decide (p < pa + n)

/-! ### Page-table entries (Table 6.3) -/

abbrev pteV (e : DWord) : Bool := e.getLsbD 0
abbrev pteLeaf (e : DWord) : Bool := e.getLsbD 1
abbrev pteR (e : DWord) : Bool := e.getLsbD 2
abbrev pteW (e : DWord) : Bool := e.getLsbD 3
abbrev pteX (e : DWord) : Bool := e.getLsbD 4
abbrev pteEng (e : DWord) : Bool := e.getLsbD 5
abbrev pteCp (e : DWord) : Nat := e.toNat / 64 % 4
abbrev pteA (e : DWord) : Bool := e.getLsbD 8
abbrev pteD (e : DWord) : Bool := e.getLsbD 9
abbrev ptePin (e : DWord) : Bool := e.getLsbD 10
abbrev pteShd (e : DWord) : Bool := e.getLsbD 11
abbrev pteNp (e : DWord) : Bool := e.getLsbD 12
abbrev pteEpin (e : DWord) : Bool := e.getLsbD 13
/-- The frame's physical address. -/
abbrev pteFrame (e : DWord) : Nat := natBits 14 38 e.toNat * 2 ^ 14

/-- Size of the page of a level (R103). -/
def pageSize (level : Nat) : Nat := 2 ^ (14 + 11 * level)

/-- A physical address no page may map: beyond memory and not register space (R90, R457), or a module outside the pod.
(DESIGN CHOICE, unsafe; log entry 65.) -/
def State.reservedAddr (s : State) (pa : Nat) : Bool :=
  let l := pa % 2 ^ 44
  decide (max s.fw.podSize 1 ≤ pa / 2 ^ 44) || (!l.testBit 43 &&
    decide (2 ^ 39 - (if pa / 2 ^ 44 = s.fw.podNumber then s.fw.badChannels.length * 2 ^ 30 else 0) ≤ l))

/-- A malformed entry with V = 1 and NP = 0 (R103, R420). -/
def State.badPte (s : State) (level : Nat) (e : DWord) : Bool :=
  (pteLeaf e && level == 3) || (!pteLeaf e && level == 0) || natBits 52 12 e.toNat != 0
    || (pteLeaf e && pteFrame e % pageSize level != 0)
    || s.reservedAddr (pteFrame e)
    || (pteLeaf e && s.reservedAddr (pteFrame e + pageSize level - 1))
    || (pteLeaf e && isRegSpace (pteFrame e) && pteCp e != 3)

/-- How a walk ends (R103). -/
inductive Walk where
  | leaf (pte : DWord) (addr level : Nat)
  | invalid
  | bad (e : DWord)
  | np (level : Nat) (e : DWord)
  | poison (addr : Nat)
  deriving DecidableEq, Repr, Inhabited

/-- Walk from a table at a level downward (R103). -/
def State.walkFrom (s : State) (va : Nat) : Nat → Nat → Walk
  | 0, t =>
    let a := t + 8 * natBits 14 11 va
    let e := BitVec.ofNat 64 (s.readNat a 8)
    if s.poisoned a 8 then .poison a
    else if !pteV e then .invalid
    else if pteNp e then .np 0 e
    else if s.badPte 0 e then .bad e
    else .leaf e a 0
  | level + 1, t =>
    let a := t + 8 * natBits (14 + 11 * (level + 1)) 11 va
    let e := BitVec.ofNat 64 (s.readNat a 8)
    if s.poisoned a 8 then .poison a
    else if !pteV e then .invalid
    else if pteNp e then .np (level + 1) e
    else if s.badPte (level + 1) e then .bad e
    else if pteLeaf e then .leaf e a (level + 1)
    else s.walkFrom va level (pteFrame e)

/-- The context of a name. -/
abbrev State.ctx (s : State) (id : Nat) : Ctx := s.ctxs.get id

/-- Change a context. -/
def State.onCtx (s : State) (id : Nat) (f : Ctx → Ctx) : State := { s with ctxs := s.ctxs.upd id f }

/-- Walk of a context's address (R103). -/
def State.walk (s : State) (ctx va : Nat) : Walk := s.walkFrom va 3 (s.ctx ctx).ptroot

/-- Is a global address canonical (R89)? -/
def canonical (va : Nat) : Bool :=
  let top := va % 2 ^ 64 / 2 ^ 57
  top == 0 || top == 127

/-- Section of a core (R8). -/
def sectOf (core : Nat) : Nat := core / 256 * 16 + (core % 256 / 16 / 4) * 4 + core % 16 / 4

/-- Die of a core (R8). -/
def dieOf (core : Nat) : Nat := core / 256

abbrev State.core (s : State) (c : Nat) : Core := s.cores.get c
abbrev State.sect (s : State) (n : Nat) : Sect := s.sects.get n
abbrev State.die (s : State) (n : Nat) : Die := s.dies.get n

def State.onCore (s : State) (c : Nat) (f : Core → Core) : State := { s with cores := s.cores.upd c f }
def State.onSect (s : State) (n : Nat) (f : Sect → Sect) : State := { s with sects := s.sects.upd n f }
def State.onDie (s : State) (n : Nat) (f : Die → Die) : State := { s with dies := s.dies.upd n f }

/-! ### The section TLB (R107) -/

/-- The TLB entry that maps an address. -/
def tlbFind (t : List TlbEntry) (asid va : Nat) : Option TlbEntry :=
  t.find? fun e => e.asid == asid && va / pageSize e.level == e.page / pageSize e.level

/-- Translation of an address for a section: its TLB, else a walk. A write through an entry whose D is clear walks again
(R105, R107). Nothing is changed. -/
def State.look (s : State) (sect ctx va : Nat) (write : Bool) : Walk :=
  match tlbFind (s.sect sect).tlb (s.ctx ctx).asid va with
  | some e => if write && !pteD e.pte then s.walk ctx va else .leaf e.pte 0 e.level
  | none => s.walk ctx va

/-- Remember a leaf in the section TLB, at most 16,384 entries, the oldest replaced first (R107). -/
def State.tlbAdd (s : State) (sect asid va level : Nat) (pte : DWord) : State :=
  s.onSect sect fun t =>
    let rest := t.tlb.filter fun e => !(e.asid == asid && e.page / pageSize e.level == va / pageSize e.level)
    { t with tlb := (⟨asid, va / pageSize level * pageSize level, level, pte⟩ :: rest).take 16384 }

/-- The updates an access that passes its checks makes: A, and D for a write, at the entry's home slice, and the TLB
entry (R105). -/
def State.touch (s : State) (sect ctx va : Nat) (write : Bool) : State :=
  match tlbFind (s.sect sect).tlb (s.ctx ctx).asid va with
  | some e =>
    if write && !pteD e.pte then
      match s.walk ctx va with
      | .leaf pte a level =>
        let pte := pte ||| 0x300#64
        (s.writePhys a (leBytes 8 pte.toNat)).tlbAdd sect (s.ctx ctx).asid va level pte
      | _ => s
    else s
  | none =>
    match s.walk ctx va with
    | .leaf pte a level =>
      let pte := pte ||| (if write then 0x300#64 else 0x100#64)
      (s.writePhys a (leBytes 8 pte.toNat)).tlbAdd sect (s.ctx ctx).asid va level pte
    | _ => s

/-- The physical address of a virtual address under a leaf (R103). -/
def leafAddr (pte : DWord) (level va : Nat) : Nat := pteFrame pte + va % pageSize level

/-! ### Interrupts and the machine-check log (R394, R397) -/

/-- Raise an MSI-X vector. (DEDUCED, unsafe; log entry 49.) -/
def State.raise (s : State) (v : Nat) : State := { s with msix := v :: s.msix }

/-- The length of a cycle at the DVFS point in force, in fifteenths of a nanosecond (Table 18.9). -/
def State.cycleTime (s : State) : Nat :=
  match s.fw.dvfs.toNat with
  | 0 => 12
  | 1 => 15
  | 2 => 20
  | _ => 30

/-- A bound of `n` microseconds as time: a bound in time whatever the DVFS point (R372). -/
def micros (n : Nat) : Nat := n * 15000

/-- The cycle count of R71. -/
def State.clock (s : State) : Nat :=
  match s.clock0 with
  | some c => s.cycle - c
  | none => 0

/-- An error as the log records it (Table 24.10). -/
structure McInfo where
  sev : Nat
  unit : Nat
  loc : Nat
  addr : Nat
  syndrome : Nat
  asid : Nat
  ctx : Nat
  /-- DEV of the record: the place of the consumer's pod-wide grid (Table 24.3). -/
  dev : Nat
  deriving DecidableEq, Repr, Inhabited

/-- Bytes 0 to 59 of a machine-check record (Table 24.10). -/
def mcBytes (m : McInfo) (count clock : Nat) : List Byte :=
  leBytes 1 m.sev ++ leBytes 1 m.unit ++ leBytes 2 count ++ leBytes 4 m.loc ++ leBytes 8 m.addr ++ leBytes 8 m.syndrome
    ++ leBytes 8 clock ++ leBytes 2 m.asid ++ leBytes 2 m.ctx ++ leBytes 24 0

/-- The trailer of a record (Table 24.3). -/
def trailer (w dev rtype : Nat) : List Byte := leBytes 2 w ++ leBytes 1 dev ++ leBytes 1 rtype

/-- A field of a record's bytes. -/
def fieldAt (r : List Byte) (off n : Nat) : Nat := leValue ((r.drop off).take n)

/-- Records written and not yet consumed. -/
def McLog.used (l : McLog) : Nat := (l.wridx + 2 ^ 32 - l.rdidx) % 2 ^ 32

/-- The write indices not yet consumed, the oldest first. -/
def McLog.live (l : McLog) : List Nat := (List.range (min l.used 255)).map fun i => (l.rdidx + i) % 2 ^ 32

/-- Append a record at the log's write index. -/
def McLog.append (l : McLog) (dev : Nat) (body : List Byte) : McLog :=
  { l with
    entries := l.entries.set (l.wridx % 255) (body ++ trailer l.wridx dev 4)
    wridx := (l.wridx + 1) % 2 ^ 32 }

/-- Count one more error in the record of a write index, which still holds it (R394). -/
def McLog.merge (l : McLog) (w : Nat) : McLog :=
  { l with entries := l.entries.upd (w % 255) fun r =>
      if fieldAt r 0 1 = 1 ∧ fieldAt r 60 2 = w % 2 ^ 16 then
        r.take 2 ++ leBytes 2 (min (fieldAt r 2 2 + 1) 0xFFFF) ++ r.drop 4
      else r }

/-- Log an error at a time: a corrected one merges into the record that its unit and location wrote within the last
millisecond, consumed or not; a corrected one is dropped when the log is full, and a graver one replaces the oldest
corrected record or is held (R394). -/
def McLog.log (l : McLog) (m : McInfo) (clock time : Nat) : McLog :=
  let body := mcBytes m 1 clock
  let same := fun (r : Nat × Nat × Nat × Nat) => r.1 == m.unit && r.2.1 == m.loc && decide (time < r.2.2.1 + micros 1000)
  match (if m.sev = 1 then l.recent.find? same else none) with
  | some r => l.merge r.2.2.2
  | none =>
    let others := l.recent.filter fun r => !(r.1 == m.unit && r.2.1 == m.loc)
    if l.used < 255 then
      { l.append m.dev body with recent := if m.sev = 1 then (m.unit, m.loc, time, l.wridx) :: others else l.recent }
    else if m.sev = 1 then { l with held := (l.held + 1) % 2 ^ 32 }
    else match l.live.find? fun w => fieldAt (l.entries.get (w % 255)) 0 1 == 1 with
      | some w => { l with entries := l.entries.set (w % 255) (body ++ trailer w m.dev 4) }
      | none => { l with held := (l.held + 1) % 2 ^ 32, waiting := l.waiting ++ [(m.dev, body)] }

/-- Write a machine-check record; every record written other than a corrected one raises MCVEC (R394). (DEDUCED,
unsafe; log entry 32.) -/
def State.mcheck (s : State) (m : McInfo) : State :=
  let l := s.mclog.log m s.clock s.time
  let kept := decide (l.waiting.length = s.mclog.waiting.length)
  let s := { s with mclog := l }
  if m.sev ≠ 1 ∧ kept = true then s.raise s.mclog.mcvec else s

/-- Held records are written while the log has room, the oldest first (R394, R397). (DEDUCED, unsafe; log entry 32.) -/
def State.drainLog (s : State) : Nat → State
  | 0 => s
  | n + 1 =>
    match s.mclog.waiting with
    | [] => s
    | b :: rest =>
      if s.mclog.used < 255 then
        State.drainLog (({ s with mclog := { s.mclog.append b.1 b.2 with waiting := rest } }).raise s.mclog.mcvec) n
      else s

/-- LOC of a home slice (Table 24.10): its number and its die. A slice lies at a 2 x 2 block of cores (R10, R100) and the
table does not say which core's x, y and section its record names, so these fields are 0 (DESIGN CHOICE, unsafe; log
entry 69). -/
def State.sliceLoc (s : State) (pa : Nat) : Nat :=
  homeSlice (s.placed pa) * 2 ^ 16 + homeSlice (s.placed pa) / 64 * 2 ^ 12

/-- LOC of a core (Table 24.10). -/
def coreLoc (core : Nat) : Nat := core % 256 + sectOf core % 16 * 2 ^ 8 + dieOf core * 2 ^ 12

/-- Change the cells of a core: poisoned ones that are overwritten or cleared unread are logged (R387, Table 24.1). -/
def State.onCells (s : State) (core : Nat) (f : Core → Core) : State :=
  let t := s.onCore core f
  ((s.core core).accBad.filter fun k => !(t.core core).accBad.contains k).foldl
    (fun s _ => s.mcheck ⟨2, 1, coreLoc core, 0, 0, 0, 0, 0⟩) t

/-- The grid of a name. -/
def State.gridOf (s : State) (id : Nat) : Grid := (s.grids.find? fun g => g.id == id).getD default

/-- A pod-wide grid was started by GLAUNCH (R332). -/
def Grid.pod (g : Grid) : Bool := g.gen != 0

/-- DEV of a grid's records (Table 24.3). -/
def Grid.dev (g : Grid) : Nat := if g.pod then g.place else 0

/-- Change a grid. -/
def State.onGrid (s : State) (id : Nat) (f : Grid → Grid) : State :=
  { s with grids := s.grids.map fun g => if g.id = id then f g else g }

/-- Log a consumption of poison at an address by a context's lane or fetch (event code 2), engine command (3) or page walk (5),
of the grid given: the record names the consumer (R424, R426, Table 24.3, Table 26.4), and may be the first that the module
writes for the grid (R395). -/
def State.consumed (s : State) (pa event ctx grid : Nat) : State :=
  let m : McInfo :=
    ⟨2, 5, s.sliceLoc pa, pa / 32 * 32, event * 2 ^ 56, (s.ctx ctx).asid, ctx, (s.gridOf grid).dev⟩
  (s.mcheck m).onGrid grid fun g => { g with first := some (g.first.getD (mcBytes m 1 s.clock ++ trailer 0 m.dev 4)) }

/-- Log a consumption by the mailbox, which is no context's (R424, R426, Table 26.4). -/
def State.consumedByHost (s : State) (pa : Nat) : State :=
  s.mcheck ⟨2, 5, s.sliceLoc pa, pa / 32 * 32, 3 * 2 ^ 56, 0, 0, 0⟩

/-! ### Stores on their way to their homes (R93, R117, R118, R231) -/

/-- The atomic operations (Table 11.3). TYPE 0 .s32, 1 .z32, .b32 or .f32, 2 .s64, 3 .z64 or .b64 (R230). -/
def applyAtomic (aop type old b c : Nat) : Nat :=
  let w := if type < 2 then 32 else 64
  let le := fun x y => if type % 2 = 0 then decide (signedNat w x ≤ signedNat w y) else decide (x ≤ y)
  let f := Fmt.decode .fp32
  let r := Fmt.round .fp32 .rne .none
  match aop with
  | 0 => (old + b) % 2 ^ w
  | 1 => if le old b then old else b
  | 2 => if le old b then b else old
  | 3 => old &&& b
  | 4 => old ||| b
  | 5 => old ^^^ b
  | 6 => b
  | 7 => if old = b then c else old
  | 8 => if b ≤ old then 0 else old + 1
  | 9 => if old = 0 ∨ b < old then b else old - 1
  | 10 => r (XVal.add .rne (f old) (f b))
  | 11 => r (XVal.minNum (f old) (f b))
  | 12 => r (XVal.maxNum (f old) (f b))
  | _ => old

/-- Bytes of an atomic's operand (R230). -/
def atomicBytes (type : Nat) : Nat := if type < 2 then 4 else 8

/-- Perform one step of a store, RED or non-returning ATOMS of a context and grid at its home slice: a RED to a poisoned
sector is not applied, and its lane consumes the poison (R424, R426). -/
def State.homeStep (s : State) (ctx grid : Nat) (h : HomeStep) : State :=
  match h.rmw with
  | none => s.writeHome h.cp h.addr h.data
  | some (aop, type, b, c) =>
    let n := atomicBytes type
    if s.poisoned h.addr n then s.consumed h.addr 2 ctx grid
    else s.writeHome h.cp h.addr (leBytes n (applyAtomic aop type (s.readNat h.addr n) b c))

/-- Perform the steps of a wave's store at their home slices. -/
def State.homeSteps (s : State) (wave : Nat) (steps : List HomeStep) : State :=
  let g := s.wgOf (s.waveOf wave).wg
  steps.foldl (fun s h => s.homeStep g.ctx g.grid h) s

/-- Apply one step of an STS or non-returning ATOMS in a window (R97, R232); nothing when the window is gone (R422). -/
def State.scratchStep (s : State) (wg : Nat) (h : HomeStep) : State :=
  s.mapWg wg fun g =>
    match h.rmw with
    | none => { g with scratch := g.scratch.write h.addr h.data }
    | some (aop, type, b, c) =>
      let n := atomicBytes type
      let new := leBytes n (applyAtomic aop type (leValue (g.scratch.read h.addr n)) b c)
      { g with scratch := g.scratch.write h.addr new }

/-- Insert an operation by its number. -/
def insertOp (x : Nat × Nat × List HomeStep) : List (Nat × Nat × List HomeStep) → List (Nat × Nat × List HomeStep)
  | [] => [x]
  | y :: ys => if x.2.1 ≤ y.2.1 then x :: y :: ys else y :: insertOp x ys

/-- Outstanding stores of some waves towards a target, in order of issue: wave, operation, steps (R97, R118). `target` 0
is global memory, `n + 1` the window of workgroup `n`. -/
def pendingSteps (ws : List Wave) (target : Nat) : List (Nat × Nat × List HomeStep) :=
  (ws.flatMap fun w => w.ops.filterMap fun o =>
      match o.kind with
      | .home st => if o.done || o.target != target then none else some (w.id, o.id, st)
      | _ => none).foldr insertOp []

/-- The waves, with their operations of earlier cycles alone: a store into a window is not applied before the cycle after its
issue (R236). -/
def State.earlier (s : State) : List Wave :=
  s.allWaves.map fun w => { w with ops := w.ops.filter fun o => decide (o.born < s.cycle) }

/-- The waves of a core. -/
def State.wavesOn (s : State) (core : Nat) : List Wave := s.allWaves.filter fun w => (s.wgOf w.wg).core == core

/-- Perform the stores a core has in flight to home slices, in the order it sent them (R118). -/
def State.flushCore (s : State) (core : Nat) : State :=
  (pendingSteps (s.wavesOn core) 0).foldl (fun s p => (s.homeSteps p.1 p.2.2).complete p.1 p.2.1) s

/-- Every store in flight reaches its home slice: the accesses that used a removed entry complete (R106). -/
def State.flushAll (s : State) : State := (distinct (s.allWgs.map WG.core)).foldl State.flushCore s

/-- Apply the stores in flight to a window that were issued before this cycle, in the order they were issued (R97, R236).
-/
def State.flushWindow (s : State) (wg : Nat) : State :=
  (pendingSteps s.earlier (wg + 1)).foldl
    (fun s p => (p.2.2.foldl (fun s h => s.scratchStep wg h) s).complete p.1 p.2.1) s

/-- The window of the issuing workgroup as a later instruction of the chain in issue sees it: with the stores that the chain
has issued into it (R140). -/
def State.windowSeen (s : State) : Cells Byte :=
  let mine := { s.wave with ops := s.wave.ops.filter fun o => o.born == s.cycle && (o.quads &&& s.iss.members) != 0 }
  ((pendingSteps [mine] (s.wg.id + 1)).foldl (fun s p => p.2.2.foldl (fun s h => s.scratchStep s.wg.id h) s) s).wg.scratch

/-- Perform everything that the stores of one operation still have to do (R68, MEM_OP_COMPLETE). -/
def State.performStore (s : State) (wave : Nat) (o : Op) (steps : List HomeStep) : State :=
  let s := if o.target = 0 then s.homeSteps wave steps
    else steps.foldl (fun s h => s.scratchStep (o.target - 1) h) s
  s.complete wave o.id

/-! ### The L1 (R92 to R99, R108) -/

/-- Pinned lines of a window in a set (R95). -/
def pinnedIn (bytes set : Nat) : Nat := bytes / 128 / 512 + (if set < bytes / 128 % 512 then 1 else 0)

/-- Unpinned ways of a set of a core (R96). -/
def State.waysOf (s : State) (core set : Nat) : Nat :=
  8 - ((s.allWgs.filter fun g => g.core == core).foldl (fun n g => n + pinnedIn (4096 * g.launch.scratch) set) 0)

/-- The set of a line of the L1 (R92). -/
def Line.set (l : Line) : Nat := l.va % 512

/-- A line of the L1 by its tag (R92). -/
def lineOf (c : Core) (asid va : Nat) : Option Line := c.l1.find? fun l => l.asid == asid && l.va == va / 128

/-- Lines leave the L1; a poisoned one that was never consumed is logged with event code 4 (R425, R426). -/
def State.dropLines (s : State) (core : Nat) (p : Line → Bool) : State :=
  let gone := (s.core core).l1.filter fun l => p l && l.bad != 0 && !l.used
  let s := s.onCore core fun c => { c with l1 := c.l1.filter fun l => !p l }
  gone.foldl (fun s l => s.mcheck ⟨2, 3, coreLoc core, l.pa * 128, 4 * 2 ^ 56, 0, 0, 0⟩) s

/-- Every unpinned line of a core's L1 is invalidated: an acquire at CLUSTER scope or wider, CCTL.INVALL (R94, R235). -/
def State.invalidateL1 (s : State) (core : Nat) : State := s.dropLines core fun _ => true

/-- Poison marks of the four sectors of a line (R423). -/
def State.lineBad (s : State) (pa : Nat) : BitVec 4 :=
  (List.range 4).foldl (fun m i => if s.poison.contains (pa / 128 * 128 + 32 * i) then m ||| BitVec.twoPow 4 i else m) 0

/-- An L1 miss, of a load or a store, translates to a frame: where the reverse map records it under another alias, every
line of that alias is invalidated before the access goes on (R108, R117, R431). -/
def State.dropAlias (s : State) (core asid va pa : Nat) : State :=
  match (s.core core).rmap.find? fun r => r.1 == pa / 2 ^ 14 with
  | some (f, a, p) =>
    if a = asid ∧ p = va / 2 ^ 14 then s
    else (s.dropLines core fun l => l.asid == a && l.va / 128 == p).onCore core fun c =>
      { c with rmap := c.rmap.filter fun r => r.1 != f }
  | none => s

/-- Fill a line: the alias the reverse map records is invalidated first (R108), the victim of a full set leaves (R99).
-/
def State.fillLine (s : State) (core asid va pa hint : Nat) (pte : DWord) : State :=
  let frame := pa / 2 ^ 14
  let s := s.dropAlias core asid va pa
  let s := s.dropLines core fun l => l.asid == asid && l.va == va / 128
  let inSet := (s.core core).l1.filter fun l => l.set == va / 128 % 512
  let s := if inSet.length < s.waysOf core (va / 128 % 512) then s
    else match victimOf Line.el Line.ef inSet with
      | some v => s.dropLines core fun l => l.asid == v.asid && l.va == v.va
      | none => s
  let m := hintMarks hint (false, false)
  let line : Line :=
    ⟨asid, va / 128, pa / 128, s.readPhys (pa / 128 * 128) 128, pteR pte, pteW pte, m.1, m.2, s.lineBad pa, false⟩
  if s.waysOf core (va / 128 % 512) = 0 then s
  else s.onCore core fun c => { c with
    l1 := c.l1 ++ [line]
    rmap := (frame, asid, va / 2 ^ 14) :: c.rmap.filter fun r => r.1 != frame }

/-- A hit makes a line the most recently used and takes the hint (R98, R99). -/
def State.useLine (s : State) (core hint : Nat) (l : Line) : State :=
  let m := hintMarks hint (l.el, l.ef)
  s.onCore core fun c => { c with
    l1 := (c.l1.filter fun x => !(x.asid == l.asid && x.va == l.va)) ++ [{ l with el := m.1, ef := m.2 }] }

/-! ### Checks of an access (R418 to R421) -/

/-- What an access needs of its leaf (Table 26.2). -/
structure Need where
  r : Bool
  w : Bool
  x : Bool
  eng : Bool
  deriving DecidableEq, Repr

/-- How the checks of one access end (R418). -/
inductive Fate where
  | hit
  | ok (pte : DWord) (level : Nat)
  | trap (code : Nat) (detail : DWord)
  | absent (level : Nat) (pte : DWord)
  | poisoned (addr : Nat)
  deriving DecidableEq, Repr, Inhabited

/-- Does a leaf grant an access (Table 26.2)? -/
def grants (pte : DWord) (n : Need) : Bool :=
  (!n.r || pteR pte) && (!n.w || pteW pte) && (!n.x || pteX pte) && (!n.eng || pteEng pte)

/-- The translation part of the checks. -/
def State.checkPage (s : State) (sect ctx va : Nat) (n : Need) : Fate :=
  match s.look sect ctx va n.w with
  | .leaf pte _ level => if grants pte n then .ok pte level else .trap 0x24 0
  | .invalid => .trap 0x23 0
  | .bad e => .trap 0x25 e
  | .np level e => .absent level e
  | .poison a => .poisoned a

/-- The checks of an access of `n` bytes at an address: canonical, aligned, translated, permitted, present (R418). -/
def State.checkVa (s : State) (sect ctx va n : Nat) (need : Need) : Fate :=
  if !canonical va then .trap 0x20 0
  else if va % n != 0 then .trap 0x21 0
  else s.checkPage sect ctx va need

/-- The checks of a lane's store, which an L1 hit makes against the bits its line keeps (R92, R418). -/
def State.checkStore (s : State) (core ctx va n : Nat) : Fate :=
  if !canonical va then .trap 0x20 0
  else if va % n != 0 then .trap 0x21 0
  else match lineOf (s.core core) (s.ctx ctx).asid va with
    | some l => if l.writable then .hit else .trap 0x24 0
    | none => s.checkPage (sectOf core) ctx va ⟨false, true, false, false⟩

/-- The checks of a lane's load, which an L1 hit makes against the bits its line keeps (R92, R418). -/
def State.checkLoad (s : State) (core ctx va n : Nat) (home : Bool) : Fate :=
  if !canonical va then .trap 0x20 0
  else if va % n != 0 then .trap 0x21 0
  else match (if home then none else lineOf (s.core core) (s.ctx ctx).asid va) with
    | some l => if l.readable then .hit else .trap 0x24 0
    | none => s.checkPage (sectOf core) ctx va ⟨true, false, false, false⟩

/-! ### Loads and stores that passed their checks -/

/-- What a load returns: its bytes, whether their sector is poisoned (R424), whether it missed in L2 (R56), and the line
it missed in the L1, for which it holds a miss register until it completes (R12). -/
structure Loaded where
  bytes : List Byte
  bad : Bool
  missed : Bool
  line : Option Nat
  deriving DecidableEq, Repr, Inhabited

/-- A load of `n` bytes within a line, of a grid's lane: served by the L1, or at the home slice after the core's stores in
flight (R92, R118); `home` performs it there and allocates nothing (R124). -/
def State.loadVa (s : State) (core ctx grid va n hint : Nat) (home : Bool) : Loaded × State :=
  let asid := (s.ctx ctx).asid
  match (if home then none else lineOf (s.core core) asid va) with
  | some l =>
    let bad := l.bad.getLsbD (va % 128 / 32)
    let s := s.useLine core hint { l with used := l.used || bad }
    (⟨(l.data.drop (va % 128)).take n, bad, false, none⟩,
      if bad then s.consumed (l.pa * 128 + va % 128) 2 ctx grid else s)
  | none =>
    let s := (s.touch (sectOf core) ctx va false).flushCore core
    match s.look (sectOf core) ctx va false with
    | .leaf pte _ level =>
      let pa := leafAddr pte level va
      let missed := !s.inL2 pa
      let bad := s.poisoned pa n
      let bytes := s.readPhys pa n
      let s := if pteCp pte = 3 then s else s.l2Touch pa hint (pteCp pte)
      let s := s.dropAlias core asid va pa
      let s := if pteCp pte = 0 ∧ hint ≠ 3 ∧ home = false then s.fillLine core asid va pa hint pte else s
      let s := if bad then s.onCore core fun c => { c with
          l1 := c.l1.map fun l => if l.asid = asid ∧ l.va = va / 128 then { l with used := true } else l } else s
      (⟨bytes, bad, missed, some (pa / 128)⟩, if bad then s.consumed pa 2 ctx grid else s)
    | _ => (⟨[], false, false, none⟩, s)

/-- A store's own L1 is updated at once, at the physical line it holds, and the step at the home slice is returned; one
that misses invalidates another alias of its frame (R92, R93, R108). -/
def State.storeVa (s : State) (core ctx va hint : Nat) (bytes : List Byte) : List HomeStep × State :=
  let asid := (s.ctx ctx).asid
  let hint := if hint = 3 then 0 else hint
  let s := s.touch (sectOf core) ctx va true
  match lineOf (s.core core) asid va, s.look (sectOf core) ctx va true with
  | some l, w =>
    let pa := l.pa * 128 + va % 128
    let cp := match w with
      | .leaf pte _ _ => pteCp pte
      | _ => 0
    let s := s.l2Touch pa hint cp
    ([⟨pa, bytes, none, cp⟩], s.useLine core hint
      { l with data := l.data.take (va % 128) ++ bytes ++ l.data.drop (va % 128 + bytes.length) })
  | none, .leaf pte _ level =>
    let pa := leafAddr pte level va
    let s := if pteCp pte = 3 then s else s.l2Touch pa hint (pteCp pte)
    ([⟨pa, bytes, none, pteCp pte⟩], s.dropAlias core asid va pa)
  | none, _ => ([], s)

/-- The physical address of an atomic and its page's CP, after the page is touched; the core's own copy of the line is
invalidated (R92). -/
def State.atomicVa (s : State) (core ctx va : Nat) : Option (Nat × Nat) × State :=
  let s := s.touch (sectOf core) ctx va true
  match s.look (sectOf core) ctx va true with
  | .leaf pte _ level =>
    let pa := leafAddr pte level va
    let s := if pteCp pte = 3 then s else s.l2Touch pa 0 (pteCp pte)
    (some (pa, pteCp pte), s.dropLines core fun l => l.pa == pa / 128)
  | _ => (none, s)

/-! ### Accesses of engines and firmware at the home slices -/

/-- An engine's or firmware's read of bytes that passed its checks, a page at a time, `n` at most a page (R237, R326).
-/
def State.readVa (s : State) (sect ctx va n : Nat) : List Byte × Bool × State :=
  let s := s.touch sect ctx va false
  match s.look sect ctx va false with
  | .leaf pte _ level => let pa := leafAddr pte level va; (s.readPhys pa n, s.poisoned pa n, s.l2Lines pa n (pteCp pte))
  | _ => ([], false, s)

/-- An engine's or firmware's write of bytes that passed its checks. -/
def State.writeVa (s : State) (sect ctx va : Nat) (bytes : List Byte) : State :=
  let s := s.touch sect ctx va true
  match s.look sect ctx va true with
  | .leaf pte _ level => s.writeHome (pteCp pte) (leafAddr pte level va) bytes
  | _ => s

end Sys2Proof.Machine
end

