-- ==== Sys2Proof/Machine/Report.lean ====
section
/-!
DEFINITION. Machine/Report.lean: the fault queue and its records, part dumps, the fault wait table, halting a queue,
cancelling a grid and killing a context (24_faults_reporting, R109 to R112, R336).
-/

namespace Sys2Proof.Machine

/-! ### The firmware's own view of a context's memory -/

/-- The physical address of a context's virtual address, by the walk of R103; none where no leaf maps it. -/
def State.ctxPa (s : State) (ctx va : Nat) : Option Nat :=
  match s.walk ctx va with
  | .leaf pte _ level => some (leafAddr pte level va)
  | _ => none

/-- Set or clear bits of the leaf that maps an address, at its home slice (R105, R245). -/
def State.markLeaf (s : State) (ctx va mask : Nat) (on : Bool) : State :=
  match s.walk ctx va with
  | .leaf pte a _ =>
    let m := BitVec.ofNat 64 mask
    let new := if on then pte ||| m else pte &&& ~~~m
    if new = pte then s else s.writePhys a (leBytes 8 new.toNat)
  | _ => s

/-- CP of the page of a context's virtual address (Table 6.3). -/
def State.ctxCp (s : State) (ctx va : Nat) : Nat :=
  match s.walk ctx va with
  | .leaf pte _ _ => pteCp pte
  | _ => 0

/-- An access of firmware to `n` bytes of a page of a context sets A in its leaf, and D for a write (R105), and uses the lines
at the home slices (R99, R100). -/
def State.ctxUse (s : State) (ctx va n : Nat) (write : Bool) : State :=
  let s := s.markLeaf ctx va (if write then 0x300 else 0x100) true
  match s.ctxPa ctx va with
  | some pa => s.l2Lines pa n (s.ctxCp ctx va)
  | none => s

/-- The same for an access within a line. -/
def State.ctxTouch (s : State) (ctx va : Nat) (write : Bool) : State := s.ctxUse ctx va 1 write

/-- The same for every page that holds one of `n` bytes (R105). -/
def State.ctxTouchRange (s : State) (ctx va n : Nat) (write : Bool) : State :=
  (List.range (ceilDiv (va % 2 ^ 14 + n) (2 ^ 14))).foldl
    (fun s i =>
      let lo := max va ((va / 2 ^ 14 + i) * 2 ^ 14)
      s.ctxUse ctx (lo % 2 ^ 64) (min (va + n) ((va / 2 ^ 14 + i + 1) * 2 ^ 14) - lo) write) s

/-- Write bytes at a physical address of a context's page, with the page's CP (R92, R99). -/
def State.ctxPut (s : State) (ctx va pa : Nat) (bs : List Byte) : State := s.writeHome (s.ctxCp ctx va) pa bs

/-- Bytes of a context's memory as firmware reads them; none where no leaf maps them. Nothing is changed: the command
that uses them sets A (`ctxTouch`). -/
def State.ctxRead (s : State) (ctx va n : Nat) : Option (List Byte) := (s.ctxPa ctx va).map fun pa => s.readPhys pa n

/-- Bytes of a context's memory as firmware writes them; nothing where no leaf maps them (DESIGN CHOICE, unsafe; log
entry 14). -/
def State.ctxWrite (s : State) (ctx va : Nat) (bs : List Byte) : State :=
  match s.ctxPa ctx va with
  | some pa => (s.ctxTouch ctx va true).ctxPut ctx va pa bs
  | none => s

/-! ### The save pool (R350, R352) -/

/-- Does a run of units overlap an allocation? -/
def overlapsUse (first n : Nat) (u : Nat × Nat × Nat) : Bool := decide (first < u.1 + u.2.1) && decide (u.1 < first + n)

/-- Allocate units of 256 bytes in a context's save pool for an owner; the lowest place that fits. -/
def Ctx.alloc (c : Ctx) (bytes owner : Nat) : Option (Nat × Ctx) :=
  let n := ceilDiv bytes 256
  let fits := fun first => decide (first + n ≤ 64 * c.poolSize) && !c.poolUse.any (overlapsUse first n)
  match (0 :: c.poolUse.map fun u => u.1 + u.2.1).find? fits with
  | some first => some (c.pool + 256 * first, { c with poolUse := (first, n, owner) :: c.poolUse })
  | none => none

/-- Free the units that begin at an address. -/
def Ctx.free (c : Ctx) (addr : Nat) : Ctx := { c with poolUse := c.poolUse.filter fun u => c.pool + 256 * u.1 != addr }

/-! ### Grids: cancelling and discarding -/

/-- Places of the children of a place in a span of n modules (R333). -/
def childPlaces (p n : Nat) : List Nat := (List.range 16).filterMap fun i =>
  if 16 * p + 1 + i < n then some (16 * p + 1 + i) else none

/-- Pod module numbers of a grid's children (R333). -/
def Grid.children (g : Grid) : List Nat := (childPlaces g.place g.span.length).map fun p => g.span.getD p 0

/-- The parent's pod module number (R333). -/
def Grid.parent (g : Grid) : Nat := g.span.getD ((g.place - 1) / 16) 0

/-- Send messages to other modules of the pod. -/
def State.send (s : State) (ms : List PodMsg) : State := { s with pod := ms.reverse ++ s.pod }

/-- Workgroups of a dispatch unit (R329). -/
def LaunchRec.unit (l : LaunchRec) : Nat := l.cw * l.ch

/-- Units in ranges. -/
def unitsIn (rs : List URange) : Nat := rs.foldl (fun n r => n + (r.hi - r.lo)) 0

/-- Units of a grid on this module that have not started (R336). -/
def Grid.unstarted (g : Grid) : Nat :=
  unitsIn g.undealt + g.dieRanges.foldl (fun n r => n + unitsIn r.2) 0 + g.sectRanges.foldl (fun n r => n + unitsIn r.2) 0
    + (if g.place = 0 then g.poolEnd - g.pool else 0)

/-! ### Command links (R330) -/

/-- A link of a section controller, or of a die dispatcher, which stands behind the 128 sections, upward or downward (R330;
DEDUCED, safe; log entry 41). -/
def upLink (holder : Nat) : Nat := 2 * holder
def downLink (holder : Nat) : Nat := 2 * holder + 1
def dieHolder (die : Nat) : Nat := 128 + die

/-- A permit is spent on a link (R330). (DEDUCED, safe; log entry 41.) -/
def State.spend (s : State) (link : Nat) : State := { s with permits := s.permits.upd link (· + 1) }

/-- Has a link a permit left? (DEDUCED, safe; log entry 41.) -/
def State.hasPermit (s : State) (link : Nat) : Bool := decide (s.permits.get link < 8)

/-- Workgroups that a message counts for a grid: completed, and cancelled (R330, R334, R336). -/
def Grid.tally (g : Grid) (completed cancelled : Nat) : Grid :=
  { g with completed := g.completed + completed, cancelled := g.cancelled + cancelled }

/-- A section controller sends a completion count, or returns units on a cancel; without a permit it holds the message
(R330). -/
def State.report (s : State) (grid link completed cancelled : Nat) : State :=
  if s.hasPermit link && !(s.gridOf grid).messages.any fun m => m.1 == link then
    (s.spend link).onGrid grid fun g => g.tally completed cancelled
  else s.onGrid grid fun g => { g with messages := g.messages ++ [(link, completed, cancelled)] }

/-- The oldest message that waits on a link: its grid, and the message. -/
def State.waitingMessage (s : State) (link : Nat) : Option (Nat × Nat × Nat) :=
  s.grids.findSome? fun g => (g.messages.find? fun m => m.1 == link).map fun m => (g.id, m.2)

/-- A message that waits on a link goes (R330). -/
def State.sendWaiting (s : State) (link : Nat) : State :=
  match s.waitingMessage link with
  | none => s
  | some (id, m) => (s.spend link).onGrid id fun g =>
    { g.tally m.1 m.2 with messages := g.messages.eraseP fun x => x.1 == link }

/-- The lowest non-zero ERR (R392). -/
def lowErr (a b : Nat) : Nat := if a = 0 then b else if b = 0 then a else min a b

/-- The leaf entry of the page of an address, when the page is present. -/
def State.leafEntry (s : State) (ctx va : Nat) : List Nat :=
  match s.walk ctx va with
  | .leaf _ a _ => [a]
  | _ => []

/-- The pages of 16 KiB that hold `n` bytes. -/
def pageBases (va n : Nat) : List Nat :=
  (List.range (ceilDiv (va % 2 ^ 14 + n) (2 ^ 14))).map fun i => (va / 2 ^ 14 + i) * 2 ^ 14 % 2 ^ 64

/-- The leaf entries of the present pages that hold `n` bytes. -/
def State.leafEntries (s : State) (ctx va n : Nat) : List Nat := (pageBases va n).flatMap (s.leafEntry ctx)

/-- Set EPIN in leaf entries: a request that parks refers to their pages (R105; DEDUCED, unsafe; log entry 57). -/
def State.pin (s : State) (entries : List Nat) : State :=
  entries.foldl (fun s a =>
    if (s.readNat a 8).testBit 13 then s else s.writePhys a (leBytes 8 (s.readNat a 8 ||| 2 ^ 13))) s

/-- Pages that a transfer has let go and no other, of a command waiting or saved or of a cube unit, refers to lose EPIN
(R105). -/
def State.unpin (s : State) (pins : List Nat) : State :=
  let held := (s.sects.flatMap fun t => (t.2.copyQ ++ t.2.splatQ).flatMap fun c => c.pins)
    ++ (s.saved.flatMap fun v => v.members.flatMap fun m => m.cmds.flatMap fun c => c.2.pins)
    ++ s.cores.flatMap fun c => c.2.pins.map Prod.snd
  pins.foldl (fun s a =>
    if held.contains a then s
    else
      let e := BitVec.ofNat 64 (s.readNat a 8)
      if pteV e && !pteNp e && pteLeaf e then s.writePhys a (leBytes 8 (e &&& ~~~(0x2000#64)).toNat) else s) s

/-- The fill or refill of a slot is over: the cube unit's references for it go (R105). -/
def State.dropPins (s : State) (core slot : Nat) : State :=
  let gone := ((s.core core).pins.filter fun p => p.1 == slot).map Prod.snd
  (s.onCore core fun c => { c with pins := c.pins.filter fun p => p.1 != slot }).unpin gone

/-- Slots an octet operation names (R254). -/
def CubeJob.slots : CubeJob → List Nat
  | .octet m o _ _ => o.bslot.toNat :: (if m.cmode = 2 then [32 + o.copnd.toNat] else [])
  | _ => []

/-- The slot a CLDB fills. -/
def CubeJob.fills : CubeJob → Option Nat
  | .load f _ => some f.slot.toNat
  | _ => none

/-- Does a cube unit still hold an operation that fills a slot or waits for its refill? -/
def Core.fillPending (c : Core) (slot : Nat) : Bool :=
  c.cube.any fun o => o.job.fills == some slot || (o.job.slots.contains slot && (c.slots.get slot).refill)

/-- Operations have left the cube units: references for slots that none of those left fills or refills go (R105). -/
def State.settlePins (s : State) : State :=
  let gone := s.cores.flatMap fun c => (c.2.pins.filter fun p => !c.2.fillPending p.1).map Prod.snd
  { s with cores := s.cores.mapV fun c => { c with pins := c.pins.filter fun p => c.fillPending p.1 } }.unpin gone

/-- Remove engine commands, releasing the pages they pin. (DEDUCED, unsafe; log entry 31.) -/
def State.dropCmds (s : State) (p : Cmd → Bool) : State :=
  let gone := s.sects.flatMap fun t => (t.2.copyQ ++ t.2.splatQ).filter p
  let keep := fun (q : List Cmd) => q.filter fun c => !p c
  let s := { s with sects := s.sects.mapV fun t => { t with copyQ := keep t.copyQ, splatQ := keep t.splatQ } }
  s.unpin (gone.flatMap fun c => c.pins)

/-- Does a command of a discarded workgroup go on: a collective (R459), or a taken copy between global addresses?
(DEDUCED, unsafe; log entry 31.) -/
def Cmd.survives (c : Cmd) : Bool :=
  match c.job with
  | .coll .. => true
  | .cpy dir .. => c.taken && !c.paused && dir == 2
  | .publish .. => c.taken
  | .host .. => true
  | _ => false

/-- Discard resident workgroups at an instruction boundary: their stores in flight complete, their waves go (R336,
R391). -/
def State.discardWgs (s : State) (p : WG → Bool) : State :=
  let gs := s.allWgs.filter p
  let ids := gs.map WG.id
  let s := (distinct (gs.map WG.core)).foldl State.flushCore s
  let s := s.dropCmds fun c => ids.contains c.wg && !c.survives
  let s := { s with
    cores := s.cores.mapV fun c => { c with
      cube := c.cube.filter fun o => !ids.contains o.wg, pendingFills := c.pendingFills.filter fun o => !ids.contains o.wg }
    waves := s.waves.filter fun w => !ids.contains w.wg
    wgs := s.wgs.filter fun g => !ids.contains g.id
    saving := s.saving.filter fun v => !gs.any fun g => g.cluster == v.cluster }
  let s := if s.wave.id != 0 && ids.contains s.wave.wg then { s with wave := default } else s
  (if s.wg.id != 0 && ids.contains s.wg.id then { s with wg := default } else s).settlePins

/-- Entries of a die have gone: held parent records enter the store as soon as one frees, the ring's oldest return to what room
they leave, and a parent record still held takes a free entry of the ring (R337, R448; that it goes before the ring's is
DEDUCED, unsafe; log entry 87). -/
def Die.refill (d : Die) : Die :=
  let n := 4096 - d.store.length
  let store := d.store ++ d.heldJoins.take n
  let held := d.heldJoins.drop n
  let ring := d.ring.drop (4096 - store.length)
  { d with
    store := store ++ d.ring.take (4096 - store.length)
    ring := ring ++ held.take (65536 - ring.length)
    heldJoins := held.drop (65536 - ring.length) }

/-- Discard what a grid has pending in the launch stores and batches; what others have there moves up (R336, R337). -/
def State.discardPending (s : State) (p : Nat → Bool) : State :=
  { s with dies := s.dies.mapV fun d => ({ d with
      store := d.store.filter fun e => !p e.grid
      ring := d.ring.filter fun e => !p e.grid
      heldJoins := d.heldJoins.filter fun e => !p e.grid
      parents := d.parents.filter fun e => !p e.grid
      batches := d.batches.filter fun e => !p e.grid } : Die).refill }

/-- Discard saved workgroups, freeing their images (R352, R429). -/
def State.discardSaved (s : State) (p : WG → Bool) : State :=
  let gone := s.saved.filter fun v => v.members.any fun m => p m.wg
  let s := { s with saved := s.saved.filter fun v => !v.members.any fun m => p m.wg }
  gone.foldl (fun s v => v.members.foldl (fun s m =>
    (s.onCtx v.ctx fun c => c.free m.image).unpin (m.cmds.flatMap fun c => c.2.pins)) s) s

/-- What the holders below the dispatcher report of a grid that is cancelled, each in one message: link, workgroups completed,
workgroups cancelled. A holder returns its undealt units; under KILL a section controller counts its workgroups too: one whose
lanes have all exited is completed, any other cancelled (R330, R336). -/
def State.returns (s : State) (g : Grid) (kill : Bool) : List (Nat × Nat × Nat) :=
  let own := fun (n : Nat) => if kill then s.allWgs.filter fun w => w.grid == g.id && !w.descendant && sectOf w.core == n else []
  let sect := (List.range 128).map fun n =>
    (upLink n, ((own n).filter fun w => w.live == []).length,
      unitsIn (g.sectRanges.get n) * g.launch.unit + ((own n).filter fun w => w.live != []).length)
  let die := (List.range 8).map fun d => (upLink (dieHolder d), 0, unitsIn (g.dieRanges.get d) * g.launch.unit)
  (sect ++ die).filter fun m => m.2 != (0, 0)

/-- Cancel a grid on this module (R336): dealing stops, and units not started count as cancelled, those that a holder below
has once its message has come (R330). Under KILL its workgroups, resident and saved, are discarded. -/
def State.cancelHere (s : State) (id : Nat) (kill : Bool) (err : Nat) : State :=
  let g := s.gridOf id
  if g.id = 0 ∨ g.done = true then s
  else
    let back := s.returns g kill
    let n := (unitsIn g.undealt + (if g.place = 0 then g.poolEnd - g.pool else 0)) * g.launch.unit
    let mine := fun (w : WG) => w.grid == id
    let dead := if kill then
        s.saved.foldl (fun n v => n + (v.members.filter fun m => mine m.wg && !m.wg.descendant).length) 0
      else 0
    let s := s.onGrid id fun g => { g with
      dealing := false, undealt := [], dieRanges := [], sectRanges := [], dieAsks := [], sectAsks := []
      poolEnd := g.pool, begun := true, killing := false
      cancelled := g.cancelled + n + dead, mode := max g.mode (if kill then 2 else 1), err := lowErr g.err err }
    let s := back.foldl (fun s m => s.report id m.1 m.2.1 m.2.2) s
    if kill then ((s.discardWgs mine).discardSaved mine).discardPending fun i => i == id else s

/-- Cancel a grid across its span: the root sends CANCEL down the tree, another module asks the root (R336, R390). -/
def State.cancelGrid (s : State) (id : Nat) (kill : Bool) (err : Nat) : State :=
  let g := s.gridOf id
  let ms := if !g.pod then []
    else if g.place = 0 then g.children.map fun m => PodMsg.cancel m g.root g.gen kill
    else [PodMsg.cancel g.root g.root g.gen kill]
  (if g.id = 0 ∨ g.done = true then s else s.send ms).cancelHere id kill err

/-! ### The fault queue (R388, R389) -/

/-- Write a record in its entry and advance WRIDX; none when the queue is full or not mapped. -/
def State.faultWrite (s : State) (ctx : Nat) (h : HeldRec) : Option State :=
  let c := s.ctx ctx
  match s.ctxPa ctx c.faultq with
  | none => none
  | some cb =>
    let w := s.readNat cb 4
    let cap := 2 ^ c.faultLog - 1
    if (w + 2 ^ 32 - s.readNat (cb + 4) 4) % 2 ^ 32 = cap then none
    else match s.ctxPa ctx (c.faultq + 64 * (1 + w % cap)) with
      | none => none
      | some e =>
        let s := (s.ctxTouch ctx c.faultq true).ctxTouch ctx (c.faultq + 64 * (1 + w % cap)) true
        let s := s.ctxPut ctx (c.faultq + 64 * (1 + w % cap)) e (h.body ++ trailer w h.dev h.rtype)
        let s := s.ctxPut ctx c.faultq cb (leBytes 4 (w + 1))
        some (if (s.ctx ctx).armed then (s.raise c.msix).onCtx ctx fun c => { c with armed := false } else s)

/-- The write index that a record pushed now will have. -/
def State.nextRecord (s : State) (ctx : Nat) : Nat :=
  ((match s.ctxPa ctx (s.ctx ctx).faultq with
    | some cb => s.readNat cb 4
    | none => 0) + (s.ctx ctx).held.length) % 2 ^ 32

/-- Virtual address of the entry of a record (R388, Table 25.4). -/
def recordVa (c : Ctx) (w : Nat) : Nat := c.faultq + 64 * (1 + w % (2 ^ c.faultLog - 1))

/-- Parts of a section that found every wait-table entry in use walk again, since one has been freed (R430). -/
def State.unstarve (s : State) (sect : Nat) : State :=
  s.mapWaves fun w =>
    if sectOf (s.wgOf w.wg).core = sect then { w with parts := w.parts.map fun p => { p with starved := false } } else w

/-- What waited for a record goes on (R389): the trap's course at the end of the cycle (R390), the wait-table entry, the
completion word that follows the record (R395). -/
def State.recordWritten (s : State) (ctx : Nat) (h : HeldRec) : State :=
  let s := s.mapWave h.wave fun w => { w with stop := w.stop.map fun t => { t with held := false } }
  let s := match h.entry with
    | some (sect, e) =>
      (s.onSect sect fun t => { t with waits := t.waits.upd e fun x => { x with held := false } }).unstarve sect
    | none => s
  let s := match h.course with
    | some g => s.onGrid g fun g => { g with killing := true }
    | none => s
  match h.word with
  | some (addr, x) => s.ctxWrite ctx addr (leBytes 8 x)
  | none => s

/-- The grids that a trap's course has reached in this cycle are cancelled in KILL mode, across their spans (R390). -/
def State.takeCourses (s : State) : State :=
  ((s.grids.filter Grid.killing).map Grid.id).foldl (fun s id => s.cancelGrid id true 0) s

/-- A record goes to a context's fault queue, or is held when there is no room (R389). -/
def State.pushRecord (s : State) (ctx : Nat) (h : HeldRec) : State :=
  match (if (s.ctx ctx).held = [] then s.faultWrite ctx h else none) with
  | some s => s.recordWritten ctx h
  | none =>
    let s := match s.ctxPa ctx (s.ctx ctx).faultq with
      | some cb =>
        let va := (s.ctx ctx).faultq
        (s.ctxTouch ctx va true).ctxPut ctx va (cb + 12) (leBytes 4 (s.readNat (cb + 12) 4 + 1))
      | none => s
    let s := s.onCtx ctx fun c => { c with held := c.held ++ [h] }
    let s := s.mapWave h.wave fun w => { w with stop := w.stop.map fun t => { t with held := true } }
    match h.entry with
    | some (sect, e) => s.onSect sect fun t => { t with waits := t.waits.upd e fun x => { x with held := true } }
    | none => s

/-- Held records are written while there is room, the oldest first (R389). -/
def State.drainHeld (s : State) (ctx : Nat) : Nat → State
  | 0 => s
  | n + 1 =>
    match (s.ctx ctx).held with
    | [] => s
    | h :: _ =>
      match s.faultWrite ctx h with
      | none => s
      | some s' => State.drainHeld ((s'.onCtx ctx fun c => { c with held := c.held.drop 1 }).recordWritten ctx h) ctx n

/-! ### Part dumps and trap records (R61, R390) -/

/-- Codes of Table 3.2. -/
def Fws.code : Fws → Nat
  | .run => 0
  | .fuse => 1
  | .forced => 2
  | .parked => 3

def Reason.code : Reason → Nat
  | .whole => 0
  | .brT => 1
  | .brN => 2
  | .brM => 3
  | .miss => 4
  | .fault => 5
  | .merged => 6
  | .defer => 7

/-- Word 0 of a part's descriptor, which `SR_PART` reads (R61). -/
def Part.word (p : Part) : Nat := p.members.toNat * 2 ^ 16 + blockBase p.members * 2 ^ 8 + blockLog p.members

/-- The lane masks of a part's members; zero for non-members (Table 3.6). -/
def Part.lanes (p : Part) : BitVec 64 := p.masks &&& spread p.members

/-- A part descriptor (Table 3.6). -/
def descriptor (w : Wave) (p : Part) : Nat :=
  let c := fun k => w.count p.members k
  let t := min p.clock 0xFFFFFF
  p.word + p.pc.toNat * 2 ^ 32 + p.cls * 2 ^ 70 + p.waitId % 256 * 2 ^ 74 + p.entry * 2 ^ 85 + p.reason.code * 2 ^ 90
    + p.fws.code * 2 ^ 93 + t % 2 ^ 16 * 2 ^ 96 + p.age % 2 ^ 16 * 2 ^ 112 + p.lanes.toNat * 2 ^ 128
    + c .rtc * 2 ^ 192 + c .cbc * 2 ^ 198 + c .cpc * 2 ^ 204 + c .stc * 2 ^ 210 + c .ldc * 2 ^ 216
    + t / 2 ^ 16 * 2 ^ 222 + p.pennant.toNat * 2 ^ 230
    + (if p.fws = .parked then p.token.toNat * 2 ^ 240 else 0)

/-- The part dump of a wave, 1,536 bytes (R61). -/
def partDump (w : Wave) : List Byte :=
  ((List.range 16).flatMap fun i =>
    match w.parts[i]? with
    | some p => leBytes 32 (descriptor w p)
    | none => leBytes 32 0)
  ++ (List.range 16).flatMap fun q => (List.range 8).flatMap fun i =>
    match (w.quads.get q).stack[i]? with
    | some d => leBytes 8 d.toNat
    | none => leBytes 8 0

/-- The layout of `SR_CORE` (Table 4.4). -/
def coreWord (core : Nat) : Nat := core % 256 / 16 * 2 ^ 8 + core % 16 + dieOf core * 2 ^ 16 + sectOf core % 16 * 2 ^ 20

/-- CORE of a trap record (Table 24.4). -/
def waveWord (core : Nat) (w : Wave) : Nat := coreWord core + w.partition * 2 ^ 24 + w.num * 2 ^ 26

/-- The linear workgroup index (R24); 0 for a continuation or gather-node wave, whose indices read 0 (R338). -/
def WG.index (g : WG) : Nat := g.x + g.launch.nwgx * (g.y + g.launch.nwgy * g.z)

/-- What a trap or a debug stop says (Table 24.4). -/
structure TrapInfo where
  code : Nat
  flags : Nat
  part : Nat
  pc : Nat
  word0 : Nat
  word1 : Nat
  core : Nat
  va : Nat
  extra : Nat
  wgindex : Nat
  deriving DecidableEq, Repr, Inhabited

/-- Bytes 0 to 59 of a trap record (Table 24.4). -/
def trapBytes (t : TrapInfo) (dump asid tag : Nat) : List Byte :=
  leBytes 2 t.code ++ leBytes 1 t.flags ++ leBytes 1 0 ++ leBytes 4 t.part ++ leBytes 4 t.pc ++ leBytes 4 t.word0
    ++ leBytes 4 t.word1 ++ leBytes 4 t.core ++ leBytes 8 t.va ++ leBytes 8 t.extra ++ leBytes 8 dump
    ++ leBytes 6 t.wgindex ++ leBytes 2 asid ++ leBytes 4 tag

/-- Class of a trap code among the counts of Table 24.11. -/
def trapClass (code : Nat) : Nat :=
  if code < 0x10 then 0 else if code < 0x20 then 1 else if code < 0x30 then 2 else if code < 0x40 then 3
  else if code < 0x80 then 4 else 5

/-- A grid notes its first record and counts it per class (R395). -/
def Grid.note (g : Grid) (cls : Nat) (rec : List Byte) : Grid :=
  { g with
    first := some (g.first.getD rec)
    counts := (List.range 7).map fun i => min (g.counts.getD i 0 + (if i = cls then 1 else 0)) (2 ^ 32 - 1) }

/-- Take a part dump into the save pool for the record pushed next; 0 when there is no room (R390, R352). -/
def State.takeDump (s : State) (ctx : Nat) (dump : List Byte) : Nat × State :=
  match (s.ctx ctx).alloc 1536 (s.nextRecord ctx + 1) with
  | some (a, c) => (a, (s.onCtx ctx fun _ => c).writePhys a dump)
  | none => (0, s)

/-- The bytes of a trap record with MULTI set (Table 24.4). -/
def multiBytes (b : List Byte) : List Byte := b.take 2 ++ [b.getD 2 0 ||| 4] ++ b.drop 3

/-- Set MULTI in the record of a write index, in the queue or held (R390). -/
def State.setMulti (s : State) (ctx grid w : Nat) : State :=
  match s.ctxPa ctx (s.ctx ctx).faultq with
  | none => s
  | some cb =>
    let n := (w + 2 ^ 32 - s.readNat cb 4) % 2 ^ 32
    let first := fun (s : State) (b : List Byte) => s.onGrid grid fun g =>
      { g with first := g.first.map fun r => if r.take 60 = b.take 60 then multiBytes r else r }
    match (s.ctx ctx).held[n]? with
    | some h => (first s h.body).onCtx ctx fun c => { c with held := c.held.set n { h with body := multiBytes h.body } }
    | none => match s.ctxPa ctx (recordVa (s.ctx ctx) w) with
      | some e => let b := s.readPhys e 64; (first s b).ctxPut ctx (recordVa (s.ctx ctx) w) e (multiBytes b)
      | none => s

/-- Write the record of a trap or a debug stop of a wave: its dump, the record, and the stop (R390, R413); a trap after
one of another part of the wave in the same cycle sets MULTI in both records. The grid takes note of the ERR that a trap gives (R392);
`stays` leaves the wave to the debugger, otherwise the grid is cancelled once the record is written. -/
def State.stopWave (s : State) (wave : Nat) (t : TrapInfo) (stays : Bool) (err : Nat) : State :=
  let w := s.waveOf wave
  let g := s.wgOf w.wg
  let grid := s.gridOf g.grid
  let trap := t.flags % 2 == 0
  let now := w.stop.bind fun x => if x.cycle = s.cycle ∧ s.cycle ≠ 0 then some x else none
  let other := fun (x : Stop) => x.part != t.part
  let s := match now with
    | some x => if trap && other x then s.setMulti g.ctx g.grid x.record else s
    | none => s
  let twice := (now.map fun x => x.trap && other x).getD false
  let r := s.takeDump g.ctx (partDump w)
  let s := r.2
  let t := { t with flags := t.flags + (if twice then 4 else 0) + (if r.1 = 0 then 8 else 0) }
  let index := s.nextRecord g.ctx
  let va := if r.1 = 0 then recordVa (s.ctx g.ctx) index else r.1
  let body := trapBytes t r.1 (s.ctx g.ctx).asid grid.tag
  let s := s.mapWave wave fun w => { w with
    stop := some ⟨va, stays, false, w.stop.bind Stop.stepping, s.cycle, index, t.part,
      trap || (now.map Stop.trap).getD false, (now.map Stop.dumps).getD [] ++ if r.1 = 0 then [] else [r.1]⟩ }
  let s := if !trap then s
    else s.onGrid grid.id fun g => { g.note (trapClass t.code) (body ++ trailer 0 grid.dev 2) with err := lowErr g.err err }
  s.pushRecord g.ctx ⟨body, grid.dev, if trap then 2 else 3, wave, none, if stays then none else some g.grid, none⟩

/-- The dumps taken in a cycle show their waves as the cycle leaves them (R61, R62). -/
def State.settleDumps (s : State) : State :=
  s.allWaves.foldl (fun s w =>
    match w.stop with
    | some x => if x.cycle = s.cycle then x.dumps.foldl (fun s a => s.writePhys a (partDump w)) s else s
    | none => s) s

/-- A trap record of no resident wave (R435: BADCONT, PARENTFAULT; R429), with its course. -/
def State.stopless (s : State) (ctx grid : Nat) (t : TrapInfo) (dump err : Nat) : State :=
  let g := s.gridOf grid
  let body := trapBytes t dump (s.ctx ctx).asid g.tag
  let s := s.onGrid grid fun g => { g.note (trapClass t.code) (body ++ trailer 0 g.dev 2) with err := lowErr g.err err }
  s.pushRecord ctx ⟨body, g.dev, 2, 0, none, some grid, none⟩

/-! ### The fault wait table (R109 to R111) -/

/-- The entry that a request for a page joins (R109). -/
def waitFind (t : Sect) (asid va : Nat) : Option Nat :=
  (t.waits.find? fun e => e.2.used && e.2.asid == asid && va / pageSize e.2.level == e.2.page / pageSize e.2.level).map
    Prod.fst

/-- The token of an entry (R109). -/
def tokenOf (sect e : Nat) (w : WaitEntry) : Nat := (if w.gen then 2 ^ 15 else 0) + sect * 2 ^ 8 + e

/-- The page-fault record (Table 6.4). -/
def pageFaultBytes (page asid token kind level : Nat) (pte : DWord) (clock : Nat) : List Byte :=
  leBytes 8 page ++ leBytes 2 asid ++ leBytes 2 0 ++ leBytes 2 token ++ leBytes 1 kind ++ leBytes 1 (level * 4)
    ++ leBytes 8 pte.toNat ++ leBytes 8 clock ++ leBytes 28 0

/-- A request waits under an entry for its page: it joins the open one, or takes a free one and writes a page-fault
record (R109, R111). The spec says no more than that the entry is free: the model takes the lowest-numbered (DESIGN CHOICE,
unsafe; log entry 24). None when every entry is in use, or has a replay that waits for its record (R389, R430). KIND: 1 read, 2 write, 4 execute, 8 engine. (DEDUCED,
safe; log entry 24.) -/
def State.waitFor (s : State) (sect ctx va level kind : Nat) (pte : DWord) (grid : Nat) : Option (Nat × Nat) × State :=
  let asid := (s.ctx ctx).asid
  match waitFind (s.sect sect) asid va with
  | some e => (some (e, tokenOf sect e ((s.sect sect).waits.get e)), s)
  | none =>
    match (List.range 256).find? fun e => (let w := (s.sect sect).waits.get e; !w.used && !w.held && w.answer.isNone) with
    | none => (none, s)
    | some e =>
      let old := (s.sect sect).waits.get e
      let page := va / pageSize level * pageSize level
      let w : WaitEntry := ⟨true, if old.fresh then !old.gen else old.gen, asid, page, level, false, true, false, none⟩
      let token := tokenOf sect e w
      let s := s.onSect sect fun t => { t with waits := t.waits.set e w }
      let s := s.onCtx ctx fun c => { c with quiet := 0 }
      (some (e, token), s.pushRecord ctx
        ⟨pageFaultBytes page asid token kind level pte s.clock, (s.gridOf grid).dev, 1, 0, some (sect, e), none, none⟩)

/-- Free an entry, for which others may have waited (R112, R427, R430). -/
def State.freeWait (s : State) (sect e : Nat) : State :=
  (s.onSect sect fun t => { t with waits := t.waits.upd e fun w => { w with used := false } }).unstarve sect

/-! ### Queues, shadow regions, killing a context -/

/-- Halt a queue with a code: QSTATUS, and its vector once (R393). -/
def State.haltQueue (s : State) (q code : Nat) : State :=
  let v := s.queues.get q
  let s := { s with queues := s.queues.upd q fun v => { v with halt := code } }
  (s.ctxWrite v.ctx (v.user + 24) (leBytes 8 (1 + code * 2 ^ 8))).raise v.msix

/-- Close a region: SHD clears on its pages and the frames given go back to the pool (R247, R391). (DEDUCED, unsafe;
log entry 33.) -/
def State.closeRegion (s : State) (ctx : Nat) (r : Region) (frames : List Nat) : State :=
  let s := (List.range r.pages).foldl (fun s i => s.markLeaf ctx (r.base + i * 2 ^ 14) 0x800 false) s
  s.onCtx ctx fun c => { c with
    regions := c.regions.filter fun x => x.index != r.index
    frames := c.frames ++ frames }

/-- Kill a context on the module (R391): ERR 3 for its grids, or 7 when a save failed (R392). (DEDUCED, unsafe; log
entry 33.) -/
def State.killCtx (s : State) (ctx err : Nat) (m : McInfo) : State :=
  let c := s.ctx ctx
  let s := s.mcheck { m with asid := c.asid, ctx := ctx }
  let s := s.pushRecord ctx
    ⟨mcBytes { m with asid := c.asid, ctx := ctx } 1 s.clock, m.dev, 4, 0, none, none, none⟩
  let gs := (s.grids.filter fun g => g.ctx == ctx && !g.done).map Grid.id
  let rec' := mcBytes { m with asid := c.asid, ctx := ctx } 1 s.clock ++ trailer 0 m.dev 4
  let s := gs.foldl (fun s id => (s.onGrid id fun g => g.note 6 rec').cancelGrid id true err) s
  let s := s.discardWgs fun g => g.ctx == ctx
  let s := s.discardSaved fun g => g.ctx == ctx
  let s := s.dropCmds fun d => d.ctx == ctx
  let qs := (s.queues.filter fun q => q.2.installed && q.2.ctx == ctx).map Prod.fst
  let s := qs.foldl (fun s q => s.haltQueue q 6) s
  let s := { s with queues := s.queues.mapV fun q =>
    if q.ctx = ctx then { q with taken := q.taken.filter Prod.fst, umx := none, parked := none } else q }
  let s := { s with sects := s.sects.mapV fun t => { t with waits := t.waits.mapV fun e =>
      if e.used && e.asid == c.asid then { e with used := false, retired := true } else e } }
  let s := s.mapWaves fun w => { w with parts := w.parts.map fun p => { p with starved := false } }
  let s := (s.ctx ctx).regions.foldl (fun s r => s.closeRegion ctx r (r.frames.map Prod.snd)) s
  let s := s.onCtx ctx fun c => { c with killed := true, yieldReq := false }
  { s with fw := { s.fw with killedAsids := c.asid :: s.fw.killedAsids.filter fun a => a != c.asid } }

/-- A page walk that reads poison, for a grid's work, consumes it, with event code 5, and kills the context of its ASID (R391,
R424, Table 24.3, Table 26.4). -/
def State.walkPoison (s : State) (ctx addr grid : Nat) : State :=
  (s.consumed addr 5 ctx grid).killCtx ctx 3 ⟨3, 5, s.sliceLoc addr, addr / 32 * 32, 5 * 2 ^ 56, 0, 0, (s.gridOf grid).dev⟩

end Sys2Proof.Machine
end

