-- ==== Sys2Proof/Machine/Ops.lean ====
section
/-!
DEFINITION. Machine/Ops.lean: taking a trap and returning from one, running an instruction under its checks, forced
widths, adding operations, parking on a page fault, releases and acquires.
-/

namespace Sys2Proof.Machine

/-! ### Taking a trap (R62, R142, R390, R399 to R401) -/

/-- A trap an instruction meets: its code, EXTRA and VA (Table 25.1, Table 26.1, Table 27.1). -/
structure Trap where
  code : Nat
  extra : Nat
  va : Nat
  deriving DecidableEq, Repr, Inhabited

/-- The trap of the lowest code, the first among equals (R399, R418). (DEDUCED, unsafe; log entry 19.) -/
def lowestTrap : List Trap → Option Trap
  | [] => none
  | t :: ts =>
    match lowestTrap ts with
    | none => some t
    | some u => if t.code ≤ u.code then some t else some u

/-- The record fields of the part and instruction in issue (Table 24.4). -/
def State.trapInfo (s : State) (code flags extra va : Nat) : TrapInfo :=
  { code := code, flags := flags, part := s.part.word, pc := s.iss.pc.toNat, word0 := s.iss.word0.toNat
    word1 := s.iss.word1.toNat, core := waveWord s.wg.core s.wave, va := va, extra := extra
    wgindex := if s.wg.descendant then 0 else s.wg.index }

/-- The context of the wave in focus has its debug enable set (R194, R390). -/
def State.debugOn (s : State) : Bool := (s.ctx s.wg.ctx).debug

/-- FLAGS of a stop: STEP during a single step (R414, R416). -/
def State.stepFlag (s : State) : Nat :=
  match s.wave.stop with
  | some t => if t.stepping.isSome then 2 else 0
  | none => 0

/-- The instruction in issue stays with a part for the lanes given, and is issued for them alone once the part resumes or
is replayed (R57, R142, R414). The part then goes on where the chain leaves it: at the index after the chain, or where a
branch of the chain has redirected it (DEDUCED, unsafe; log entry 36). -/
def State.keep (s : State) (lanes act : BitVec 64) (p : Part) : Part :=
  { p with
    pc := s.iss.pc, after := none
    redo := some ⟨lanes, if s.iss.moved then p.pc else s.iss.next, (s.iss.redo.map Redo.more).getD [], act⟩ }

/-- The instruction in issue joins, for the lanes given, those that a part, which keeps one already, issues after it (R142,
R401). -/
def State.queueRedo (s : State) (lanes act : BitVec 64) (p : Part) : Part :=
  { p with redo := p.redo.map fun r => { r with more := r.more ++ [⟨s.iss.pc, lanes &&& spread p.members, act⟩] } }

/-- Has the chain in issue parked a part on a page fault (R57)? -/
def State.parkedNow (s : State) (p : Part) : Bool := s.iss.parked && (p.fws == .parked || p.starved)

/-- The issuing part, and each part that the chain has split from it, keeps an instruction that traps (R142, R401); a part
that a TRAP stops, or a BRK, goes on after its chain (R414). -/
def State.keepTrapped (s : State) (code : Nat) : State :=
  if code < 0x80 then
    s.onIssued fun p =>
      if s.parkedNow p then s.queueRedo s.iss.lanes 0 p else s.keep (s.iss.lanes &&& spread p.members) 0 p
  else s.onPart fun p =>
    if s.parkedNow p || s.iss.trapped then p else { p with pc := s.iss.pc, after := some s.iss.next }

/-- Take a trap: the part stops at the instruction, which it would reissue alone (codes below 0x80) or continue after
(TRAP); the record and the dump are written, and the wave stays for the debugger or its grid is cancelled (R390, R414).
A second trap of one chain is not reported; it is found again when the part resumes (R401). -/
def State.takeTrap (s : State) (t : Trap) : State :=
  let s := { s with iss := { s.iss with traps := s.iss.traps + 1 } }
  if s.iss.trapped then s.onIssued (s.queueRedo s.iss.lanes 0)
  else
    let s := s.keepTrapped t.code
    let s := { s with iss := { s.iss with trapped := true } }
    s.stopWave s.wave.id (s.trapInfo t.code s.stepFlag t.extra t.va) s.debugOn (if t.code = 0x26 then 2 else 1)

/-- Make a debug stop (R62, R194, R413): the wave stays, and the part goes on after its chain. -/
def State.debugStop (s : State) (tag : Nat) : State :=
  let s := s.keepTrapped 0x80
  s.stopWave s.wave.id (s.trapInfo tag (1 + s.stepFlag) 0 0) true 0

/-- A part of a stopped wave goes on: after its TRAP or BRK, or with the instruction it reissues alone (R414). -/
def Part.resume (p : Part) : Part :=
  match p.after with
  | some n => if p.fws = .run then { p with pc := n, after := none, delay := 2 } else { p with delay := 2 }
  | none => { p with delay := 2 }

/-- Return from a trap: every stopped part of the wave becomes ready in the second cycle after (R414, RESUME). -/
def State.resumeWave (s : State) (wave : Nat) : State :=
  s.mapWave wave fun w => { w with stop := none, parts := w.parts.map Part.resume }

/-- Run an instruction: if its checks find traps, take the one of the lowest code and do nothing else; else act
(R399). (DEDUCED, unsafe; log entry 19.) -/
def State.run (s : State) (traps : List Trap) (act : State → State) : State :=
  match lowestTrap traps with
  | some t => s.takeTrap t
  | none => act s

/-! ### Checks of fields (Table 25.1, R402, R403, R410) -/

/-- BADREG: the field's value and its lowest bit position. -/
def badReg (r : Reg) (pos : Nat) : Trap := ⟨0x04, r.toNat + pos * 2 ^ 8, 0⟩

/-- BADVAL: the field's first bit position and the value. -/
def badVal (pos value : Nat) : Trap := ⟨0x03, pos + value * 2 ^ 16, 0⟩

/-- A trap when a condition fails. -/
def require (ok : Bool) (t : Trap) : List Trap := if ok then [] else [t]

/-- An even pair base (R67). -/
def needPair (r : Reg) (pos : Nat) : List Trap := require (r.toNat % 2 == 0) (badReg r pos)

/-- A quadruple base (R67). -/
def needQuad (r : Reg) (pos : Nat) : List Trap := require (r.toNat % 4 == 0) (badReg r pos)

/-- A k register (Table 25.3). -/
def needK (r : Reg) (pos : Nat) : List Trap := require (decide (96 ≤ r.toNat)) (badReg r pos)

/-- A v register (Table 25.3). -/
def needV (r : Reg) (pos : Nat) : List Trap := require (decide (r.toNat < 96)) (badReg r pos)

/-- A run of `n` registers that passes neither v95 nor k31 (Table 25.3). (DEDUCED, unsafe; log entry 60.) -/
def needRun (r : Reg) (n pos : Nat) : List Trap :=
  require (if r.toNat < 96 then decide (r.toNat + n ≤ 96) else decide (r.toNat + n ≤ 128)) (badReg r pos)

/-- A value of a field below a limit (R403). -/
def needBelow (v limit pos : Nat) : List Trap := require (decide (v < limit)) (badVal pos v)

/-- The width code of a wave (R147). -/
def Wave.widthCode (w : Wave) : Nat := Nat.log2 (w.width / 4)

/-- A width code that the wave can give (R410, BADMINW). -/
def State.needWidth (s : State) (code : Nat) : List Trap :=
  require (decide (code < 5) && decide (widthOf code ≤ s.wave.width)) ⟨0x12, code + s.wave.widthCode * 2 ^ 4, 0⟩

/-- Run an instruction with a minimum width: its checks, then its forced fuse (R58), then its act. Until the blocks are
whole the part waits and nothing issues. -/
def State.runWide (s : State) (code : Nat) (traps : List Trap) (act : State → State) : State :=
  s.run (traps ++ s.needWidth code) fun s =>
    match s.gather code with
    | (true, s) => act s
    | (false, s) => s

/-- Run an instruction that acts once for the wave after a fuse to the wave's width (R188, R189). -/
def State.runWhole (s : State) (traps : List Trap) (act : State → State) : State :=
  s.runWide s.wave.widthCode traps act

/-! ### The Pennant copy (R45, R396, R399) -/

/-- Set Pennant bits in the issuing part's copy, and in those of the parts that its chain has split from it (R45); a
chain that issues serially remembers the flags it has set (R416). -/
def State.pennant (s : State) (mask : BitVec 10) : State :=
  let s := { s with iss := { s.iss with flags := s.iss.flags ||| mask } }
  s.onIssued fun p => { p with pennant := p.pennant ||| mask, serial := p.serial.map fun x => (x.1, x.2 ||| mask) }

/-- Set MODFB when a combination took its fallback (R409). -/
def State.modfb (s : State) (b : Bool) : State := if b then s.pennant 1 else s

/-- Has the instruction in issue executed: has it met no trap since the state it ran in, `before`, and does it not wait
(R399)? -/
def State.executed (s before : State) : Bool := s.iss.traps == before.iss.traps && !s.iss.held

/-- Set MODFB in the copy of the issuing part if the instruction has executed (R399, R409); `before` is the state it ran
in. -/
def State.modfb' (s : State) (b : Bool) (before : State) : State :=
  if b && s.executed before then s.pennant 1 else s

/-! ### Operations of the issuing part (R43, R68) -/

/-- Is it the operation that a parked instruction of a class left: counted still, or taken from its counter by a save with the
faults of its lanes (R236, R347, R418)? -/
def Op.parkedAs (x : Op) (cls : OpClass) : Bool :=
  x.kind == .none && !x.done && (x.cls == cls || (x.cls == .uncounted && x.faults != []))

/-- Take the place of the operation that a parked instruction kept counted, of the quads given (R236). -/
def placeOp (o : Op) (m : BitVec 16) : List Op → Option (List Op)
  | [] => none
  | x :: xs =>
    if x.parkedAs o.cls && (x.quads &&& m) != 0 then
      let rest := x.quads &&& ~~~m
      some ({ o with group := x.group, faults := x.faults ++ o.faults }
        :: (if rest = 0 then xs else { x with quads := rest, lanes := x.lanes &&& spread rest } :: xs))
    else (placeOp o m xs).map fun l => x :: l

/-- The operation issued, with a name of its own. -/
def State.newOp (s : State) (cls : OpClass) (regs lanes : List Nat) (kind : OpKind) (f : Op → Op) : Op :=
  f { (default : Op) with
    id := s.names + 1, group := s.names + 1, cls := cls, quads := s.iss.members, lanes := maskOf lanes, regs := regs
    kind := kind, born := s.cycle }

/-- Issue an operation of the quads with which the chain issued (R43): a reissue takes the place of the one counted when it
parked (R236). -/
def State.issueOp (s : State) (cls : OpClass) (regs lanes : List Nat) (kind : OpKind) (f : Op → Op := id) :
    Nat × State :=
  let o := s.newOp cls regs lanes kind f
  let ops := (placeOp o s.iss.members s.wave.ops).getD (s.wave.ops ++ [o])
  (s.names + 1, { s with names := s.names + 1, wave := { s.wave with ops := ops } })

/-- Insert an operation after the one given, as part of the same instruction (R68, R236). -/
def besideOp (o : Op) (of : Nat) : List Op → List Op
  | [] => []
  | x :: xs => if x.id = of then x :: { o with group := x.group } :: xs else x :: besideOp o of xs

/-- Issue a further operation of the instruction that an operation belongs to: it counts with that one, and leaves its
count in that one's place in the order of issue (R68, R236). -/
def State.issueBeside (s : State) (of : Nat) (cls : OpClass) (regs lanes : List Nat) (kind : OpKind) (f : Op → Op := id) :
    Nat × State :=
  (s.names + 1, { s with
    names := s.names + 1, wave := { s.wave with ops := besideOp (s.newOp cls regs lanes kind f) of s.wave.ops } })

/-- A write to a register of a lane, which a k destination takes from its quad's lowest active lane (R64). -/
def regWrite (lane r : Nat) (x : Word) (bad : Bool) : RegWrite :=
  if r < 96 then ⟨false, lane, r, x, bad⟩ else ⟨true, lane / 4, r - 96, x, bad⟩

/-- The result writes of a list of lanes and values: the highest lane first (R64). -/
def regWrites (xs : List (Nat × Nat × Word × Bool)) : List RegWrite :=
  (xs.map fun x => regWrite x.1 x.2.1 x.2.2.1 x.2.2.2).reverse

/-- The lowest lane of a quad in a mask of lanes. -/
def lowLane (m : BitVec 64) (q : Nat) : Option Nat := ((List.range 4).map (4 * q + ·)).find? fun l => m.getLsbD l

/-- The register writes that an instruction makes for some of the lanes `act` for which it acts: a k register takes the
result of its quad's lowest active lane, when that lane completes (R57, R64). -/
def ownWrites (act done : BitVec 64) (ws : List RegWrite) : List RegWrite :=
  ws.filter fun w => !w.isK || lowLane act w.index == lowLane done w.index

/-- Apply the register writes of a completed operation to its wave. -/
def Wave.writeRegs (w : Wave) (ws : List RegWrite) : Wave := { w with rf := ws.foldl RegFile.writeOne w.rf }

/-! ### Parking on a page fault (R57, R109, R110) -/

/-- Insert by page, ascending, one for each page. -/
def insertPage (a : Absent) : List Absent → List Absent
  | [] => [a]
  | b :: bs =>
    let p := a.va / pageSize a.level * pageSize a.level
    let q := b.va / pageSize b.level * pageSize b.level
    if p < q then a :: b :: bs else if p = q then b :: bs else b :: insertPage a bs

/-- One request for each page, the lowest first. (DEDUCED, unsafe; log entry 40.) -/
def pagesOf (as : List Absent) : List Absent := as.foldr insertPage []

/-- The wait-table entries of some pages: the one of the lowest page, and whether every page found one (R110, R430).
(DEDUCED, unsafe; log entry 40.) -/
def State.waitAll (s : State) (sect ctx kind grid : Nat) : List Absent → Option (Nat × Nat) × Bool × State
  | [] => (none, true, s)
  | a :: as =>
    let r := s.waitFor sect ctx a.va a.level kind a.pte grid
    let t := State.waitAll r.2 sect ctx kind grid as
    (r.1, r.1.isSome && t.2.1, t.2.2)

/-- A part waits under a wait-table entry, PARKED; with every entry in use it is not parked, and stays unready until one is
freed (R57, R430). -/
def Part.waitUnder (p : Part) (e : Option (Nat × Nat)) : Part :=
  match e with
  | some x => { p with fws := .parked, reason := .fault, waitId := x.1, token := BitVec.ofNat 16 x.2 }
  | none => { p with fws := .run, reason := .fault, waitId := 0, token := 0, starved := true }

/-- The quads given leave a part that holds some of them as a part that keeps the instruction in issue for the lanes given,
and waits (R57); a part that another instruction of the chain has parked issues it after that one. -/
def State.parkQuads (s : State) (qs : BitVec 16) (lanes act : BitVec 64) (e : Option (Nat × Nat)) (p : Part) : State :=
  let mine := p.members &&& qs
  if mine = 0 then s
  else if s.parkedNow p then s.onWave fun w => w.updPart p.entry (s.queueRedo lanes act)
  else
    let gone : Part := { p with members := mine, masks := p.masks &&& spread mine }
    let stay : Part := { p with members := p.members &&& ~~~qs, masks := p.masks &&& ~~~(spread qs) }
    s.splitPart p.entry [stay, (s.keep (lanes &&& spread mine) act gone).waitUnder e]

/-- The lanes for which an instruction acts, with those that it acted for before it parked (R57, R64). -/
def State.actAll (s : State) (ls : List Nat) : BitVec 64 :=
  match s.iss.redo with
  | some r => if r.act = 0 then maskOf ls else r.act
  | none => maskOf ls

/-- The quads of the lanes given leave the part as a part with reason FAULT at the instruction in issue, PARKED under
the entry of the lowest page; it will reissue for those lanes alone (R57). `act` holds the lanes for which the
instruction acts. (DEDUCED, safe; log entry 24.) -/
def State.parkNow (s : State) (as : List Absent) (kind : Nat) (act : BitVec 64) : State :=
  let r := s.waitAll (sectOf s.wg.core) s.wg.ctx kind s.wg.grid (pagesOf as)
  let s := r.2.2
  let lanes := maskOf (as.map Absent.lane)
  let t := s.wave.parts.foldl (fun s p => s.parkQuads (quadsWith lanes) lanes act r.1 p) s
  { t with iss := { t.iss with parked := true, faults := t.iss.faults ++ [⟨s.iss.pc, as, kind, act⟩] } }

/-- The same for an instruction of a chain: of a chain of several the quads leave once its other instructions have issued for
all their lanes (R142). -/
def State.parkLanes (s : State) (as : List Absent) (kind : Nat) (act : BitVec 64) : State :=
  match as with
  | [] => s
  | _ =>
    if s.iss.waited then { s with iss := { s.iss with parks := s.iss.parks ++ [⟨s.iss.pc, as, kind, act⟩] } }
    else s.parkNow as kind act

/-- The quads of a chain of several that are to park do so, by instruction (R142). -/
def State.parkAll (s : State) : State :=
  let ks := s.iss.parks
  let s := { s with iss := { s.iss with parks := [] } }
  ks.foldl (fun s k => { s with iss := { s.iss with pc := k.pc } }.parkNow k.absents k.kind k.act) s

/-- Park lanes of an operation of a class whose destinations stay on the scoreboard: it stays counted, as the same
instruction as the operation `of` of the lanes that did not park (R236). -/
def State.parkOp (s : State) (as : List Absent) (kind : Nat) (cls : OpClass) (regs : List Nat) (of : Option Nat)
    (act : BitVec 64) : State :=
  match as with
  | [] => s
  | _ =>
    let lanes := as.map Absent.lane
    let only := fun (o : Op) => { o with quads := quadsWith (maskOf lanes) }
    let r := match of with
      | some id => s.issueBeside id cls regs lanes .none only
      | none => s.issueOp cls regs lanes .none only
    r.2.parkLanes as kind act

/-! ### Releases and acquires (R94, R121, R124) -/

/-- A release of the issuing part at a scope: at CLUSTER or wider its core's earlier stores reach their homes; at any
scope its remote scratch stores are applied (Table 7.4). -/
def State.release (s : State) (scope : Nat) : State :=
  let ts := distinct (s.wave.ops.filterMap fun o =>
    if !o.done && (o.quads &&& s.iss.members) != 0 && o.target != 0 then some (o.target - 1) else none)
  let s := ts.foldl State.flushWindow s
  if 2 ≤ scope then s.flushCore s.wg.core else s

/-- An acquire at CLUSTER scope or wider invalidates the core's unpinned L1 lines (R94). -/
def State.acquire (s : State) (scope : Nat) : State := if 2 ≤ scope then s.invalidateL1 s.wg.core else s

/-- Every operation of a class of the issuing part has completed (R121). -/
def State.drained (s : State) (c : OpClass) : Bool := s.wave.count s.iss.members c == 0

end Sys2Proof.Machine
end

