-- ==== Sys2Proof/Machine/Operands.lean ====
section
/-!
DEFINITION. Machine/Operands.lean: the operand forms: access sizes, effective addresses, the pipes, and the registers an
instruction reads and writes, runs included (R139, R224, Table 8.9, Tables 8.11 to 8.14).
-/

namespace Sys2Proof.Machine

/-! ### Access sizes and addresses -/

/-- Bytes of an access size (Table 8.9). -/
def sizeBytes (size : BitVec 3) : Nat :=
  match size.toNat with
  | 0 | 1 => 1
  | 2 | 3 => 2
  | 4 => 4
  | 5 => 8
  | _ => 16

/-- Registers of an access size (R225). -/
def sizeRegs (size : BitVec 3) : Nat := if size.toNat ≤ 4 then 1 else if size.toNat = 5 then 2 else 4

/-- Checks of SIZE and of the register that names the data (R225, R403, R410). -/
def needData (size : BitVec 3) (d : Reg) (sizePos dPos : Nat) : List Trap :=
  needBelow size.toNat 7 sizePos ++
    (if size = 5 then needPair d dPos else if size = 6 then needQuad d dPos else [])

/-- The words a load of some bytes writes (R225): zero- or sign-extended, little-endian. -/
def loadWords (size : BitVec 3) (bs : List Byte) : List Word :=
  let x := leValue bs
  match size.toNat with
  | 0 | 2 | 4 => [BitVec.ofNat 32 x]
  | 1 => [(BitVec.ofNat 8 x).signExtend 32]
  | 3 => [(BitVec.ofNat 16 x).signExtend 32]
  | 5 => [BitVec.ofNat 32 x, BitVec.ofNat 32 (x / 2 ^ 32)]
  | _ => (List.range 4).map fun i => BitVec.ofNat 32 (x / 2 ^ (32 * i))

/-- The bytes a store of some size takes from its data register in a lane (R225). -/
def State.storeBytes (s : State) (size : BitVec 3) (d : Reg) (lane : Nat) : List Byte :=
  ((List.range (sizeRegs size)).flatMap fun i => leBytes 4 (s.src.read lane (d.toNat + i)).toNat).take (sizeBytes size)

/-- Effective address of a global access (R224). -/
def State.globalAddr (s : State) (a : Reg) (off : BitVec 64) (lane : Nat) : Nat := (s.rd2 a lane + off).toNat

/-- Offset of a scratch or parameter access (R224). -/
def State.localAddr (s : State) (a : Reg) (off : BitVec 32) (lane : Nat) : Nat := (s.rd a lane + off).toNat

/-- Byte offset of an MS word (R145). -/
def msOff (size : BitVec 3) (off : BitVec 8) : Nat := off.toNat * sizeBytes size

/-- The TYPE an ATOM or RED executes with (Table 25.2). -/
def atomType (aop : BitVec 4) (type : BitVec 2) : Nat :=
  if 3 ≤ aop.toNat ∧ aop.toNat ≤ 7 then (if type.toNat < 2 then 1 else 3)
  else if 8 ≤ aop.toNat then 1 else type.toNat

/-- The TYPE an ATOMS executes with (Table 25.2). -/
def atomsType (aop : BitVec 4) (type : BitVec 2) : Nat :=
  if 8 ≤ aop.toNat then 1 else type.toNat % 2

/-! ### Pipes (Tables 8.11 to 8.14) -/

/-- The pipes of a partition and the ports of a core. -/
inductive Pipe where
  | none | valu | xalu | lane | mem | cube | rt | ctrl
  deriving DecidableEq, Repr

/-- The pipe of an instruction; an event has none. -/
def pipeOf : Instr → Pipe
  | .iadd .. | .isub .. | .imul .. | .imulh .. | .imulhu .. | .imin .. | .iminu .. | .imax .. | .imaxu .. | .iabsd ..
  | .and .. | .or .. | .xor .. | .andn .. | .shl .. | .shr .. | .sar .. | .popc .. | .clz .. | .brev .. | .mov ..
  | .iaddi .. | .andi .. | .ori .. | .xori .. | .shli .. | .shri .. | .sari .. | .imuli .. | .isetp .. | .fsetp ..
  | .fadd .. | .fsub .. | .fmul .. | .fmin .. | .fmax .. | .hadd2 .. | .hmul2 .. | .hmin2 .. | .hmax2 .. | .badd2 ..
  | .bmul2 .. | .imad .. | .imad64 .. | .iadd64 .. | .isub64 .. | .lea .. | .lop3 .. | .fsh .. | .bfe .. | .bfi ..
  | .prmt .. | .sel .. | .movi .. | .iaddc .. | .isubc .. | .iaddImm32 .. | .andImm32 .. | .orImm32 .. | .xorImm32 ..
  | .imulImm32 .. | .ffma .. | .faddLong .. | .fsubLong .. | .fmulLong .. | .fminLong .. | .fmaxLong .. | .faddImm ..
  | .fsubImm .. | .fmulImm .. | .fminImm .. | .fmaxImm .. | .hfma2 .. | .bfma2 .. | .fclass .. => .valu
  | .frcp .. | .frsq .. | .fsqrt .. | .fex2 .. | .flg2 .. | .fsin .. | .fcos .. | .ftanh .. | .frndRn .. | .frndRz ..
  | .frndRm .. | .frndRp .. | .i2f .. | .f2i .. | .idp4 .. | .cvt .. => .xalu
  | .shfl .. | .vote .. | .matchLanes .. | .redux .. | .scan .. | .qswz .. | .elect .. => .lane
  | .ld .. | .st .. | .lds .. | .sts .. | .ldk .. | .ldLong .. | .stLong .. | .ldsLong .. | .stsLong .. | .atom ..
  | .atoms .. | .red .. | .pref .. | .cctlInv .. | .cctlDemote .. | .cctlInvall .. | .ldkLong .. | .cpy .. | .coll ..
  | .publish .. | .shdw .. | .splatRun .. | .splatBwd .. => .mem
  | .cube .. | .cldb .. | .card .. | .cawr .. | .casts .. | .calds .. | .cazeroMask .. | .cazeroTile .. => .cube
  | .rayt .. | .raya .. | .tex .. | .texg .. | .tld .. | .texq .. => .rt
  | .brc .. | .bra .. | .ret | .exit | .fuse .. | .regang .. | .waitcnt .. | .barArv .. | .barWait .. | .barSync ..
  | .yield .. | .trap .. | .brk .. | .sleep .. | .setprio .. | .fence .. | .stageAcq .. | .stageRel .. | .rtt ..
  | .launch .. | .emit .. | .glaunch .. | .gcancelDrain .. | .gcancelKill .. | .getsr .. | .setsr .. | .brx ..
  | .joinBlock .. | .brl .. | .call .. => .ctrl
  | _ => .none

/-- The number of a pipe of a partition in its core's table, VALU-A as 0 and VALU-B as 1; a port has none (R13). -/
def Pipe.unit : Pipe → Option Nat
  | .valu => some 0
  | .xalu => some 2
  | .lane => some 3
  | .mem => some 4
  | .ctrl => some 5
  | _ => Option.none

/-! ### Registers read and written (R139) -/

/-- A run of registers from a field. -/
def runOf (r : Reg) (n : Nat) : List Nat := (List.range n).map fun i => r.toNat + i

/-- The k registers of a run, as register fields. -/
def kRun (n count : Nat) : List Nat := (List.range count).map fun i => 96 + n + i

/-- P of a CUBE (R251). -/
def cubeP (m : CubeMods) : Nat := if m.fmtA = 4 ∨ m.fmtB = 4 ∨ m.sparse = true then 2 else 1

/-- Registers of a row of 16P elements of a format (R252): codes of Table 13.2. -/
def rowRegs (fmt p : Nat) : Nat := if fmt = 4 then 5 else if fmt < 2 then 8 * p else 4 * p

/-- The format of an MK or K gate: CFMT 0 FP16, 1 BF16, 2 E4M3. -/
def gateRegs (cfmt p : Nat) : Nat := if cfmt < 2 then 8 * p else 4 * p

/-- Registers of a run of 16 cells (Table 13.1). -/
def cellRegs (afmt : Nat) : Nat :=
  match afmt with
  | 2 | 3 => 8
  | 4 | 5 | 7 => 4
  | _ => 16

/-- A node of a workgroup's node table. -/
def nodeOf (g : Grid) (id : Nat) : Option Node := g.nodes.find? fun n => n.id == id

/-- The registers an instruction reads, as register fields, every register of a pair, quadruple or run (R139). The state
gives EMIT its payload stride. -/
def State.reads (s : State) : Instr → List Nat
  | .iadd _ a b | .isub _ a b | .imul _ a b | .imulh _ a b | .imulhu _ a b | .imin _ a b | .iminu _ a b | .imax _ a b
  | .imaxu _ a b | .iabsd _ a b | .and _ a b | .or _ a b | .xor _ a b | .andn _ a b | .shl _ a b | .shr _ a b
  | .sar _ a b | .fadd _ a b | .fsub _ a b | .fmul _ a b | .fmin _ a b | .fmax _ a b | .hadd2 _ a b | .hmul2 _ a b
  | .hmin2 _ a b | .hmax2 _ a b | .badd2 _ a b | .bmul2 _ a b | .faddLong _ _ _ a b | .fsubLong _ _ _ a b
  | .fmulLong _ _ _ a b | .fminLong _ _ _ a b | .fmaxLong _ _ _ a b | .sel _ _ _ _ a b | .iaddc _ _ _ _ _ a b
  | .isubc _ _ _ _ _ a b => [a.toNat, b.toNat]
  | .popc _ a | .clz _ a | .brev _ a | .mov _ a | .iaddi _ a _ | .andi _ a _ | .ori _ a _ | .xori _ a _ | .shli _ a _
  | .shri _ a _ | .sari _ a _ | .imuli _ a _ | .frcp _ a | .frsq _ a | .fsqrt _ a | .fex2 _ a | .flg2 _ a | .fsin _ a
  | .fcos _ a | .ftanh _ a | .frndRn _ a | .frndRz _ a | .frndRm _ a | .frndRp _ a | .i2f _ a | .f2i _ a
  | .iaddImm32 _ a _ | .andImm32 _ a _ | .orImm32 _ a _ | .xorImm32 _ a _ | .imulImm32 _ a _ | .faddImm _ a _
  | .fsubImm _ a _ | .fmulImm _ a _ | .fminImm _ a _ | .fmaxImm _ a _ | .fclass _ _ _ a
  | .redux _ _ _ _ _ a | .scan _ _ _ _ _ _ a | .qswz _ _ _ _ a | .stageRel _ _ a | .setsr _ _ a | .brx _ _ a
  | .gcancelDrain _ _ a | .gcancelKill _ _ a | .publish _ _ _ a => [a.toNat]
  | .matchLanes _ _ _ wide _ _ a => runOf a (if wide then 2 else 1)
  | .isetp _ _ a b _ ty => if ty.toNat < 2 then [a.toNat, b.toNat] else runOf a 2 ++ runOf b 2
  | .fsetp _ _ a b _ _ => [a.toNat, b.toNat]
  | .ld _ a _ _ | .ldLong _ _ _ a _ | .pref _ _ _ _ _ a _ | .cctlInv _ a _ | .cctlDemote _ a _ | .glaunch _ _ a
  | .joinBlock _ a => runOf a 2
  | .st d a size _ => runOf d (sizeRegs size) ++ runOf a 2
  | .stLong _ m d a _ => runOf d (sizeRegs m.size) ++ runOf a 2
  | .lds _ a _ _ | .ldk _ a _ _ | .ldsLong _ _ _ a _ | .ldkLong _ _ _ a _ => [a.toNat]
  | .sts d a size _ => runOf d (sizeRegs size) ++ [a.toNat]
  | .stsLong _ m d a _ => runOf d (sizeRegs m.size) ++ [a.toNat]
  | .atom _ m _ a b c =>
    let n := if atomType m.aop m.type < 2 then 1 else 2
    runOf a 2 ++ runOf b n ++ (if m.aop = 7 then runOf c n else [])
  | .red _ m a b c =>
    let n := if atomType m.aop m.type < 2 then 1 else 2
    runOf a 2 ++ runOf b n ++ (if m.aop = 7 then runOf c n else [])
  | .atoms _ m _ _ a b _ _ => a.toNat :: runOf b (if m.aop = 7 then 2 else 1)
  | .imad _ _ _ a b c | .lop3 _ _ _ a b c | .prmt _ _ a b c | .idp4 _ _ _ _ _ a b c | .ffma _ _ _ a b c
  | .hfma2 _ _ _ a b c | .bfma2 _ _ _ a b c => [a.toNat, b.toNat, c.toNat]
  | .imad64 _ _ _ a b c => a.toNat :: b.toNat :: runOf c 2
  | .iadd64 _ _ a b | .isub64 _ _ a b => runOf a 2 ++ runOf b 2
  | .lea _ _ _ w32 _ a b => (if w32 then [a.toNat] else runOf a 2) ++ [b.toNat]
  | .fsh _ _ imm _ _ a b c => [a.toNat, b.toNat] ++ (if imm then [] else [c.toNat])
  | .bfe _ _ _ imm _ _ a b => a.toNat :: (if imm then [] else [b.toNat])
  | .bfi _ _ _ imm _ a b c => [a.toNat, b.toNat] ++ (if imm then [] else [c.toNat])
  | .cvt _ df sf _ _ mg _ _ _ a b =>
    (if sf = 12 ∨ sf = 13 then runOf a 2 else [a.toNat])
      ++ (if sf = 5 ∨ (mg = true ∧ ((1 ≤ df.toNat ∧ df.toNat ≤ 4) ∨ (6 ≤ df.toNat ∧ df.toNat ≤ 9))) then [b.toNat]
          else [])
  | .shfl _ _ _ imm _ _ _ a b => a.toNat :: (if imm then [] else [b.toNat])
  | .cpy _ _ dir _ _ _ l crd dst => runOf l 2 ++ runOf crd 6 ++ runOf dst (if dir = 2 then 2 else 1)
  | .coll _ _ _ _ _ _ c h => runOf c 2 ++ [h.toNat]
  | .shdw _ _ a b => runOf a 2 ++ [b.toNat]
  | .cube _ m o =>
    let p := cubeP m
    (if m.asrc then runOf o.aopnd 2 else runOf o.aopnd (rowRegs m.fmtA.toNat p))
      ++ (if m.cmode = 1 then (List.range (gateRegs m.cfmt.toNat p)).map fun i => 64 + o.copnd.toNat + i
          else if m.cmode = 3 then kRun o.copnd.toNat (8 * p) else [])
  | .cldb _ f => kRun f.srck.toNat (if f.space then 1 else 2) ++ (if f.rel then kRun f.idxk.toNat 1 else [])
  | .card _ _ _ scale sck _ _ _ => if scale then kRun sck.toNat 1 else []
  | .cawr _ af _ _ a => runOf a (cellRegs af.toNat)
  | .casts _ _ _ scale rel _ _ offk sck => kRun offk.toNat (if rel then 3 else 2) ++ (if scale then kRun sck.toNat 1 else [])
  | .calds _ _ rel _ _ offk => kRun offk.toNat (if rel then 3 else 2)
  | .cazeroMask _ k => kRun k.toNat 1
  | .rayt _ _ _ _ _ _ a root => runOf a 8 ++ runOf root 2
  | .raya _ _ a b => runOf a 2 ++ [b.toNat]
  | .tex _ _ lodx _ a desc => runOf a (if lodx then 3 else 2) ++ runOf desc 2
  | .texg _ lodx _ _ a desc | .tld _ lodx _ a desc => runOf a (if lodx then 3 else 2) ++ runOf desc 2
  | .texq _ _ a desc => a.toNat :: runOf desc 2
  | .splatRun _ _ _ p | .splatBwd _ _ _ p => runOf p 2
  | .launch _ _ a => runOf a 8
  | .emit g _ a b =>
    let g' := s.gridOf s.wg.grid
    let n := ((lanesOf s.iss.lanes).filter fun l => guardHolds g s.src l).foldl (fun n l =>
      max n (match nodeOf g' ((s.src.read l b.toNat).toNat % 4096) with
        | some d => d.stride / 4
        | none => 0)) 0
    runOf a n ++ [b.toNat]
  | .yield k nt => if nt then [] else [96 + k.toNat]
  | .ret => [127]
  | _ => []

/-- The registers an instruction writes, as register fields (R139). -/
def writesOf : Instr → List Nat
  | .iadd d _ _ | .isub d _ _ | .imul d _ _ | .imulh d _ _ | .imulhu d _ _ | .imin d _ _ | .iminu d _ _ | .imax d _ _
  | .imaxu d _ _ | .iabsd d _ _ | .and d _ _ | .or d _ _ | .xor d _ _ | .andn d _ _ | .shl d _ _ | .shr d _ _
  | .sar d _ _ | .popc d _ | .clz d _ | .brev d _ | .mov d _ | .iaddi d _ _ | .andi d _ _ | .ori d _ _ | .xori d _ _
  | .shli d _ _ | .shri d _ _ | .sari d _ _ | .imuli d _ _ | .fadd d _ _ | .fsub d _ _ | .fmul d _ _ | .fmin d _ _
  | .fmax d _ _ | .hadd2 d _ _ | .hmul2 d _ _ | .hmin2 d _ _ | .hmax2 d _ _ | .badd2 d _ _ | .bmul2 d _ _ | .frcp d _
  | .frsq d _ | .fsqrt d _ | .fex2 d _ | .flg2 d _ | .fsin d _ | .fcos d _ | .ftanh d _ | .frndRn d _ | .frndRz d _
  | .frndRm d _ | .frndRp d _ | .i2f d _ | .f2i d _ | .imad _ _ d _ _ _ | .lop3 _ _ d _ _ _ | .fsh _ _ _ _ d _ _ _
  | .bfe _ _ _ _ _ d _ _ | .bfi _ _ _ _ d _ _ _ | .prmt _ d _ _ _ | .sel _ _ _ d _ _ | .movi _ d _
  | .idp4 _ _ _ _ d _ _ _ | .iaddc _ _ _ _ d _ _ | .isubc _ _ _ _ d _ _ | .iaddImm32 _ d _ | .andImm32 _ d _
  | .orImm32 _ d _ | .xorImm32 _ d _ | .imulImm32 _ d _ | .ffma _ _ d _ _ _ | .faddLong _ _ d _ _
  | .fsubLong _ _ d _ _ | .fmulLong _ _ d _ _ | .fminLong _ _ d _ _ | .fmaxLong _ _ d _ _ | .faddImm _ d _
  | .fsubImm _ d _ | .fmulImm _ d _ | .fminImm _ d _ | .fmaxImm _ d _ | .hfma2 _ _ d _ _ _ | .bfma2 _ _ d _ _ _
  | .fclass _ _ d _ | .shfl _ _ _ _ _ _ d _ _ | .redux _ _ _ _ d _ | .scan _ _ _ _ _ d _ | .qswz _ _ _ d _
  | .cpy _ _ _ _ _ d _ _ _ | .coll _ _ _ _ _ d _ _ | .publish _ _ d _ | .shdw _ d _ _ | .stageAcq _ _ d
  | .splatRun _ _ d _ | .splatBwd _ _ d _ | .rtt _ _ _ d | .launch _ d _ | .emit _ d _ _ | .glaunch _ d _
  | .gcancelDrain _ d _ | .gcancelKill _ d _ | .getsr _ _ d => [d.toNat]
  | .imad64 _ _ d _ _ _ | .iadd64 _ d _ _ | .isub64 _ d _ _ => runOf d 2
  | .lea _ _ _ w32 d _ _ => if w32 then [d.toNat] else runOf d 2
  | .cvt _ df _ _ _ _ _ _ d _ _ => if df = 12 ∨ df = 13 then runOf d 2 else [d.toNat]
  | .vote _ mw mode _ _ _ cnt d => if mode = 2 then runOf d (if mw = 4 ∧ cnt = false then 2 else 1) else []
  | .matchLanes _ mw rank _ _ d _ => runOf d (if mw = 4 ∧ rank = false then 2 else 1)
  | .elect _ _ _ wd _ d => if wd then [d.toNat] else []
  | .ld d _ size _ | .lds d _ size _ | .ldk d _ size _ | .ldkLong _ size d _ _ => runOf d (sizeRegs size)
  | .ldLong _ m d _ _ => runOf d (sizeRegs m.size)
  | .ldsLong _ m d _ _ => runOf d (sizeRegs m.size)
  | .atom _ m d _ _ _ => runOf d (if atomType m.aop m.type < 2 then 1 else 2)
  | .atoms _ _ r d _ _ _ _ => if r then [d.toNat] else []
  | .card _ af _ _ _ _ _ d => runOf d (cellRegs af.toNat)
  | .rayt _ _ _ _ _ d _ _ | .tex _ _ _ d _ _ | .texg _ _ _ d _ _ | .tld _ _ d _ _ | .texq _ d _ _ => runOf d 4
  | .raya _ d _ _ => runOf d 9
  | .call .. => [127]
  | _ => []

/-- The predicates an instruction writes; p7 is none (R65), and VOTE.BAL writes none (R219). -/
def predsOf : Instr → List Nat
  | .isetp pd .. | .fsetp pd .. => [pd.toNat].filter (· < 7)
  | .iaddc _ _ _ co .. | .isubc _ _ _ co .. => [co.toNat].filter (· < 7)
  | .vote _ _ mode _ _ pd .. => if mode = 2 then [] else [pd.toNat].filter (· < 7)
  | .matchLanes _ _ _ _ pd .. => [pd.toNat].filter (· < 7)
  | .elect _ _ pd .. => [pd.toNat].filter (· < 7)
  | .rtt _ _ pd _ => [pd.toNat].filter (· < 7)
  | _ => []

/-- The minimum width code of an instruction that carries one (R58, R147, R188, R189, R271). -/
def State.minWidth (s : State) : Instr → Option Nat
  | .shfl _ m .. | .vote _ m .. | .matchLanes _ m .. | .redux _ m .. | .scan _ m .. | .qswz _ m .. | .elect _ m .. =>
    some m.toNat
  | .regang w => some w.toNat
  | .cvt _ df .. => if df = 5 then some 3 else none
  | .cube .. | .card .. | .cawr .. => some 1
  | .stageAcq .. | .stageRel .. | .rtt .. => some s.wave.widthCode
  | _ => none

/-- The counter class an instruction joins (Table 4.3). (DEDUCED, unsafe; log entry 59.) -/
def classOf : Instr → OpClass
  | .ld .. | .ldLong .. | .lds .. | .ldsLong .. | .ldk .. | .ldkLong .. | .atom .. => .ldc
  | .atoms _ _ r .. => if r then .ldc else .stc
  | .st .. | .stLong .. | .sts .. | .stsLong .. | .red .. | .cctlInv .. | .cctlDemote .. | .cctlInvall .. => .stc
  | .cpy .. | .coll .. | .cldb .. => .cpc
  | .cube .. | .card .. | .cawr .. | .casts .. | .calds .. | .cazeroMask .. | .cazeroTile .. => .cbc
  | .rayt .. | .raya .. | .tex .. | .texg .. | .tld .. | .texq .. => .rtc
  | _ => .uncounted

end Sys2Proof.Machine
end

