-- ==== Sys2Proof/Machine/Flags.lean ====
section
/-!
DEFINITION. Machine/Flags.lean: the conditions that set predicates (R168, R208, R209), the carries of IADDC (R171), and
the bits of the Pennant register (R396, Table 24.12).
-/

namespace Sys2Proof.Machine

/-! ### Pennant bits (Table 24.12) -/

def flagModfb : BitVec 10 := 0x001#10
def flagRsvnz : BitVec 10 := 0x002#10
def flagChainfb : BitVec 10 := 0x004#10
def flagFuseto : BitVec 10 := 0x008#10
def flagDivspill : BitVec 10 := 0x010#10
def flagSubassist : BitVec 10 := 0x020#10
def flagCubefb : BitVec 10 := 0x040#10
def flagRayinv : BitVec 10 := 0x080#10
def flagLaunchfull : BitVec 10 := 0x100#10
def flagSplatcap : BitVec 10 := 0x200#10

/-! ### Predicates -/

/-- COMB of ISETP and FSETP (R168): 0 set, 1 and, 2 or. -/
def combine (comb : BitVec 2) (old c : Bool) : Bool :=
  match comb.toNat with
  | 0 => c
  | 1 => old && c
  | _ => old || c

/-- An ISETP condition of two integers: EQ, NE, LT, LE, GT, GE as 0 to 5 (R168). -/
def icond (cond : BitVec 4) (x y : Int) : Bool :=
  match cond.toNat with
  | 0 => decide (x = y)
  | 1 => decide (x ≠ y)
  | 2 => decide (x < y)
  | 3 => decide (x ≤ y)
  | 4 => decide (y < x)
  | _ => decide (y ≤ x)

/-- Whether two values are unordered: either is NaN (R208). -/
def unordered (x y : XVal) : Bool := x.isNan || y.isNan

/-- The six relations of two values, false when unordered, NE apart (R208). -/
def frel (c : Nat) (x y : XVal) : Bool :=
  match c with
  | 0 => XVal.eq x y
  | 1 => XVal.lt x y || XVal.lt y x
  | 2 => XVal.lt x y
  | 3 => XVal.le x y
  | 4 => XVal.lt y x
  | _ => XVal.le y x

/-- The carry chain of IADDC and ISUBC: the 33-bit sum of A, B or its complement, and the carry in (R171). -/
def carrySum (sub : Bool) (a b : Word) (ci : Bool) : Nat :=
  a.toNat + (if sub then 2 ^ 32 - 1 - b.toNat else b.toNat) + (if ci then 1 else 0)

end Sys2Proof.Machine
end

