-- ==== Sys2Proof/Machine/Integer.lean ====
section
/-!
DEFINITION. Machine/Integer.lean: the integer and logic instructions (R165 to R179): OP 0x00 to 0x09 and XOP 0x00 to 0x0D.
Each is one function of a lane's captured sources, written in the lanes active for it.
-/

namespace Sys2Proof.Machine

/-- What a meaning answers. -/
abbrev Answer := Host.Outcome State Fault Refusal

/-! ### Bit counts and fields -/

/-- Number of set bits (R166). -/
def popcount (x : Word) : Word := BitVec.ofNat 32 ((List.range 32).filter fun i => x.getLsbD i).length

/-- Number of leading zero bits; 32 for 0 (R166). -/
def leadingZeros (x : Word) : Word :=
  BitVec.ofNat 32 (((List.range 32).find? fun i => x.getLsbD (31 - i)).getD 32)

/-- Bit i of the result is bit 31 - i (R166). -/
def bitReverse (x : Word) : Word :=
  (List.range 32).foldl (fun r i => if x.getLsbD (31 - i) then r ||| BitVec.twoPow 32 i else r) 0

/-- High half of the product of two signed words (R165). -/
def mulHigh (x y : Word) : Word := ((x.signExtend 64 * y.signExtend 64) >>> 32).setWidth 32

/-- High half of the product of two unsigned words (R165). -/
def mulHighU (x y : Word) : Word := ((x.setWidth 64 * y.setWidth 64) >>> 32).setWidth 32

/-- Bitwise function of three words by its table (R173). -/
def lut3 (lut : BitVec 8) (a b c : Word) : Word :=
  (List.range 32).foldl (fun r i =>
    let j := (if a.getLsbD i then 1 else 0) + (if b.getLsbD i then 2 else 0) + (if c.getLsbD i then 4 else 0)
    if lut.getLsbD j then r ||| BitVec.twoPow 32 i else r) 0

/-- Funnel shift of B:A (R174). -/
def funnel (left : Bool) (n : Nat) (a b : Word) : Word :=
  let w : DWord := b ++ a
  if left then ((w <<< n) >>> 32).setWidth 32 else (w >>> n).setWidth 32

/-- Extract a field of `l` bits at `p` (R175). -/
def bitExtract (signed : Bool) (p l : Nat) (a : Word) : Word :=
  let l := min l 32
  let x : Int := if signed then a.toInt else (a.toNat : Int)
  let f : Int := Int.fdiv x (2 ^ p) % 2 ^ l
  BitVec.ofInt 32 (if signed && decide (0 < l) && decide (2 ^ (l - 1) ≤ f) then f - 2 ^ l else f)

/-- Insert `l` bits of B at `p` into A (R175). -/
def bitInsert (p l : Nat) (a b : Word) : Word :=
  let m : Word := BitVec.ofNat 32 ((2 ^ min l 32 - 1) * 2 ^ p)
  (a &&& ~~~m) ||| ((b <<< p) &&& m)

/-- Byte `i` of PRMT's result by its selector (R176). -/
def permuteByte (a b : Word) (sel : Byte) : Byte :=
  let q : Byte := (((b ++ a : DWord) >>> (8 * (sel.toNat % 8))).setWidth 8)
  match sel.toNat / 8 % 4 with
  | 0 => q
  | 1 => 0
  | 2 => if q.getLsbD 7 then 0xFF else 0
  | _ => 0xFF

/-- PRMT (R176). -/
def permute (a b c : Word) : Word :=
  permuteByte a b (bits 24 8 c) ++ permuteByte a b (bits 16 8 c) ++ permuteByte a b (bits 8 8 c)
    ++ permuteByte a b (bits 0 8 c)

/-- Byte `i` of a word, signed or not. -/
def byteInt (signed : Bool) (i : Nat) (x : Word) : Int :=
  let b : Byte := (x >>> (8 * i)).setWidth 8
  if signed then b.toInt else (b.toNat : Int)

/-- The four-way dot product of IDP4 (R179). -/
def dot4 (as bs sat : Bool) (a b c : Word) : Word :=
  let signed := as || bs
  let acc : Int := if sat && !signed then (c.toNat : Int) else c.toInt
  let t := (List.range 4).foldl (fun t i => t + byteInt as i a * byteInt bs i b) acc
  BitVec.ofInt 32 (if sat then clampInt signed 32 t else t)

/-! ### OP 0x00 to 0x08 -/

/-- NOP (R148). -/
def execNop (s : State) : Answer := .next s

/-- IADD: x + y (R165). -/
def execIadd (d a b : Reg) (s : State) : Answer := .next (s.writeD s.act d fun l => s.rd a l + s.rd b l)

/-- ISUB: x - y (R165). -/
def execIsub (d a b : Reg) (s : State) : Answer := .next (s.writeD s.act d fun l => s.rd a l - s.rd b l)

/-- IMUL: x × y (R165). -/
def execImul (d a b : Reg) (s : State) : Answer := .next (s.writeD s.act d fun l => s.rd a l * s.rd b l)

/-- IMULH (R165). -/
def execImulh (d a b : Reg) (s : State) : Answer := .next (s.writeD s.act d fun l => mulHigh (s.rd a l) (s.rd b l))

/-- IMULHU (R165). -/
def execImulhu (d a b : Reg) (s : State) : Answer := .next (s.writeD s.act d fun l => mulHighU (s.rd a l) (s.rd b l))

/-- IMIN: the smaller signed (R165). -/
def execImin (d a b : Reg) (s : State) : Answer :=
  .next (s.writeD s.act d fun l => if (s.rd a l).slt (s.rd b l) then s.rd a l else s.rd b l)

/-- IMINU: the smaller unsigned (R165). -/
def execIminu (d a b : Reg) (s : State) : Answer :=
  .next (s.writeD s.act d fun l => if s.rd a l < s.rd b l then s.rd a l else s.rd b l)

/-- IMAX: the greater signed (R165). -/
def execImax (d a b : Reg) (s : State) : Answer :=
  .next (s.writeD s.act d fun l => if (s.rd a l).slt (s.rd b l) then s.rd b l else s.rd a l)

/-- IMAXU: the greater unsigned (R165). -/
def execImaxu (d a b : Reg) (s : State) : Answer :=
  .next (s.writeD s.act d fun l => if s.rd a l < s.rd b l then s.rd b l else s.rd a l)

/-- IABSD: |sx - sy| (R165). -/
def execIabsd (d a b : Reg) (s : State) : Answer :=
  .next (s.writeD s.act d fun l => BitVec.ofNat 32 ((s.rd a l).toInt - (s.rd b l).toInt).natAbs)

/-- AND (R166). -/
def execAnd (d a b : Reg) (s : State) : Answer := .next (s.writeD s.act d fun l => s.rd a l &&& s.rd b l)

/-- OR (R166). -/
def execOr (d a b : Reg) (s : State) : Answer := .next (s.writeD s.act d fun l => s.rd a l ||| s.rd b l)

/-- XOR (R166). -/
def execXor (d a b : Reg) (s : State) : Answer := .next (s.writeD s.act d fun l => s.rd a l ^^^ s.rd b l)

/-- ANDN: x AND NOT y (R166). -/
def execAndn (d a b : Reg) (s : State) : Answer := .next (s.writeD s.act d fun l => s.rd a l &&& ~~~(s.rd b l))

/-- SHL by y[7:0]; 0 from 32 on (R166). -/
def execShl (d a b : Reg) (s : State) : Answer :=
  .next (s.writeD s.act d fun l => s.rd a l <<< ((s.rd b l).toNat % 256))

/-- SHR by y[7:0]; 0 from 32 on (R166). -/
def execShr (d a b : Reg) (s : State) : Answer :=
  .next (s.writeD s.act d fun l => s.rd a l >>> ((s.rd b l).toNat % 256))

/-- SAR by y[7:0]; the sign fill from 32 on (R166). -/
def execSar (d a b : Reg) (s : State) : Answer :=
  .next (s.writeD s.act d fun l => (s.rd a l).sshiftRight ((s.rd b l).toNat % 256))

/-- POPC (R166). -/
def execPopc (d a : Reg) (s : State) : Answer := .next (s.writeD s.act d fun l => popcount (s.rd a l))

/-- CLZ (R166). -/
def execClz (d a : Reg) (s : State) : Answer := .next (s.writeD s.act d fun l => leadingZeros (s.rd a l))

/-- BREV (R166). -/
def execBrev (d a : Reg) (s : State) : Answer := .next (s.writeD s.act d fun l => bitReverse (s.rd a l))

/-- MOV (R166). -/
def execMov (d a : Reg) (s : State) : Answer := .next (s.writeD s.act d fun l => s.rd a l)

/-- IADDI: x + i (R167). -/
def execIaddi (d a : Reg) (imm : BitVec 11) (s : State) : Answer :=
  .next (s.writeD s.act d fun l => s.rd a l + imm.signExtend 32)

/-- ANDI (R167). -/
def execAndi (d a : Reg) (imm : BitVec 11) (s : State) : Answer :=
  .next (s.writeD s.act d fun l => s.rd a l &&& imm.signExtend 32)

/-- ORI (R167). -/
def execOri (d a : Reg) (imm : BitVec 11) (s : State) : Answer :=
  .next (s.writeD s.act d fun l => s.rd a l ||| imm.signExtend 32)

/-- XORI (R167). -/
def execXori (d a : Reg) (imm : BitVec 11) (s : State) : Answer :=
  .next (s.writeD s.act d fun l => s.rd a l ^^^ imm.signExtend 32)

/-- SHLI (R146, R167). -/
def execShli (d a : Reg) (n : BitVec 5) (s : State) : Answer :=
  .next (s.writeD s.act d fun l => s.rd a l <<< n.toNat)

/-- SHRI (R146, R167). -/
def execShri (d a : Reg) (n : BitVec 5) (s : State) : Answer :=
  .next (s.writeD s.act d fun l => s.rd a l >>> n.toNat)

/-- SARI (R146, R167). -/
def execSari (d a : Reg) (n : BitVec 5) (s : State) : Answer :=
  .next (s.writeD s.act d fun l => (s.rd a l).sshiftRight n.toNat)

/-- IMULI: x × i (R167). -/
def execImuli (d a : Reg) (imm : BitVec 11) (s : State) : Answer :=
  .next (s.writeD s.act d fun l => s.rd a l * imm.signExtend 32)

/-- The operands of ISETP as TYPE reads them (R168). -/
def State.setpOperand (s : State) (type : BitVec 2) (r : Reg) (lane : Nat) : Int :=
  match type.toNat with
  | 0 => (s.rd r lane).toInt
  | 1 => ((s.rd r lane).toNat : Int)
  | 2 => (s.rd2 r lane).toInt
  | _ => ((s.rd2 r lane).toNat : Int)

/-- ISETP (R168, R403, R410). -/
def execIsetp (pd : BitVec 3) (comb : BitVec 2) (a b : Reg) (cond : BitVec 4) (type : BitVec 2) (s : State) : Answer :=
  .next (s.run
    (needBelow comb.toNat 3 20 ++ needBelow cond.toNat 6 2
      ++ (if 2 ≤ type.toNat then needPair a 13 ++ needPair b 6 else []))
    fun s => s.writeP s.act pd fun l =>
      combine comb (s.src.p l pd.toNat) (icond cond (s.setpOperand type a l) (s.setpOperand type b l)))

/-! ### Long integer forms -/

/-- IMAD (R169). -/
def execImad (g : Guard) (mode : BitVec 2) (d a b c : Reg) (s : State) : Answer :=
  .next (s.run (needBelow mode.toNat 3 32) fun s => s.writeD (s.actG g) d fun l =>
    (match mode.toNat with
      | 0 => s.rd a l * s.rd b l
      | 1 => mulHigh (s.rd a l) (s.rd b l)
      | _ => mulHighU (s.rd a l) (s.rd b l)) + s.rd c l)

/-- IMAD64 (R170). -/
def execImad64 (g : Guard) (sign : Bool) (d a b c : Reg) (s : State) : Answer :=
  .next (s.run (needPair d 25 ++ needPair c 4) fun s => s.writeD2 (s.actG g) d fun l =>
    (if sign then (s.rd a l).signExtend 64 * (s.rd b l).signExtend 64
      else (s.rd a l).setWidth 64 * (s.rd b l).setWidth 64) + s.rd2 c l)

/-- IADD64 (R170). -/
def execIadd64 (g : Guard) (d a b : Reg) (s : State) : Answer :=
  .next (s.run (needPair d 25 ++ needPair a 18 ++ needPair b 11) fun s =>
    s.writeD2 (s.actG g) d fun l => s.rd2 a l + s.rd2 b l)

/-- ISUB64 (R170). -/
def execIsub64 (g : Guard) (d a b : Reg) (s : State) : Answer :=
  .next (s.run (needPair d 25 ++ needPair a 18 ++ needPair b 11) fun s =>
    s.writeD2 (s.actG g) d fun l => s.rd2 a l - s.rd2 b l)

/-- LEA (R172). -/
def execLea (g : Guard) (sh : BitVec 5) (sext w32 : Bool) (d a b : Reg) (s : State) : Answer :=
  .next (s.run (if w32 then [] else needPair d 25 ++ needPair a 18) fun s =>
    let e := fun l : Nat => (if sext then (s.rd b l).signExtend 64 else (s.rd b l).setWidth 64) <<< sh.toNat
    if w32 then s.writeD (s.actG g) d fun l => s.rd a l + (e l).setWidth 32
    else s.writeD2 (s.actG g) d fun l => s.rd2 a l + e l)

/-- LOP3 (R173). -/
def execLop3 (g : Guard) (lut : BitVec 8) (d a b c : Reg) (s : State) : Answer :=
  .next (s.writeD (s.actG g) d fun l => lut3 lut (s.rd a l) (s.rd b l) (s.rd c l))

/-- FSH (R174). -/
def execFsh (g : Guard) (left imm : Bool) (amt : BitVec 5) (d a b c : Reg) (s : State) : Answer :=
  .next (s.writeD (s.actG g) d fun l =>
    funnel left (if imm then amt.toNat else (s.rd c l).toNat % 32) (s.rd a l) (s.rd b l))

/-- BFE (R175). -/
def execBfe (g : Guard) (len : BitVec 6) (pos : BitVec 5) (imm signed : Bool) (d a b : Reg) (s : State) : Answer :=
  .next (s.writeD (s.actG g) d fun l =>
    if imm then bitExtract signed pos.toNat len.toNat (s.rd a l)
    else bitExtract signed ((s.rd b l).toNat % 256) ((s.rd b l).toNat / 256 % 256) (s.rd a l))

/-- BFI (R175). -/
def execBfi (g : Guard) (len : BitVec 6) (pos : BitVec 5) (imm : Bool) (d a b c : Reg) (s : State) : Answer :=
  .next (s.writeD (s.actG g) d fun l =>
    if imm then bitInsert pos.toNat len.toNat (s.rd a l) (s.rd b l)
    else bitInsert ((s.rd c l).toNat % 256) ((s.rd c l).toNat / 256 % 256) (s.rd a l) (s.rd b l))

/-- PRMT (R176). -/
def execPrmt (g : Guard) (d a b c : Reg) (s : State) : Answer :=
  .next (s.writeD (s.actG g) d fun l => permute (s.rd a l) (s.rd b l) (s.rd c l))

/-- SEL (R177). -/
def execSel (g : Guard) (sp : BitVec 3) (sneg : Bool) (d a b : Reg) (s : State) : Answer :=
  .next (s.writeD (s.actG g) d fun l => if s.src.p l sp.toNat != sneg then s.rd a l else s.rd b l)

/-- MOVI (R177). -/
def execMovi (g : Guard) (d : Reg) (imm : Word) (s : State) : Answer := .next (s.writeD (s.actG g) d fun _ => imm)

/-- IDP4 (R179). -/
def execIdp4 (g : Guard) (as bs sat : Bool) (d a b c : Reg) (s : State) : Answer :=
  .next (s.writeD (s.actG g) d fun l => dot4 as bs sat (s.rd a l) (s.rd b l) (s.rd c l))

/-- D and the carry out of IADDC or ISUBC in the lanes given (R171). -/
def State.carry (s : State) (sub : Bool) (ls : List Nat) (ci : BitVec 3) (cineg : Bool) (co : BitVec 3) (d a b : Reg) :
    State :=
  let t := fun l => carrySum sub (s.rd a l) (s.rd b l) (s.src.p l ci.toNat != cineg)
  (s.writeD ls d fun l => BitVec.ofNat 32 (t l)).writeP ls co fun l => decide (2 ^ 32 ≤ t l)

/-- IADDC (R171). -/
def execIaddc (g : Guard) (ci : BitVec 3) (cineg : Bool) (co : BitVec 3) (d a b : Reg) (s : State) : Answer :=
  .next (s.carry false (s.actG g) ci cineg co d a b)

/-- ISUBC (R171). -/
def execIsubc (g : Guard) (ci : BitVec 3) (cineg : Bool) (co : BitVec 3) (d a b : Reg) (s : State) : Answer :=
  .next (s.carry true (s.actG g) ci cineg co d a b)

/-- IADD with a 32-bit immediate (R178). -/
def execIaddImm32 (g : Guard) (da : Reg) (imm : Word) (s : State) : Answer :=
  .next (s.writeD (s.actG g) da fun l => s.rd da l + imm)

/-- AND with a 32-bit immediate (R178). -/
def execAndImm32 (g : Guard) (da : Reg) (imm : Word) (s : State) : Answer :=
  .next (s.writeD (s.actG g) da fun l => s.rd da l &&& imm)

/-- OR with a 32-bit immediate (R178). -/
def execOrImm32 (g : Guard) (da : Reg) (imm : Word) (s : State) : Answer :=
  .next (s.writeD (s.actG g) da fun l => s.rd da l ||| imm)

/-- XOR with a 32-bit immediate (R178). -/
def execXorImm32 (g : Guard) (da : Reg) (imm : Word) (s : State) : Answer :=
  .next (s.writeD (s.actG g) da fun l => s.rd da l ^^^ imm)

/-- IMUL with a 32-bit immediate (R178). -/
def execImulImm32 (g : Guard) (da : Reg) (imm : Word) (s : State) : Answer :=
  .next (s.writeD (s.actG g) da fun l => s.rd da l * imm)

end Sys2Proof.Machine
end

