-- ==== Sys2Proof/Machine/Float.lean ====
section
/-!
DEFINITION. Machine/Float.lean: the floating-point and conversion instructions (R202 to R215): OP 0x0A to 0x0C and XOP 0x10
to 0x15.
-/

namespace Sys2Proof.Machine

/-! ### Roundings, modifiers, elements -/

/-- `SR_ROUND`: 0 RNE, 1 RZ, 2 RM, 3 RP (Table 4.4). -/
def roundingOf (r : BitVec 2) : Rounding :=
  match r.toNat with
  | 0 => .rne
  | 1 => .rz
  | 2 => .rm
  | _ => .rp

/-- The wave's rounding as the chain issued (R73, R203). -/
def State.rounding (s : State) : Rounding := roundingOf s.iss.round

/-- The RND field (Table 10.2). -/
def State.rnd (s : State) (rnd : BitVec 3) : Rounding :=
  match rnd.toNat with
  | 1 => .rne
  | 2 => .rz
  | 3 => .rm
  | 4 => .rp
  | _ => s.rounding

/-- RND 5 to 7 are reserved (R403). -/
def needRnd (rnd : BitVec 3) (pos : Nat) : List Trap := needBelow rnd.toNat 5 pos

/-- ABS and then NEG on the sign bit of a code (R82, R205). -/
def modCode (f : Fmt) (neg abs : Bool) (code : Nat) : Nat :=
  let sign := code.testBit (f.width - 1)
  f.signed ((sign && !abs) != neg) (code % 2 ^ (f.width - 1))

/-- A modified FP32 operand. -/
def fmod (neg abs : Bool) (x : Word) : XVal := Fmt.decode .fp32 (modCode .fp32 neg abs x.toNat)

/-- SAT of the long forms (R203): UNIT or NONE. -/
def unitSat (sat : Bool) : Saturate := if sat then .unit else .none

/-- The two-operand float operations: 0 add, 1 subtract, 2 multiply, 3 minimum, 4 maximum (Table 10.3, R206). -/
def floatOp (op : Nat) (mode : Rounding) (x y : XVal) : XVal :=
  match op with
  | 0 => XVal.add mode x y
  | 1 => XVal.sub mode x y
  | 2 => XVal.mul x y
  | 3 => XVal.minNum x y
  | _ => XVal.maxNum x y

/-- One FP32 operation on words, rounded once. -/
def float32 (op : Nat) (mode : Rounding) (x y : Word) : Word := fword (Fmt.convert .fp32 (floatOp op mode (fval x) (fval y)) mode .none)

/-- Element `i` of a word of 16-bit elements (R79). -/
def half (x : Word) (i : Nat) : Nat := x.toNat / 2 ^ (16 * i) % 2 ^ 16

/-- A word of two 16-bit elements (R79). -/
def pack2 (lo hi : Nat) : Word := BitVec.ofNat 32 (hi % 2 ^ 16 * 2 ^ 16 + lo % 2 ^ 16)

/-- One packed operation (Table 10.3). -/
def packedOp (f : Fmt) (op : Nat) (mode : Rounding) (x y : Word) : Word :=
  let e := fun i => f.convert (floatOp op mode (f.decode (half x i)) (f.decode (half y i))) mode .none
  pack2 (e 0) (e 1)

/-! ### OP 0x0A and 0x0B -/

/-- Format of an FSETP TYPE (R208). -/
def setpFmt (type : BitVec 2) : Fmt := if type = 0 then .fp32 else if type = 1 then .fp16 else .bf16

/-- An FSETP condition (Table 10.4). -/
def fcond (cond : BitVec 4) (x y : XVal) : Bool :=
  let c := cond.toNat
  if c = 12 then !unordered x y
  else if c = 13 then unordered x y
  else if c < 6 then !unordered x y && frel c x y
  else unordered x y || frel (c - 6) x y

/-- FSETP (R208, R403). -/
def execFsetp (pd : BitVec 3) (comb : BitVec 2) (a b : Reg) (cond : BitVec 4) (type : BitVec 2) (s : State) : Answer :=
  .next (s.run (needBelow comb.toNat 3 20 ++ needBelow cond.toNat 14 2 ++ needBelow type.toNat 3 0) fun s =>
    let f := setpFmt type
    let v := fun (r : Reg) (l : Nat) => f.decode ((s.rd r l).toNat % 2 ^ f.width)
    s.writeP s.act pd fun l => combine comb (s.src.p l pd.toNat) (fcond cond (v a l) (v b l)))

/-- FADD (R204). -/
def execFadd (d a b : Reg) (s : State) : Answer :=
  .next (s.writeD s.act d fun l => float32 0 s.rounding (s.rd a l) (s.rd b l))

/-- FSUB (R204). -/
def execFsub (d a b : Reg) (s : State) : Answer :=
  .next (s.writeD s.act d fun l => float32 1 s.rounding (s.rd a l) (s.rd b l))

/-- FMUL (R204). -/
def execFmul (d a b : Reg) (s : State) : Answer :=
  .next (s.writeD s.act d fun l => float32 2 s.rounding (s.rd a l) (s.rd b l))

/-- FMIN (R204). -/
def execFmin (d a b : Reg) (s : State) : Answer :=
  .next (s.writeD s.act d fun l => float32 3 s.rounding (s.rd a l) (s.rd b l))

/-- FMAX (R204). -/
def execFmax (d a b : Reg) (s : State) : Answer :=
  .next (s.writeD s.act d fun l => float32 4 s.rounding (s.rd a l) (s.rd b l))

/-- HADD2 (R204). -/
def execHadd2 (d a b : Reg) (s : State) : Answer :=
  .next (s.writeD s.act d fun l => packedOp .fp16 0 s.rounding (s.rd a l) (s.rd b l))

/-- HMUL2 (R204). -/
def execHmul2 (d a b : Reg) (s : State) : Answer :=
  .next (s.writeD s.act d fun l => packedOp .fp16 2 s.rounding (s.rd a l) (s.rd b l))

/-- HMIN2 (R204). -/
def execHmin2 (d a b : Reg) (s : State) : Answer :=
  .next (s.writeD s.act d fun l => packedOp .fp16 3 s.rounding (s.rd a l) (s.rd b l))

/-- HMAX2 (R204). -/
def execHmax2 (d a b : Reg) (s : State) : Answer :=
  .next (s.writeD s.act d fun l => packedOp .fp16 4 s.rounding (s.rd a l) (s.rd b l))

/-- BADD2 (R204). -/
def execBadd2 (d a b : Reg) (s : State) : Answer :=
  .next (s.writeD s.act d fun l => packedOp .bf16 0 s.rounding (s.rd a l) (s.rd b l))

/-- BMUL2 (R204). -/
def execBmul2 (d a b : Reg) (s : State) : Answer :=
  .next (s.writeD s.act d fun l => packedOp .bf16 2 s.rounding (s.rd a l) (s.rd b l))

/-! ### OP 0x0C (R210, R211) -/

/-- 1 / √(n / d): the device's value when it lies within 1 ulp, else the nearest (Table 10.5; DESIGN CHOICE, safe; log
entry 7). -/
def rsqrt (cand : Word) (n d : Nat) : Word :=
  let q := Fmt.spacing .fp32 (Int.fdiv (floorLog2 d n) 2)
  let ok := match fval cand with
    | .fin false a b =>
      let (u, v) := inUnits a b q
      decide ((u - v) * (u - v) * (n * 2 ^ (2 * max q 0).toNat) ≤ v * v * d * 2 ^ (2 * max (-q) 0).toNat)
        && decide (v * v * d * 2 ^ (2 * max (-q) 0).toNat ≤ (u + v) * (u + v) * (n * 2 ^ (2 * max q 0).toNat))
    | _ => false
  if ok then cand else fword (Fmt.sqrt .fp32 .rne d n)

/-- The exponent of a power of two, n / d = 2^k. -/
def powerOf2 (n d : Nat) : Option Int :=
  let k := floorLog2 n d
  if (if 0 ≤ k then decide (n = d * 2 ^ k.toNat) else decide (n * 2 ^ (-k).toNat = d)) then some k else none

/-- FRCP (Table 10.5, Table 10.6). -/
def frcpOf (mode : Rounding) (x : Word) : Word := fword (Fmt.convert .fp32 (XVal.div (XVal.ofInt 1) (fval x)) mode .none)

/-- FRSQ (Table 10.5, Table 10.6). -/
def frsqOf (x : Word) : Word :=
  match fval x with
  | .nan => 0x7FC00000#32
  | .inf s => if s then 0x7FC00000#32 else 0
  | .fin s n d =>
    if n = 0 then (if s then 0xFF800000#32 else 0x7F800000#32)
    else if s then 0x7FC00000#32
    else if n = d then 0x3F800000#32
    else rsqrt (Config.transcendental 1 x) n d

/-- FEX2: exact for an integer whose power is an FP32 value, else within 2 ulp (Table 10.5, Table 10.6; DESIGN CHOICE, safe;
log entry 7). -/
def fex2Of (x : Word) : Word :=
  match fval x with
  | .nan => 0x7FC00000#32
  | .inf s => if s then 0 else 0x7F800000#32
  | .fin s n d =>
    if n % d = 0 ∧ n / d ≤ 149 ∧ (s = true ∨ n / d ≤ 127) then
      fword (Fmt.round .fp32 .rne .none (XVal.scaled false 1 (XVal.snum s (n / d))))
    else let e := exp2Encl s n d; e.pick (e.ulps 2) false (Config.transcendental 3 x)

/-- FLG2: exact for powers of two, within 2^-22 from 0.5 to 2 and 2 ulp elsewhere (Table 10.5, Table 10.6; DESIGN CHOICE,
safe; log entry 7). -/
def flg2Of (x : Word) : Word :=
  match fval x with
  | .nan => 0x7FC00000#32
  | .inf s => if s then 0x7FC00000#32 else 0x7F800000#32
  | .fin s n d =>
    if n = 0 then 0xFF800000#32
    else if s then 0x7FC00000#32
    else match powerOf2 n d with
      | some k => fword (Fmt.round .fp32 .rne .none (XVal.ofInt k))
      | none =>
        let e := log2Encl n d
        e.pick (if d ≤ 2 * n ∧ n ≤ 2 * d then (1, 2 ^ 22) else e.ulps 2) false (Config.transcendental 4 x)

/-- FSIN: within 2^-21, in [-1, 1] (Table 10.5, Table 10.6). -/
def fsinOf (x : Word) : Word :=
  match fval x with
  | .fin s n d => if n = 0 then x else (sinEncl s n d).pick (1, 2 ^ 21) true (Config.transcendental 5 x)
  | _ => 0x7FC00000#32

/-- FCOS: within 2^-21, in [-1, 1] (Table 10.5, Table 10.6). -/
def fcosOf (x : Word) : Word :=
  match fval x with
  | .fin _ n d => if n = 0 then 0x3F800000#32 else (cosEncl n d).pick (1, 2 ^ 21) true (Config.transcendental 6 x)
  | _ => 0x7FC00000#32

/-- FTANH: ±1 from 10 on, else within 2^-21, in [-1, 1] (Table 10.5, Table 10.6). -/
def ftanhOf (x : Word) : Word :=
  match fval x with
  | .nan => 0x7FC00000#32
  | .inf s => if s then 0xBF800000#32 else 0x3F800000#32
  | .fin s n d =>
    if n = 0 then x
    else if 10 * d ≤ n then (if s then 0xBF800000#32 else 0x3F800000#32)
    else (tanhEncl s n d).pick (1, 2 ^ 21) true (Config.transcendental 7 x)

/-- FRND: an integer as FP32; a zero result keeps the sign (R211). -/
def frndOf (mode : Rounding) (x : Word) : Word :=
  match fval x with
  | .nan => 0x7FC00000#32
  | .inf _ => x
  | .fin s n d => fword (Fmt.round .fp32 .rne .none (.fin s (roundInt mode s n d).natAbs 1))

/-- FRCP (R210). -/
def execFrcp (d a : Reg) (s : State) : Answer := .next (s.writeD s.act d fun l => frcpOf s.rounding (s.rd a l))

/-- FRSQ (R210). -/
def execFrsq (d a : Reg) (s : State) : Answer := .next (s.writeD s.act d fun l => frsqOf (s.rd a l))

/-- FSQRT (R210). -/
def execFsqrt (d a : Reg) (s : State) : Answer := .next (s.writeD s.act d fun l => fsqrt32 s.rounding (s.rd a l))

/-- FEX2 (R210). -/
def execFex2 (d a : Reg) (s : State) : Answer := .next (s.writeD s.act d fun l => fex2Of (s.rd a l))

/-- FLG2 (R210). -/
def execFlg2 (d a : Reg) (s : State) : Answer := .next (s.writeD s.act d fun l => flg2Of (s.rd a l))

/-- FSIN (R210). -/
def execFsin (d a : Reg) (s : State) : Answer := .next (s.writeD s.act d fun l => fsinOf (s.rd a l))

/-- FCOS (R210). -/
def execFcos (d a : Reg) (s : State) : Answer := .next (s.writeD s.act d fun l => fcosOf (s.rd a l))

/-- FTANH (R210). -/
def execFtanh (d a : Reg) (s : State) : Answer := .next (s.writeD s.act d fun l => ftanhOf (s.rd a l))

/-- FRND.RN (R211). -/
def execFrndRn (d a : Reg) (s : State) : Answer := .next (s.writeD s.act d fun l => frndOf .rne (s.rd a l))

/-- FRND.RZ (R211). -/
def execFrndRz (d a : Reg) (s : State) : Answer := .next (s.writeD s.act d fun l => frndOf .rz (s.rd a l))

/-- FRND.RM (R211). -/
def execFrndRm (d a : Reg) (s : State) : Answer := .next (s.writeD s.act d fun l => frndOf .rm (s.rd a l))

/-- FRND.RP (R211). -/
def execFrndRp (d a : Reg) (s : State) : Answer := .next (s.writeD s.act d fun l => frndOf .rp (s.rd a l))

/-- I2F (R211). -/
def execI2f (d a : Reg) (s : State) : Answer :=
  .next (s.writeD s.act d fun l => fword (Fmt.convert .fp32 (XVal.ofInt (s.rd a l).toInt) s.rounding .none))

/-- F2I (R211). -/
def execF2i (d a : Reg) (s : State) : Answer :=
  .next (s.writeD s.act d fun l => BitVec.ofNat 32 (convertInt true 32 (fval (s.rd a l)) .rz true))

/-! ### Long forms (R205 to R209) -/

/-- FFMA (R205). -/
def execFfma (g : Guard) (m : FmaMods) (d a b c : Reg) (s : State) : Answer :=
  .next (s.run (needRnd m.rnd 39) fun s => s.writeD (s.actG g) d fun l =>
    let x := fmod m.negA m.absA (s.rd a l)
    let y := fmod m.negB m.absB (s.rd b l)
    let z := fmod m.negC m.absC (s.rd c l)
    fword (Fmt.convert .fp32 (XVal.add (s.rnd m.rnd) (XVal.mul x y) z) (s.rnd m.rnd) (unitSat m.sat)))

/-- The register form of XOP 0x11 (R206). -/
def State.floatLong (s : State) (op : Nat) (g : Guard) (m : FloatMods) (d a b : Reg) : State :=
  s.run (needRnd m.rnd 39) fun s => s.writeD (s.actG g) d fun l =>
    let x := fmod m.negA m.absA (s.rd a l)
    let y := fmod m.negB m.absB (s.rd b l)
    fword (Fmt.convert .fp32 (floatOp op (s.rnd m.rnd) x y) (s.rnd m.rnd) (unitSat m.sat))

/-- FADD, register form (R206). -/
def execFaddLong (g : Guard) (m : FloatMods) (d a b : Reg) (s : State) : Answer := .next (s.floatLong 0 g m d a b)

/-- FSUB, register form (R206). -/
def execFsubLong (g : Guard) (m : FloatMods) (d a b : Reg) (s : State) : Answer := .next (s.floatLong 1 g m d a b)

/-- FMUL, register form (R206). -/
def execFmulLong (g : Guard) (m : FloatMods) (d a b : Reg) (s : State) : Answer := .next (s.floatLong 2 g m d a b)

/-- FMIN, register form (R206). -/
def execFminLong (g : Guard) (m : FloatMods) (d a b : Reg) (s : State) : Answer := .next (s.floatLong 3 g m d a b)

/-- FMAX, register form (R206). -/
def execFmaxLong (g : Guard) (m : FloatMods) (d a b : Reg) (s : State) : Answer := .next (s.floatLong 4 g m d a b)

/-- The immediate form of XOP 0x11: one register is destination and first source (R206). -/
def State.floatImm (s : State) (op : Nat) (g : Guard) (da : Reg) (imm : Word) : State :=
  s.writeD (s.actG g) da fun l => float32 op s.rounding (s.rd da l) imm

/-- FADD with an immediate (R206). -/
def execFaddImm (g : Guard) (da : Reg) (imm : Word) (s : State) : Answer := .next (s.floatImm 0 g da imm)

/-- FSUB with an immediate (R206). -/
def execFsubImm (g : Guard) (da : Reg) (imm : Word) (s : State) : Answer := .next (s.floatImm 1 g da imm)

/-- FMUL with an immediate (R206). -/
def execFmulImm (g : Guard) (da : Reg) (imm : Word) (s : State) : Answer := .next (s.floatImm 2 g da imm)

/-- FMIN with an immediate (R206). -/
def execFminImm (g : Guard) (da : Reg) (imm : Word) (s : State) : Answer := .next (s.floatImm 3 g da imm)

/-- FMAX with an immediate (R206). -/
def execFmaxImm (g : Guard) (da : Reg) (imm : Word) (s : State) : Answer := .next (s.floatImm 4 g da imm)

/-- The element of B that BSEL gives element `i` (R207). -/
def bselHalf (bsel : BitVec 2) (b : Word) (i : Nat) : Nat :=
  match bsel.toNat with
  | 0 => half b i
  | 1 => half b 0
  | 2 => half b 1
  | _ => half b (1 - i)

/-- HFMA2 and BFMA2 on one lane's words (R207). -/
def fma2 (f : Fmt) (m : PackedMods) (mode : Rounding) (a b c : Word) : Word :=
  let v := fun neg code => f.decode (modCode f neg false code)
  let e := fun i => f.convert
    (XVal.add mode (XVal.mul (v m.negA (half a i)) (v m.negB (bselHalf m.bsel b i))) (v m.negC (half c i))) mode
    (unitSat m.sat)
  pack2 (e 0) (e 1)

/-- HFMA2 (R207). -/
def execHfma2 (g : Guard) (m : PackedMods) (d a b c : Reg) (s : State) : Answer :=
  .next (s.run (needRnd m.rnd 39) fun s => s.writeD (s.actG g) d fun l =>
    fma2 .fp16 m (s.rnd m.rnd) (s.rd a l) (s.rd b l) (s.rd c l))

/-- BFMA2 (R207). -/
def execBfma2 (g : Guard) (m : PackedMods) (d a b c : Reg) (s : State) : Answer :=
  .next (s.run (needRnd m.rnd 39) fun s => s.writeD (s.actG g) d fun l =>
    fma2 .bf16 m (s.rnd m.rnd) (s.rd a l) (s.rd b l) (s.rd c l))

/-- Format of an FCLASS TYPE (R209). -/
def classFmt (type : BitVec 3) : Fmt :=
  match type.toNat with
  | 0 => .fp32
  | 1 => .fp16
  | 2 => .bf16
  | 3 => .e5m2
  | _ => .e4m3

/-- The one-hot class of a code (R209). -/
def classify (f : Fmt) (code : Nat) : Word :=
  let sub := decide (code % 2 ^ (f.width - 1) < 2 ^ f.fbits)
  let bit := match f.decode code with
    | .nan => 8
    | .inf s => if s then 0 else 7
    | .fin s n _ => if n = 0 then (if s then 3 else 4) else if sub then (if s then 2 else 5) else if s then 1 else 6
  BitVec.twoPow 32 bit

/-- FCLASS (R209, R403). -/
def execFclass (g : Guard) (type : BitVec 3) (d a : Reg) (s : State) : Answer :=
  .next (s.run (needBelow type.toNat 5 32) fun s => s.writeD (s.actG g) d fun l =>
    classify (classFmt type) ((s.rd a l).toNat % 2 ^ (classFmt type).width))

/-! ### CVT (R212 to R215) -/

/-- A CVT format code (Table 10.7). -/
inductive CvtFmt where
  | flt (f : Fmt)
  | int (signed : Bool) (w : Nat)
  | block
  deriving DecidableEq, Repr

/-- Table 10.7. -/
def cvtFmt (c : BitVec 4) : CvtFmt :=
  match c.toNat with
  | 0 => .flt .fp32
  | 1 => .flt .fp16
  | 2 => .flt .bf16
  | 3 => .flt .e4m3
  | 4 => .flt .e5m2
  | 5 => .block
  | 6 => .int true 8
  | 7 => .int false 8
  | 8 => .int true 16
  | 9 => .int false 16
  | 10 => .int true 32
  | 11 => .int false 32
  | 12 => .int true 64
  | _ => .int false 64

/-- Width in bits of an element. -/
def CvtFmt.width : CvtFmt → Nat
  | .flt f => f.width
  | .int _ w => w
  | .block => 4

/-- The source code: element SSEL of A (R213, R215). -/
def cvtCode (f : CvtFmt) (ssel : BitVec 3) (a : DWord) : Nat :=
  let w := f.width
  if 32 ≤ w then a.toNat % 2 ^ w else a.toNat % 2 ^ 32 / 2 ^ (w * (ssel.toNat % (32 / w))) % 2 ^ w

/-- The exact value of the source element; B gives an E2M1X code its scale and extra byte (R215). -/
def cvtValue (f : CvtFmt) (code : Nat) (b : Word) : XVal :=
  match f with
  | .flt f => f.decode code
  | .int sg w => XVal.ofInt (if sg then signedNat w code else code)
  | .block => decodeE2M1X code (b.toNat % 256) (b.toNat / 256 % 256)

/-- The modifiers combine illegally (Table 10.9, R409). -/
def cvtIllegal (df sf : CvtFmt) (sat : BitVec 2) (merge : Bool) : Bool :=
  (match df, sf with
    | .block, .flt f => f == .e4m3 || f == .e5m2
    | .block, _ => true
    | .flt f, .block => f == .e4m3 || f == .e5m2
    | .int _ _, .block => true
    | _, _ => false)
  || (match df, sf with
    | .int _ _, .flt _ => sat != 0
    | .int _ _, .block => sat != 0
    | .int _ _, .int _ _ => sat == 2
    | .block, _ => sat != 0
    | _, _ => false)
  || (sf == .block && merge)

/-- The result code of a float or integer destination, fallbacks included (R214, R409). -/
def cvtResult (df sf : CvtFmt) (mode : Rounding) (sat : BitVec 2) (x : XVal) : Nat :=
  match df, sf with
  | .flt f, .block =>
    if f == .e4m3 || f == .e5m2 then
      f.convert x mode (if sat = 0 then .none else if sat = 1 then .unit else .fmt)
    else f.convert x .rne .none
  | .flt f, _ => f.convert x mode (if sat = 0 then .none else if sat = 1 then .unit else .fmt)
  | .int sg w, .int _ _ =>
    match x with
    | .fin s n _ => let v := XVal.snum s n; wrapNat w (if sat = 0 then v else clampInt sg w v)
    | _ => 0
  | .int sg w, _ => convertInt sg w x mode true
  | .block, _ => 0

/-- The value of D with element DSEL set and the others from `rest` (R213). -/
def placeElem (w : Nat) (dsel : BitVec 2) (code : Nat) (rest : Word) : Word :=
  let sh := w * (dsel.toNat % (32 / w))
  let mask : Word := BitVec.ofNat 32 ((2 ^ w - 1) * 2 ^ sh)
  (rest &&& ~~~mask) ||| BitVec.ofNat 32 (code % 2 ^ w * 2 ^ sh)

/-- What CVT to .e2m1x writes in a lane: codes in the first four lanes of a block, the metadata in the others (R215).
(DEDUCED, unsafe; log entry 30.) -/
def blockWord (b : Block) (i : Nat) : Word :=
  if i < 4 then (List.range 8).foldl (fun r j => r ||| BitVec.ofNat 32 (b.codes.getD (8 * i + j) 0 * 16 ^ j)) 0
  else BitVec.ofNat 32 (b.extra * 256 + b.scale)

/-- The checks of CVT (R403, R410). -/
def cvtTraps (df sf : BitVec 4) (rnd : BitVec 3) (sat : BitVec 2) (d a : Reg) : List Trap :=
  needBelow df.toNat 14 41 ++ needBelow sf.toNat 14 37 ++ needRnd rnd 34 ++ needBelow sat.toNat 3 32
    ++ (if 12 ≤ df.toNat then needPair d 25 else []) ++ (if 12 ≤ sf.toNat then needPair a 18 else [])

/-- CVT (R212 to R215, R409). (DEDUCED, unsafe; log entry 30.) R215 does not say which element of D a CVT from .e2m1x
writes: here element DSEL (DESIGN CHOICE, unsafe; log entry 77). Nor does R409 say whether an illegal combination sets
MODFB where no lane is active: here it does not (DESIGN CHOICE, unsafe; log entry 78). -/
def execCvt (g : Guard) (df sf : BitVec 4) (rnd : BitVec 3) (sat : BitVec 2) (merge : Bool) (dsel : BitVec 2)
    (ssel : BitVec 3) (d a b : Reg) (s : State) : Answer :=
  let F := cvtFmt df
  let G := cvtFmt sf
  let value := fun (s : State) l =>
    cvtValue G (cvtCode G ssel (if 12 ≤ sf.toNat then s.rd2 a l else (s.rd a l).setWidth 64)) (s.rd b l)
  let act := fun (s : State) =>
    let ls := s.actG g
    let s := s.modfb (!ls.isEmpty && cvtIllegal F G sat merge)
    match F with
    | .block =>
      let block := fun n => convertBlock ((List.range 32).map fun i =>
        if ls.contains (32 * n + i) then value s (32 * n + i) else XVal.zero false)
      s.writeD ls d fun l => blockWord (block (l / 32)) (l % 32)
    | _ =>
      let code := fun l => cvtResult F G (s.rnd rnd) sat (value s l)
      if F.width = 64 then s.writeD2 ls d fun l => BitVec.ofNat 64 (code l)
      else if F.width = 32 then s.writeD ls d fun l => BitVec.ofNat 32 (code l)
      else s.writeD ls d fun l =>
        placeElem F.width dsel (code l) (if merge && G != .block then s.rd b l else 0)
  .next (if df = 5 then s.runWide 3 (cvtTraps df sf rnd sat d a) act else s.run (cvtTraps df sf rnd sat d a) act)

end Sys2Proof.Machine
end

