-- ==== Sys2Proof/Machine/Lanes.lean ====
section
/-!
DEFINITION. Machine/Lanes.lean: the cross-lane instructions (R216 to R223): XOP 0x20 to 0x26. Each forces a fuse to its
minimum width and combines the lanes of aligned segments of that width.
-/

namespace Sys2Proof.Machine

/-- Has a lane of the wave exited (R216)? -/
def State.gone (s : State) (l : Nat) : Bool := s.wave.exited.getLsbD l

/-- The contributing lanes of the segment of a lane, in ascending order (R216). -/
def segment (ls : List Nat) (w l : Nat) : List Nat := ls.filter fun i => i / w == l / w

/-- A mask of positions in a segment (R216). -/
def positions (w : Nat) (ls : List Nat) : DWord := ls.foldl (fun m i => m ||| BitVec.twoPow 64 (i % w)) 0

/-- Write a mask of positions: a pair at width 64, else one register (R216). -/
def State.writeMask (s : State) (w : Nat) (ls : List Nat) (d : Reg) (f : Nat → DWord) : State :=
  if w = 64 then s.writeD2 ls d f else s.writeD ls d fun l => (f l).setWidth 32

/-- Source position of SHFL: n mod w, below, above, exclusive-or (R217). -/
def shflFrom (mode : BitVec 2) (w j n : Nat) : Int :=
  match mode.toNat with
  | 0 => ((n % w : Nat) : Int)
  | 1 => (j : Int) - n
  | 2 => (j : Int) + n
  | _ => ((j ^^^ n : Nat) : Int)

/-- SHFL (R217). -/
def execShfl (g : Guard) (minw : BitVec 3) (mode : BitVec 2) (imm : Bool) (limm : BitVec 6) (zf : Bool) (d a b : Reg)
    (s : State) : Answer :=
  .next (s.runWide minw.toNat [] fun s => s.writeD (s.actG g) d fun l =>
    let w := widthOf minw.toNat
    let n := if imm then limm.toNat else (s.rd b l).toNat % 64
    let t := shflFrom mode w (l % w) n
    let from' := l / w * w + t.toNat
    if 0 ≤ t ∧ t < w ∧ s.gone from' = false then s.rd a from' else if zf then 0 else s.rd a l)

/-- QSWZ (R218). -/
def execQswz (g : Guard) (minw : BitVec 3) (pattern : BitVec 8) (d a : Reg) (s : State) : Answer :=
  .next (s.runWide minw.toNat [] fun s => s.writeD (s.actG g) d fun l =>
    let from' := l / 4 * 4 + pattern.toNat / 4 ^ (l % 4) % 4
    if s.gone from' then s.rd a l else s.rd a from')

/-- VOTE: any, all, ballot, equal as 0 to 3 (R219). -/
def execVote (g : Guard) (minw : BitVec 3) (mode : BitVec 2) (ps : BitVec 3) (psneg : Bool) (pd : BitVec 3) (cnt : Bool)
    (d : Reg) (s : State) : Answer :=
  .next (s.runWide minw.toNat (if mode = 2 ∧ minw = 4 ∧ cnt = false then needPair d 25 else []) fun s =>
    let w := widthOf minw.toNat
    let ls := s.actG g
    let v := fun l => s.src.p l ps.toNat != psneg
    let yes := fun l => (segment ls w l).filter v
    if mode = 2 then
      if cnt then s.writeD ls d fun l => BitVec.ofNat 32 (yes l).length
      else s.writeMask w ls d fun l => positions w (yes l)
    else s.writeP ls pd fun l =>
      let n := (segment ls w l).length
      let k := (yes l).length
      if mode = 0 then k != 0 else if mode = 1 then k == n else k == 0 || k == n)

/-- MATCH: the mask or the rank of the group of equal values, and its leader's predicate (R220). -/
def execMatchLanes (g : Guard) (minw : BitVec 3) (rank wide : Bool) (pd : BitVec 3) (d a : Reg) (s : State) : Answer :=
  .next (s.runWide minw.toNat
    ((if minw = 4 ∧ rank = false then needPair d 25 else []) ++ (if wide then needPair a 18 else [])) fun s =>
      let w := widthOf minw.toNat
      let ls := s.actG g
      let v := fun l => if wide then s.rd2 a l else (s.rd a l).setWidth 64
      let group := fun l => (segment ls w l).filter fun i => v i == v l
      let s' := if rank then s.writeD ls d fun l =>
          let grp := group l
          BitVec.ofNat 32 ((grp.filter fun i => decide (i < l)).length + grp.length * 2 ^ 8 + grp.headD l % w * 2 ^ 16)
        else s.writeMask w ls d fun l => positions w (group l)
      s'.writeP ls pd fun l => (group l).headD l == l)

/-- The operations of REDUX and SCAN: add, min, max, and, or, xor as 0 to 5 (R221). -/
def reduce2 (op : BitVec 3) (signed : Bool) (x y : Word) : Word :=
  let le := if signed then x.sle y else x.ule y
  match op.toNat with
  | 0 => x + y
  | 1 => if le then x else y
  | 2 => if le then y else x
  | 3 => x &&& y
  | 4 => x ||| y
  | _ => x ^^^ y

/-- Their identities (R221). -/
def reduceId (op : BitVec 3) (signed : Bool) : Word :=
  match op.toNat with
  | 1 => if signed then 0x7FFFFFFF#32 else 0xFFFFFFFF#32
  | 2 => if signed then 0x80000000#32 else 0
  | 3 => 0xFFFFFFFF#32
  | _ => 0

/-- Combine a list of values in order (R221). -/
def reduceAll (op : BitVec 3) (signed : Bool) (xs : List Word) : Word := xs.foldl (reduce2 op signed) (reduceId op signed)

/-- REDUX (R221). -/
def execRedux (g : Guard) (minw op : BitVec 3) (signed : Bool) (d a : Reg) (s : State) : Answer :=
  .next (s.runWide minw.toNat (needBelow op.toNat 6 35) fun s =>
    let ls := s.actG g
    s.writeD ls d fun l => reduceAll op signed ((segment ls (widthOf minw.toNat) l).map (s.rd a)))

/-- SCAN, inclusive or exclusive (R221). -/
def execScan (g : Guard) (minw op : BitVec 3) (signed exc : Bool) (d a : Reg) (s : State) : Answer :=
  .next (s.runWide minw.toNat (needBelow op.toNat 6 35) fun s =>
    let ls := s.actG g
    s.writeD ls d fun l => reduceAll op signed
      (((segment ls (widthOf minw.toNat) l).filter fun i => if exc then decide (i < l) else decide (i ≤ l)).map (s.rd a)))

/-- ELECT (R222). -/
def execElect (g : Guard) (minw pd : BitVec 3) (wd high : Bool) (d : Reg) (s : State) : Answer :=
  .next (s.runWide minw.toNat [] fun s =>
    let ls := s.actG g
    let chosen := fun l =>
      let seg := segment ls (widthOf minw.toNat) l
      if high then seg.getLastD l else seg.headD l
    let s' := s.writeP ls pd fun l => chosen l == l
    if wd then s'.writeD ls d fun l => BitVec.ofNat 32 (chosen l) else s')

end Sys2Proof.Machine
end

