-- ==== Sys2Proof/Machine/Control.lean ====
section
/-!
DEFINITION. Machine/Control.lean: branches, the deferred-path stack, FUSE and REGANG, barriers, rings, waiting, special
registers and the debugging instructions (R47 to R59, R180 to R195).
-/

namespace Sys2Proof.Machine

/-! ### Redirecting and splitting the issuing part -/

/-- The issuing part goes whole to an index; to another than the index after its chain it issues no earlier than the
second cycle after (R184). -/
def State.goto (s : State) (pc : Word) : State :=
  { s with iss := { s.iss with moved := true } }.onPart fun p => { p.to pc with
    came := s.iss.pc, serial := none, delay := if pc = s.iss.next then p.delay else max p.delay 2 }

/-- The issuing part is not redirected: it goes on after its chain (R141), or with the next instruction of one that issues
serially (R407). -/
def State.fall (s : State) : State := s.onPart fun p => p.to s.iss.next

/-- The issuing part becomes several, each with its index (R46, R47). -/
def State.scatter (s : State) (new : List Part) : State :=
  ({ s with iss := { s.iss with moved := true } }.splitPart s.iss.entry new)

/-- Make every part of the wave in focus wait for the moves its quads have to make (R50). -/
def State.waitMoves (s : State) : State :=
  s.onWave fun w => { w with parts := w.parts.map fun p => { p with delay := delayFor w p.members p.delay } }

/-- Push entries on the stack of a quad, the first on top (R47, R48). -/
def State.pushQuad (s : State) (q : Nat) (ds : List DefEntry) : State :=
  s.onWave fun w => { w with quads := w.quads.upd q fun d => { d with stack := ds ++ d.stack } }

/-- The DIVOVF trap when a quad has no room for the entries it must push (R411). -/
def State.needRoom (s : State) (pushes : List (Nat × Nat)) : List Trap :=
  let full := (pushes.filter fun x => decide (0 < x.2) && !hasRoom s.wg.launch (s.wave.quads.get x.1) x.2).map Prod.fst
  match distinct full with
  | [] => []
  | q :: qs => [⟨0x10, q + (quadMask (q :: qs)).toNat * 2 ^ 4, 0⟩]

/-- The Pennant copy of a part whose quads pushed: DIVSPILL when a stack held 8 entries (R50). -/
def spillFlag (w : Wave) (qs : List Nat) (n : Nat → Nat) (m : BitVec 10) : BitVec 10 :=
  if qs.any fun q => decide (0 < n q) && decide (8 < (w.quads.get q).stack.length + n q) then m ||| flagDivspill else m

/-- A part for some quads of the issuing part that go to an index (R46). -/
def branchPart (p : Part) (from' pc : Word) (r : Reason) (qs : List Nat) (masks : BitVec 64) : Part :=
  { p.to pc with
    members := quadMask qs, masks := masks &&& spread (quadMask qs), reason := r, came := from'
    serial := none, delay := 2 }

/-- BRC, BRL and CALL to a target with the taken lanes given (R47, R180). -/
def State.branch (s : State) (target : Word) (fuseId : BitVec 8) (taken : List Nat) : State :=
  let p := s.part
  let act := lanesOf p.lanes
  if act.all taken.contains then s.goto target
  else if taken = [] then s.fall
  else
    let tk := maskOf taken
    let qs := quadsOf p.members
    let t := qs.filter fun q => nibble p.masks q != 0 && nibble p.masks q &&& ~~~(nibble tk q) == 0
    let n := qs.filter fun q => nibble p.masks q &&& nibble tk q == 0
    let m := qs.filter fun q => !t.contains q && !n.contains q
    s.run (s.needRoom (m.map fun q => (q, 1))) fun s =>
      let one := fun q => if m.contains q then 1 else 0
      let pt := branchPart p s.iss.pc target .brT t p.masks
      let pn := { branchPart p s.iss.pc s.iss.next .brN n p.masks with serial := p.serial }
      let pm := { branchPart p s.iss.pc target .brM m (p.masks &&& tk) with
        pennant := spillFlag s.wave m one p.pennant }
      let s' := m.foldl (fun s q => s.pushQuad q
        [⟨false, nibble p.masks q &&& ~~~(nibble tk q), nibble p.masks q, fuseId, s.iss.next⟩]) s
      (s'.scatter [pt, pn, pm]).waitMoves

/-- BRC (R180). (DEDUCED, unsafe; log entry 64.) -/
def execBrc (g : Guard) (off : BitVec 13) (fuseId : BitVec 8) (s : State) : Answer :=
  .next (s.branch (s.iss.pc + off.signExtend 32) fuseId (s.actG g))

/-- BRA: BRC whose guard always holds; it never splits (R47, R180). -/
def execBra (off : BitVec 13) (_fuseId : BitVec 8) (s : State) : Answer := .next (s.goto (s.iss.pc + off.signExtend 32))

/-- BRL (R180). (DEDUCED, unsafe; log entry 64.) -/
def execBrl (g : Guard) (off : BitVec 24) (fuseId : BitVec 8) (s : State) : Answer :=
  .next (s.branch (s.iss.pc + off.signExtend 32) fuseId (s.actG g))

/-- CALL: every member quad with a taken lane writes the index after the chain to its `k31`, then the branch (R181). A
push without room traps before anything is written (R399, R411). -/
def execCall (g : Guard) (off : BitVec 24) (fuseId : BitVec 8) (s : State) : Answer :=
  let taken := s.actG g
  let r := s.branch (s.iss.pc + off.signExtend 32) fuseId taken
  let link := fun (rf : RegFile) => (distinct (taken.map (· / 4))).foldl (fun rf q => rf.setK q 31 s.iss.next) rf
  .next (if r.iss.trapped then r else { r with wave := { r.wave with rf := link r.wave.rf } })

/-- RET: each member quad goes to its own copy of `k31` (R181). Of several parts the one for the lowest target keeps the old
entry, as after a BRX: R46 orders no parts of a RET (DESIGN CHOICE, unsafe; log entry 73). -/
def execRet (s : State) : Answer :=
  let p := s.part
  let go := (quadsOf p.members).map fun q => (q, s.src.k q 31, nibble p.masks q)
  .next (match distinct (go.map fun x => x.2.1.toNat) with
    | [] => s
    | [pc] => s.goto (BitVec.ofNat 32 pc)
    | _ => s.scatter (partsByIndex { p with came := s.iss.pc } .brT go))

/-- The targets of a quad at a BRX with the lanes that name each, ascending (R48); one with no active lane goes to the
index after the chain. -/
def brxTargets (target : Nat → Word) (next : Word) (q : Nat) (mask : BitVec 4) : List (Word × BitVec 4) :=
  let ls := (List.range 4).filter fun i => mask.getLsbD i
  if ls = [] then [(next, 0)]
  else (distinct (ls.map fun i => (target (4 * q + i)).toNat)).map fun t =>
    (BitVec.ofNat 32 t, (ls.filter fun i => (target (4 * q + i)).toNat == t).foldl
      (fun m i => m ||| BitVec.twoPow 4 i) 0)

/-- BRX (R48, R182). -/
def execBrx (g : Guard) (fuseId : BitVec 8) (a : Reg) (s : State) : Answer :=
  let p := s.part
  let taken := s.actG g
  let target := fun l => if taken.contains l then s.rd a l else s.iss.next
  let qs := (quadsOf p.members).map fun q => (q, brxTargets target s.iss.next q (nibble p.masks q))
  let all := distinct (qs.flatMap fun x => x.2.map fun t => t.1.toNat)
  .next (match all with
    | [pc] => s.goto (BitVec.ofNat 32 pc)
    | _ => s.run (s.needRoom (qs.map fun x => (x.1, x.2.length - 1))) fun s =>
      let pushes := fun q => ((qs.find? fun x => x.1 == q).map fun x => x.2.length - 1).getD 0
      let mixed := fun (m : BitVec 16) => (quadsOf m).any fun q => decide (0 < pushes q)
      let go := qs.map fun x => (x.1, (x.2.headD (0, 0)).1, (x.2.headD (0, 0)).2)
      let s' := qs.foldl (fun s x => s.pushQuad x.1
        ((x.2.drop 1).map fun t => ⟨false, t.2, nibble p.masks x.1, fuseId, t.1⟩)) s
      let parts := (partsByIndex { p with came := s.iss.pc } .brT go).map fun n =>
        if mixed n.members then
          { n with reason := .brM, pennant := spillFlag s.wave (quadsOf n.members) pushes n.pennant } else n
      (s'.scatter parts).waitMoves)

/-- EXIT: the active lanes exit (R55, R183). -/
def execExit (s : State) : Answer := .next (s.exitLanes s.iss.entry s.iss.lanes)

/-! ### FUSE and REGANG -/

/-- FUSE (R52 to R55): quads divert, pop or arrive; a class 0 group waits for nobody. -/
def execFuse (cls : BitVec 4) (id : BitVec 8) (s : State) : Answer :=
  let p := s.part
  let acts := (quadsOf p.members).map fun q =>
    (q, fuseQuad id s.iss.pc (nibble s.wave.exited q) (fullStack s.wg s.wave q) (nibble p.masks q))
  let go := acts.filterMap fun a => match a.2 with
    | .divert _ m pc => some (a.1, pc, m)
    | _ => none
  let come := acts.filterMap fun a => match a.2 with
    | .arrive _ m => some (a.1, m)
    | _ => none
  let quads := acts.foldl (fun (t : Cells Quad) a => t.upd a.1 fun d => d.withStack (match a.2 with
    | .divert st _ _ => st
    | .arrive st _ => st)) s.wave.quads
  let s' := s.onWave fun w => { w with quads := quads }
  let away := partsByIndex { p with came := s.iss.pc } .defer go
  let here : Part := { p with
    members := quadMask (come.map Prod.fst), masks := come.foldl (fun m x => setNibble m x.1 x.2) 0
    pc := s.iss.pc, after := some s.iss.next, fws := .fuse, waitId := id.toNat, cls := cls.toNat
    clock := ((s.wave.parts.find? fun q => q.fws == .fuse && q.pc == s.iss.pc).map Part.clock).getD 0 }
  .next (match come, away with
    | [], [one] => (s'.splitPart s.iss.entry [{ one with reason := p.reason }]).waitMoves
    | [], _ => (s'.splitPart s.iss.entry away).waitMoves
    | _, _ =>
      if cls = 0 then
        let on : Part := { here with
          pc := s.iss.next, after := none, fws := .run, waitId := 0, cls := 0, clock := 0, delay := max 2 p.delay
          reason := s.wave.reasonFor here.members p.reason }
        (s'.splitPart s.iss.entry (on :: away)).waitMoves
      else ((s'.splitPart s.iss.entry (here :: away)).waitMoves).settle)

/-- REGANG: the wait and merge of a forced fuse, and no other effect; the merged part goes on after its chain (R59,
R141). -/
def execRegang (width : BitVec 3) (s : State) : Answer :=
  .next (s.run (s.needWidth width.toNat) fun s => (s.gather width.toNat (some s.iss.next)).2)

/-! ### Counters, barriers and rings -/

/-- Does every checked class of the issuing part meet its bound (R69)? -/
def State.waitMet (s : State) (m : BitVec 16) (ldc stc cpc cbc rtc : BitVec 4) : Bool :=
  let ok := fun (n : BitVec 4) c => n == 15 || decide (s.wave.count m c ≤ n.toNat)
  ok ldc .ldc && ok stc .stc && ok cpc .cpc && ok cbc .cbc && ok rtc .rtc

/-- WAITCNT: the part waits until its counters are within the bounds (R69, R185), before its chain issues (R139). -/
def execWaitcnt (ldc stc cpc cbc rtc : BitVec 4) (s : State) : Answer :=
  .next (if s.iss.waited || s.waitMet s.iss.members ldc stc cpc cbc rtc then s else s.stall)

/-- BADBAR (R410, Table 25.1). -/
def State.needBarrier (s : State) (id : BitVec 4) (exp : Nat) : List Trap :=
  require (decide (id.toNat < s.wg.launch.barriers) && decide (exp ≤ 32)) ⟨0x13, id.toNat + exp * 2 ^ 4, 0⟩

/-- BAR.ARV: the quads arrive and the part goes on (R30, R186). A new arrival stalls while an earlier one of the wave is
pending (R31). -/
def execBarArv (id : BitVec 4) (exp : BitVec 10) (s : State) : Answer :=
  .next (s.run (s.needBarrier id exp.toNat) fun s =>
    if !s.iss.waited && arrivalPending s.wg s.wave id.toNat then s.stall
    else (s.release 1).barrierQuads id.toNat exp.toNat s.iss.members)

/-- BAR.WAIT: the part waits for the phase in progress to pass; it then issues and goes on (R31, R139; DEDUCED,
unsafe; log entry 20). -/
def execBarWait (id : BitVec 4) (s : State) : Answer :=
  .next (s.run (s.needBarrier id 0) fun s =>
    if s.part.hold = .passed then s.onPart fun p => { p with hold := .none }
    else s.stall.onPart fun p => { p with hold := .barrier id.toNat (s.wg.barriers.get id.toNat).phase true })

/-- BAR.SYNC: the quads arrive, and the part waits for the phase (R30, R141, R186). -/
def execBarSync (id : BitVec 4) (exp : BitVec 10) (s : State) : Answer :=
  .next (s.run (s.needBarrier id exp.toNat) fun s =>
    if !s.iss.waited && arrivalPending s.wg s.wave id.toNat then s.stall
    else
      let phase := (s.wg.barriers.get id.toNat).phase
      ((s.release 1).onPart fun p => { p with hold := .barrier id.toNat phase false }).barrierQuads id.toNat exp.toNat
        s.iss.members)

/-- RINGBAD for a ring that is not declared (R410, Table 25.1). -/
def State.needRing (s : State) (q : BitVec 2) (slot : Nat) : List Trap :=
  require (ringOf s.wg q.toNat).valid ⟨0x14, q.toNat + slot % 16 * 2 ^ 4, 0⟩

/-- The slot that the next claim of the wave's stage takes, and whether it is free for the stage (R36). -/
def State.nextSlot (s : State) (q : Nat) : Nat × Bool :=
  let st := stageOf s.wg s.wave
  let i := s.wg.cursors.get (8 * q + st)
  let sl := s.wg.slots.get (16 * q + i)
  (i, sl.owner == st && !sl.full)

/-- The wave claims the cursor of its stage (R36). -/
def State.claim (s : State) (q : Nat) : State :=
  let k := 8 * q + stageOf s.wg s.wave
  let i := s.wg.cursors.get k
  { s with wg := { s.wg with cursors := s.wg.cursors.set k ((i + 1) % max 1 (ringOf s.wg q).slots) } }

/-- The wave takes a slot (R36). -/
def State.hold (s : State) (q i : Nat) : State :=
  { s with wg := { s.wg with slots := s.wg.slots.set (16 * q + i) ⟨true, stageOf s.wg s.wave, some s.wave.id, false⟩ } }

/-- The part waits for a slot that its wave has claimed (R36). -/
def State.waitSlot (s : State) (q i : Nat) : State := s.stall.onPart fun p => { p with hold := .ring q i }

/-- Does a part of the workgroup wait for a slot (R36)? -/
def State.slotWanted (s : State) (q i : Nat) : Bool :=
  s.allWaves.any fun w => w.wg == s.wg.id && w.parts.any fun p => p.hold == .ring q i

/-- STAGE.ACQ: after a fuse to the wave's width the wave claims a slot and waits for it; then its index goes to D (R36,
R139, R188). One that claims a slot for which another waits tests it with that one, once every claim of the cycle is made
(R38). -/
def execStageAcq (g : Guard) (q : BitVec 2) (d : Reg) (s : State) : Answer :=
  .next (s.runWhole (s.needRing q 0) fun s =>
    let ls := s.actG g
    if ls = [] then s
    else match s.part.hold with
      | .got i => (s.writeD ls d fun _ => BitVec.ofNat 32 i).onPart fun p => { p with hold := .none }
      | _ =>
        let n := s.nextSlot q.toNat
        let s' := s.claim q.toNat
        if n.2 && !s.slotWanted q.toNat n.1 then (s'.hold q.toNat n.1).writeD ls d fun _ => BitVec.ofNat 32 n.1
        else s'.waitSlot q.toNat n.1)

/-- Does the wave in focus hold a slot with no engine release pending on it (R410)? -/
def State.holds (s : State) (q i : Nat) : Bool :=
  let sl := s.wg.slots.get (16 * q + i)
  decide (i < (ringOf s.wg q).slots) && sl.full && sl.holder == some s.wave.id && !sl.pending

/-- STAGE.REL of the slot that the leader names (R36, R188). -/
def execStageRel (g : Guard) (q : BitVec 2) (a : Reg) (s : State) : Answer :=
  let named := ((s.actG g).head?.map fun l => (s.rd a l).toNat).getD 0
  .next (s.runWhole (s.needRing q named) fun s =>
    match s.actG g with
    | [] => s
    | l :: _ =>
      let i := (s.rd a l).toNat
      s.run (require (s.holds q.toNat i) ⟨0x14, q.toNat + i % 16 * 2 ^ 4, 0⟩) fun s =>
        (s.release 1).releaseSlot s.wg.id q.toNat i (stageOf s.wg s.wave))

/-- RTT: take the slot if it is free, and say so (R189). -/
def execRtt (g : Guard) (q : BitVec 2) (pd : BitVec 3) (d : Reg) (s : State) : Answer :=
  .next (s.runWhole (s.needRing q 0) fun s =>
    let ls := s.actG g
    if ls = [] then s
    else
      let n := s.nextSlot q.toNat
      if n.2 then
        ((((s.claim q.toNat).hold q.toNat n.1).writeD ls d fun _ => BitVec.ofNat 32 n.1).writeP ls pd fun _ => true)
      else s.writeP ls pd fun _ => false)

/-! ### Scheduling, debugging and ordering -/

/-- YIELD: when a yield is requested the part stops with its live-tile mask, and goes on after its chain at resume
(R190, R343); one that keeps another instruction of its chain reissues that first (R401). The mask is the leader quad's copy of the k register; a part with no active lane has no leader, and records
quad 0's copy (DESIGN CHOICE, unsafe; log entry 74). -/
def execYield (k : BitVec 5) (noTiles : Bool) (s : State) : Answer :=
  .next (if (s.ctx s.wg.ctx).yieldReq then
      s.onPart fun p => { p with
        pc := if p.redo.isSome then p.pc else s.iss.pc
        after := if p.redo.isSome then p.after else some s.iss.next
        hold := .yielded (if noTiles then 0 else s.kOf k.toNat (s.act.headD 0)) }
    else s)

/-- TRAP (R193); a code below 0x80 is reserved (R403). -/
def execTrap (code : BitVec 16) (s : State) : Answer :=
  .next (s.takeTrap (if code.toNat < 0x80 then badVal 0 code.toNat else ⟨code.toNat, 0, 0⟩))

/-- BRK: a debug stop when the context's debug enable is set (R194). -/
def execBrk (tag : BitVec 16) (s : State) : Answer := .next (if s.debugOn then s.debugStop tag.toNat else s)

/-- SLEEP: the part is not ready for 16 n cycles (R191). -/
def execSleep (n : BitVec 16) (s : State) : Answer :=
  .next (if n = 0 then s else s.onPart fun p => { p with hold := .sleep (16 * n.toNat) })

/-- SETPRIO (R192). -/
def execSetprio (p : BitVec 3) (s : State) : Answer := .next (s.onIssued fun q => { q with prio := p })

/-- The engine commands that the issuing part has outstanding (R127). -/
def State.engineCmds (s : State) : List Nat :=
  s.wave.ops.filterMap fun o => match o.kind with
    | .engine _ c => if !o.done && (o.quads &&& s.iss.members) != 0 then some c else none
    | _ => none

/-- FENCE (R121, R123, R127): 0 full, 1 acquire, 2 release, 3 engine-publish order. -/
def execFence (scope kind : BitVec 3) (s : State) : Answer :=
  .next (s.run (needBelow scope.toNat 6 0 ++ needBelow kind.toNat 4 3) fun s =>
    match kind.toNat with
    | 0 => if s.iss.waited || s.drained .ldc then (s.release scope.toNat).acquire scope.toNat else s.stall
    | 1 => if s.iss.waited || s.drained .ldc then s.acquire scope.toNat else s.stall
    | 2 => s.release scope.toNat
    | _ => (s.release scope.toNat).onIssued fun p => { p with fenced := s.engineCmds ++ p.fenced })

/-! ### Special registers -/

/-- What a special register reads in a lane (Table 4.4): those of the part as its chain issued (R140). -/
def State.specialReg (s : State) (id lane : Nat) : Word :=
  let l := s.wg.launch
  let g := s.gridOf s.wg.grid
  let act := s.iss.lanes
  let q := s.wave.quads.get (lane / 4)
  match id with
  | 0x00 => BitVec.ofNat 32 lane
  | 0x01 => BitVec.ofNat 32 (lane / 4)
  | 0x02 => BitVec.ofNat 32 s.wave.num
  | 0x03 => BitVec.ofNat 32 s.wave.width
  | 0x04 => BitVec.ofNat 32 { s.part with members := s.iss.members }.word
  | 0x05 => BitVec.ofNat 32 (stageOf s.wg s.wave)
  | 0x06 => BitVec.ofNat 32 s.wg.x
  | 0x07 => BitVec.ofNat 32 s.wg.y
  | 0x08 => BitVec.ofNat 32 s.wg.z
  | 0x09 => BitVec.ofNat 32 l.nwgx
  | 0x0A => BitVec.ofNat 32 l.nwgy
  | 0x0B => BitVec.ofNat 32 l.nwgz
  | 0x0C => BitVec.ofNat 32 s.wg.rank
  | 0x0D => BitVec.ofNat 32 (l.cw % 16 + l.ch % 16 * 2 ^ 4 + l.cw * l.ch * 2 ^ 8)
  | 0x0E => BitVec.ofNat 32 g.place
  | 0x0F => BitVec.ofNat 32 (max 1 g.span.length)
  | 0x10 => BitVec.ofNat 32 s.clock
  | 0x11 => q.clockHi.getD (BitVec.ofNat 32 (s.clock / 2 ^ 32))
  | 0x12 => if (s.ctx s.wg.ctx).yieldReq then 1 else 0
  | 0x13 => if q.resumed then 1 else 0
  | 0x14 => s.iss.pennant.setWidth 32
  | 0x15 => if s.iss.assist then 1 else 0
  | 0x16 => BitVec.ofNat 32 g.gen
  | 0x17 => act.setWidth 32
  | 0x18 => (act >>> 32).setWidth 32
  | 0x19 => (s.ctx s.wg.ctx).capbase
  | 0x1A => BitVec.ofNat 32 l.param
  | 0x1B => BitVec.ofNat 32 (l.param / 2 ^ 32)
  | 0x1C => BitVec.ofNat 32 (coreWord s.wg.core)
  | 0x1D => s.iss.round.setWidth 32
  | 0x1E => BitVec.ofNat 32 (4096 * l.scratch)
  | _ => BitVec.ofNat 32 l.waves

/-- What reading a special register leaves in the quads that read it: the latched clock (R71), the cleared
`SR_RESUMED` (R72). -/
def State.afterRead (s : State) (id : Nat) (ls : List Nat) : State :=
  let f : Quad → Quad := match id with
    | 0x10 => fun q => { q with clockHi := some (BitVec.ofNat 32 (s.clock / 2 ^ 32)) }
    | 0x11 => fun q => { q with clockHi := none }
    | 0x13 => fun q => { q with resumed := false }
    | _ => id'
  s.onWave fun w => { w with quads := (distinct (ls.map (· / 4))).foldl (fun t q => t.upd q f) w.quads }
where id' (q : Quad) : Quad := q

/-- GETSR (R70, R195). -/
def execGetsr (g : Guard) (id : BitVec 8) (d : Reg) (s : State) : Answer :=
  .next (s.run (require (decide (id.toNat < 0x20)) ⟨0x05, id.toNat, 0⟩) fun s =>
    let ls := s.actG g
    (s.writeD ls d (s.specialReg id.toNat)).afterRead id.toNat ls)

/-- SETSR: the leader's value; a read-only register discards it and sets MODFB (R45, R70, R73, R195, R409, R416). -/
def execSetsr (g : Guard) (id : BitVec 8) (a : Reg) (s : State) : Answer :=
  .next (s.run (require (decide (id.toNat < 0x20)) ⟨0x05, id.toNat, 0⟩) fun s =>
    match s.actG g with
    | [] => s
    | l :: _ =>
      let x := s.rd a l
      match id.toNat with
      | 0x14 => s.onIssued fun p => { p with pennant := p.pennant &&& (~~~(x.setWidth 10) ||| s.iss.flags) }
      | 0x15 => { s with wave := { s.wave with assist := x.getLsbD 0 } }
      | 0x1D => { s with wave := { s.wave with round := x.setWidth 2 } }
      | _ => s.modfb true)

end Sys2Proof.Machine
end

