-- ==== Sys2Proof/Machine/Memory.lean ====
section
/-!
DEFINITION. Machine/Memory.lean: loads, stores, atomics, prefetch and cache control (R89 to R99, R224 to R236). A load
reads at issue and writes its registers on completion; a store updates its own L1 at issue and its home on completion, or
before it when a later access of its core must see it there (R93, R118; DESIGN CHOICE, unsafe; log entry 15).
-/

namespace Sys2Proof.Machine

/-! ### The checks of an instruction's lanes (R418) -/

/-- One lane's access: lane, address, fate. -/
abbrev LaneFate := Nat × Nat × Fate

/-- The trap of an instruction whose lanes meet codes: the lowest code, the lanes that meet it, the address of the
lowest (R418, Table 26.1). -/
def lanesTrap (fs : List LaneFate) : List Trap :=
  let codes := fs.filterMap fun f => match f.2.2 with
    | .trap c d => some (f.1, f.2.1, c, d)
    | _ => none
  match codes with
  | [] => []
  | c :: cs =>
    let code := cs.foldl (fun m x => min m x.2.2.1) c.2.2.1
    let those := codes.filter fun x => x.2.2.1 == code
    match those with
    | [] => []
    | x :: _ => [⟨code, if code = 0x25 then x.2.2.2.toNat else (maskOf (those.map Prod.fst)).toNat, x.2.1⟩]

/-- The lanes that pass. -/
def lanesOk (fs : List LaneFate) : List Nat := fs.filterMap fun f => match f.2.2 with
  | .hit => some f.1
  | .ok .. => some f.1
  | _ => none

/-- The lanes that met a page that is not present. -/
def lanesAbsent (fs : List LaneFate) : List Absent := fs.filterMap fun f => match f.2.2 with
  | .absent level pte => some ⟨f.1, f.2.1, level, pte⟩
  | _ => none

/-- A poisoned page-table entry that a walk read. -/
def lanesPoison (fs : List LaneFate) : Option Nat := (fs.filterMap fun f => match f.2.2 with
  | .poisoned a => some a
  | _ => none).head?

/-- What an instruction leaves to be completed for some of its lanes: their quads, what completion does, whether an access
missed in L2 (R56), the window it goes to (R97), and the miss registers it holds (R12). -/
structure Share where
  quads : BitVec 16
  lanes : List Nat
  kind : OpKind
  missed : Bool
  target : Nat
  misses : Nat
  deriving DecidableEq, Repr, Inhabited

/-- One share for all lanes of the instruction in issue, which misses nothing. -/
def State.share (s : State) (lanes : List Nat) (kind : OpKind) (target : Nat) : Share :=
  ⟨s.iss.members, lanes, kind, false, target, 0⟩

/-- The operation of a share. -/
def Share.fill (r : Share) (o : Op) : Op :=
  { o with quads := r.quads, missed := r.missed, target := r.target, misses := r.misses }

/-- The register writes of a share are those its lanes own (R64). -/
def OpKind.own (k : OpKind) (act done : BitVec 64) : OpKind :=
  match k with
  | .regs ws => .regs (ownWrites act done ws)
  | k => k

/-- Issue the operations of an instruction: it counts once, and its lanes complete with their own operation (R56, R236). -/
def State.issueShares (s : State) (cls : OpClass) (regs : List Nat) (act done : BitVec 64) (r : Share) (rs : List Share) :
    Nat × State :=
  let o := s.issueOp cls regs r.lanes (r.kind.own act done) r.fill
  (o.1, rs.foldl (fun s r => (s.issueBeside o.1 cls regs r.lanes (r.kind.own act done) r.fill).2) o.2)

/-- Run a memory instruction: its traps; else the accesses of the lanes that pass, and the others park (R57, R236, R418).
With no lane it does nothing (R63). `act` performs the accesses and says what completion does, in one share or more. A lane's
walk that reads poison kills the context, after the trap of another lane (R398, R424). -/
def State.memOp (s : State) (traps : List Trap) (ls : List Nat) (addr : Nat → Nat) (check : Nat → Fate) (kind : Nat)
    (cls : OpClass) (regs : List Nat) (act : State → List Nat → Share × List Share × State) : State :=
  if traps = [] ∧ ls = [] then s
  else
    let fs := ls.map fun l => (l, addr l, check l)
    let kill := fun (t : State) => match lanesPoison fs with
      | some a => t.walkPoison s.wg.ctx a s.wg.grid
      | none => t
    if traps = [] ∧ lanesTrap fs ≠ [] then kill (s.run (lanesTrap fs) id)
    else s.run traps fun s =>
      if (lanesPoison fs).isSome then kill s
      else
        let all := s.actAll ls
        match lanesOk fs with
        | [] => s.parkOp (lanesAbsent fs) kind cls regs none all
        | ok =>
          let r := act s ok
          let o := r.2.2.issueShares cls regs all (maskOf ok) r.1 r.2.1
          o.2.parkOp (lanesAbsent fs) kind cls regs (some o.1) all

/-! ### Global loads and stores -/

/-- Loads of lanes, in ascending order, and what each returned (R225). -/
def State.loadEach (s : State) (n : Nat) (addr : Nat → Nat) (hint : Nat) (home : Bool) :
    List Nat → List (Nat × Loaded) × State
  | [] => ([], s)
  | l :: ls =>
    let r := s.loadVa s.wg.core s.wg.ctx s.wg.grid (addr l) n hint home
    let t := State.loadEach r.2 n addr hint home ls
    ((l, r.1) :: t.1, t.2)

/-- Loads of lanes: every lane of a line that one of them missed waits on that miss (R56). -/
def State.loadLanes (s : State) (n : Nat) (addr : Nat → Nat) (hint : Nat) (home : Bool) (ls : List Nat) :
    List (Nat × Loaded) × State :=
  let r := s.loadEach n addr hint home ls
  let late := fun (va : Nat) => r.1.any fun y => y.2.missed && addr y.1 / 128 == va / 128
  (r.1.map fun x => (x.1, { x.2 with missed := late (addr x.1) }), r.2)

/-- The register writes of loads (R225). -/
def loadWrites (size : BitVec 3) (d : Reg) (xs : List (Nat × Loaded)) : List RegWrite :=
  regWrites (xs.flatMap fun x => (loadWords size x.2.bytes).zipIdx.map fun w => (x.1, d.toNat + w.2, w.1, x.2.bad))

/-- The share of some loads, of the quads given. -/
def loadShare (size : BitVec 3) (d : Reg) (quads : BitVec 16) (xs : List (Nat × Loaded)) : Share :=
  ⟨quads, xs.map Prod.fst, .regs (loadWrites size d xs), xs.any fun x => x.2.missed, 0,
    (distinct (xs.filterMap fun x => x.2.line)).length⟩

/-- The shares of a load: one, or under the policy `.split miss` one of the quads whose lanes all hit in L2 and one of the
quads that wait on a miss (R56). -/
def State.loadShares (s : State) (size : BitVec 3) (d : Reg) (xs : List (Nat × Loaded)) : Share × List Share :=
  let slow := quadsWith (maskOf ((xs.filter fun x => x.2.missed).map Prod.fst))
  let late := fun (x : Nat × Loaded) => slow.getLsbD (x.1 / 4)
  if s.wg.launch.splitMiss ∧ slow ≠ 0 ∧ slow ≠ s.iss.members then
    (loadShare size d (s.iss.members &&& ~~~slow) (xs.filter fun x => !late x), [loadShare size d slow (xs.filter late)])
  else (loadShare size d s.iss.members xs, [])

/-- A global load (R225, R227): an acquire at DEVICE scope or wider is performed at the home slice, and one at CLUSTER
or wider then invalidates the L1 (R124). -/
def State.globalLoad (s : State) (traps : List Trap) (ls : List Nat) (size : BitVec 3) (acq : Bool) (scope hint : Nat)
    (d : Reg) (addr : Nat → Nat) : State :=
  let home := acq && decide (3 ≤ scope)
  s.memOp traps ls addr (fun l => s.checkLoad s.wg.core s.wg.ctx (addr l) (sizeBytes size) home) 1 .ldc
    (runOf d (sizeRegs size)) fun s ok =>
      let r := s.loadLanes (sizeBytes size) addr hint home ok
      let t := s.loadShares size d r.1
      (t.1, t.2, if acq then r.2.acquire scope else r.2)

/-- Stores of lanes, in ascending order (R117): the steps at the home slices. -/
def State.storeLanes (s : State) (addr : Nat → Nat) (bytes : Nat → List Byte) (hint : Nat) :
    List Nat → List HomeStep × State
  | [] => ([], s)
  | l :: ls =>
    let r := s.storeVa s.wg.core s.wg.ctx (addr l) hint (bytes l)
    let t := State.storeLanes r.2 addr bytes hint ls
    (r.1 ++ t.1, t.2)

/-- A global store (R225, R227); a release first (R124). -/
def State.globalStore (s : State) (traps : List Trap) (ls : List Nat) (size : BitVec 3) (rel : Bool) (scope hint : Nat)
    (d : Reg) (addr : Nat → Nat) : State :=
  s.memOp traps ls addr (fun l => s.checkStore s.wg.core s.wg.ctx (addr l) (sizeBytes size)) 2 .stc [] fun s ok =>
    let s := if rel then s.release scope else s
    let r := s.storeLanes addr (s.storeBytes size d) hint ok
    (s.share ok (.home r.1) 0, [], r.2)

/-- LD, short form (R226). -/
def execLd (d a : Reg) (size : BitVec 3) (off : BitVec 8) (s : State) : Answer :=
  .next (s.globalLoad (needData size d 8 18 ++ needPair a 11) s.act size false 0 0 d
    (s.globalAddr a (BitVec.ofNat 64 (msOff size off))))

/-- ST, short form (R226). -/
def execSt (d a : Reg) (size : BitVec 3) (off : BitVec 8) (s : State) : Answer :=
  .next (s.globalStore (needData size d 8 18 ++ needPair a 11) s.act size false 0 0 d
    (s.globalAddr a (BitVec.ofNat 64 (msOff size off))))

/-- LD, long form; an ordering other than acquire runs as an acquire (R227, R409). -/
def execLdLong (g : Guard) (m : GlobalMods) (d a : Reg) (off : BitVec 18) (s : State) : Answer :=
  .next ((s.globalLoad (needData m.size d 42 25 ++ needBelow m.scope.toNat 6 37 ++ needPair a 18) (s.actG g) m.size
    (m.ord != 0) m.scope.toNat m.hint.toNat d (s.globalAddr a (off.signExtend 64))).modfb' (decide (2 ≤ m.ord.toNat)) s)

/-- ST, long form; an ordering other than release runs as a release (R227, R409). -/
def execStLong (g : Guard) (m : GlobalMods) (d a : Reg) (off : BitVec 18) (s : State) : Answer :=
  .next ((s.globalStore (needData m.size d 42 25 ++ needBelow m.scope.toNat 6 37 ++ needPair a 18) (s.actG g) m.size
    (m.ord != 0) m.scope.toNat m.hint.toNat d (s.globalAddr a (off.signExtend 64))).modfb' (m.ord.getLsbD 0) s)

/-! ### The parameter block (R91, R229) -/

/-- LDK of an offset in the parameter block (R224, R229). -/
def State.paramLoad (s : State) (traps : List Trap) (ls : List Nat) (size : BitVec 3) (d : Reg) (off : Nat → Nat) : State :=
  let n := sizeBytes size
  let addr := fun l => (s.wg.launch.param + off l) % 2 ^ 64
  let out := fun l => decide (4096 < off l + n)
  s.memOp traps ls (fun l => if out l then off l else addr l)
    (fun l => if out l then .trap 0x22 0 else s.checkLoad s.wg.core s.wg.ctx (addr l) n false) 1 .ldc
    (runOf d (sizeRegs size)) fun s ok =>
      let r := s.loadLanes n addr 0 false ok
      let t := s.loadShares size d r.1
      (t.1, t.2, r.2)

/-- LDK, short form (R226). (DEDUCED, unsafe; log entry 34.) -/
def execLdk (d a : Reg) (size : BitVec 3) (off : BitVec 8) (s : State) : Answer :=
  .next (s.paramLoad (needData size d 8 18) s.act size d (s.localAddr a (BitVec.ofNat 32 (msOff size off))))

/-- LDK, long form (R229). (DEDUCED, unsafe; log entry 34.) -/
def execLdkLong (g : Guard) (size : BitVec 3) (d a : Reg) (off : BitVec 12) (s : State) : Answer :=
  .next (s.paramLoad (needData size d 42 25) (s.actG g) size d (s.localAddr a (off.setWidth 32)))

/-! ### Scratchpad (R95 to R97, R126) -/

/-- The core at a hop, when it holds a member of the issuing workgroup's cluster (R27, R97). -/
def hopCore (g : WG) (dx dy : Int) : Option Nat :=
  let x : Int := (g.rank % max 1 g.launch.cw : Nat) + dx
  let y : Int := (g.rank / max 1 g.launch.cw : Nat) + dy
  if -11 ≤ dx ∧ dx ≤ 11 ∧ -11 ≤ dy ∧ dy ≤ 11 ∧ 0 ≤ x ∧ x < g.launch.cw ∧ 0 ≤ y ∧ y < g.launch.ch then
    some ((g.core : Int) + dx + 16 * dy).toNat
  else none

/-- The member at a hop, while it has not wholly exited (R422). -/
def State.hopWg (s : State) (dx dy : Int) : Option Nat :=
  if dx = 0 ∧ dy = 0 then some s.wg.id
  else match hopCore s.wg dx dy with
    | some c => (s.allWgs.find? fun g => g.cluster == s.wg.cluster && g.core == c && g.live != []).map WG.id
    | none => none

/-- The checks of a scratch access of a lane: RANGE, MISALIGN (R224, R418, Table 26.1). -/
def State.checkScratch (s : State) (dx dy : Int) (off n : Nat) : Fate :=
  if (hopCore s.wg dx dy).isNone && !(dx == 0 && dy == 0) then .trap 0x22 0
  else if 4096 * s.wg.launch.scratch < off + n then .trap 0x22 0
  else if off % n != 0 then .trap 0x21 0
  else .hit

/-- LDS (R225, R226, R228): reads the window after every store on its way there (R97); 0 where the member is gone
(R422). -/
def State.scratchLoad (s : State) (traps : List Trap) (ls : List Nat) (size : BitVec 3) (acq : Bool) (scope : Nat) (d : Reg)
    (dx dy : Int) (off : Nat → Nat) : State :=
  let n := sizeBytes size
  s.memOp traps ls off (fun l => s.checkScratch dx dy (off l) n) 1 .ldc (runOf d (sizeRegs size)) fun s ok =>
    let s := match s.hopWg dx dy with
      | some w => s.flushWindow w
      | none => s
    let bytes := fun l => match s.hopWg dx dy with
      | some w => (s.wgOf w).scratch.read (off l) n
      | none => List.replicate n 0
    let ws := ok.flatMap fun l => (loadWords size (bytes l)).zipIdx.map fun w => (l, d.toNat + w.2, w.1, false)
    (s.share ok (.regs (regWrites ws)) 0, [], if acq then s.acquire (min scope 2) else s)

/-- STS (R225, R226, R228): applied later, in order (R97); discarded where the member is gone (R422). -/
def State.scratchStore (s : State) (traps : List Trap) (ls : List Nat) (size : BitVec 3) (rel : Bool) (scope : Nat) (d : Reg)
    (dx dy : Int) (off : Nat → Nat) : State :=
  s.memOp traps ls off (fun l => s.checkScratch dx dy (off l) (sizeBytes size)) 2 .stc [] fun s ok =>
    let s := if rel then s.release (min scope 2) else s
    match s.hopWg dx dy with
    | some w => (s.share ok (.home (ok.map fun l => ⟨off l, s.storeBytes size d l, none, 0⟩)) (w + 1), [], s)
    | none => (s.share ok (.home []) 0, [], s)

/-- LDS, short form (R226). -/
def execLds (d a : Reg) (size : BitVec 3) (off : BitVec 8) (s : State) : Answer :=
  .next (s.scratchLoad (needData size d 8 18) s.act size false 0 d 0 0 (s.localAddr a (BitVec.ofNat 32 (msOff size off))))

/-- STS, short form (R226). -/
def execSts (d a : Reg) (size : BitVec 3) (off : BitVec 8) (s : State) : Answer :=
  .next (s.scratchStore (needData size d 8 18) s.act size false 0 d 0 0 (s.localAddr a (BitVec.ofNat 32 (msOff size off))))

/-- LDS, long form (R228, R409). -/
def execLdsLong (g : Guard) (m : ScratchMods) (d a : Reg) (off : BitVec 13) (s : State) : Answer :=
  .next ((s.scratchLoad (needData m.size d 42 25 ++ needBelow m.scope.toNat 6 37) (s.actG g) m.size (m.ord != 0)
    m.scope.toNat d m.dx.toInt m.dy.toInt (s.localAddr a (off.signExtend 32))).modfb' (decide (2 ≤ m.ord.toNat)) s)

/-- STS, long form (R228, R409). -/
def execStsLong (g : Guard) (m : ScratchMods) (d a : Reg) (off : BitVec 13) (s : State) : Answer :=
  .next ((s.scratchStore (needData m.size d 42 25 ++ needBelow m.scope.toNat 6 37) (s.actG g) m.size (m.ord != 0)
    m.scope.toNat d m.dx.toInt m.dy.toInt (s.localAddr a (off.signExtend 32))).modfb' (m.ord.getLsbD 0) s)

/-! ### Atomics (R230 to R233) -/

/-- The operand of an atomic in a lane. -/
def State.atomOperand (s : State) (type : Nat) (r : Reg) (lane : Nat) : Nat :=
  if type < 2 then (s.rd r lane).toNat else (s.rd2 r lane).toNat

/-- The steps of an ATOM, in ascending lane number; each lane receives what its own step read. One on a poisoned
sector is not applied, and marks its destination (R233, R424). -/
def State.atomLanes (s : State) (aop type : Nat) (addr b c : Nat → Nat) (d : Reg) :
    List Nat → List (Nat × Nat × Word × Bool) × State
  | [] => ([], s)
  | l :: ls =>
    let r := s.atomicVa s.wg.core s.wg.ctx (addr l)
    let n := atomicBytes type
    match r.1 with
    | none => State.atomLanes r.2 aop type addr b c d ls
    | some (pa, cp) =>
      let old := r.2.readNat pa n
      let bad := r.2.poisoned pa n
      let s := if bad then r.2.consumed pa 2 s.wg.ctx s.wg.grid
        else r.2.writeHome cp pa (leBytes n (applyAtomic aop type old (b l) (c l)))
      let ws := (List.range (n / 4)).map fun i => (l, d.toNat + i, BitVec.ofNat 32 (old / 2 ^ (32 * i)), bad)
      let t := State.atomLanes s aop type addr b c d ls
      (ws ++ t.1, t.2)

/-- Field checks of ATOM and RED (R231, R403, R410). -/
def needAtom (m : AtomicMods) (a b c : Reg) : List Trap :=
  needBelow m.aop.toNat 13 41 ++ needBelow m.scope.toNat 6 36 ++ needPair a 18
    ++ (if atomType m.aop m.type < 2 then [] else needPair b 11 ++ if m.aop = 7 then needPair c 4 else [])

/-- Acquire and release bits of an ordering: 1 acq, 2 rel, 3 both (Table 11.1). -/
abbrev ordAcq (o : BitVec 2) : Bool := o.getLsbD 0
abbrev ordRel (o : BitVec 2) : Bool := o.getLsbD 1

/-- ATOM: performed at the home slice at issue; D is written on completion (R231). -/
def execAtom (g : Guard) (m : AtomicMods) (d a b c : Reg) (s : State) : Answer :=
  let type := atomType m.aop m.type
  let addr := s.globalAddr a 0
  .next ((s.memOp (needAtom m a b c ++ if type < 2 then [] else needPair d 25) (s.actG g) addr
    (fun l => s.checkVa (sectOf s.wg.core) s.wg.ctx (addr l) (atomicBytes type) ⟨true, true, false, false⟩) 3 .ldc
    (runOf d (if type < 2 then 1 else 2)) fun s ok =>
      let s := (if ordRel m.ord then s.release m.scope.toNat else s).flushCore s.wg.core
      let r := s.atomLanes m.aop.toNat type addr (s.atomOperand type b) (s.atomOperand type c) d ok
      (s.share ok (.regs (regWrites r.1)) 0, [], if ordAcq m.ord then r.2.acquire m.scope.toNat else r.2)).modfb'
    (type != m.type.toNat) s)

/-- RED: performed at the home slice, on its way like a store (R231). -/
def execRed (g : Guard) (m : AtomicMods) (a b c : Reg) (s : State) : Answer :=
  let type := atomType m.aop m.type
  let addr := s.globalAddr a 0
  .next ((s.memOp (needAtom m a b c) (s.actG g) addr
    (fun l => s.checkVa (sectOf s.wg.core) s.wg.ctx (addr l) (atomicBytes type) ⟨false, true, false, false⟩) 2 .stc [] fun s ok =>
      let s := if m.ord = 0 then s else s.release m.scope.toNat
      let r := ok.foldl (fun (acc : List HomeStep × State) l =>
        let t := acc.2.atomicVa s.wg.core s.wg.ctx (addr l)
        match t.1 with
        | some (pa, cp) =>
          (acc.1 ++ [⟨pa, [], some (m.aop.toNat, type, s.atomOperand type b l, s.atomOperand type c l), cp⟩], t.2)
        | none => (acc.1, t.2)) ([], s)
      (s.share ok (.home r.1) 0, [], r.2)).modfb' (type != m.type.toNat || ordAcq m.ord) s)

/-- ATOMS (R232): a returning one reads and writes at issue, the others are applied later, in order (R97). -/
def execAtoms (g : Guard) (m : AtomicMods) (ret : Bool) (d a b : Reg) (dx dy : BitVec 5) (s : State) : Answer :=
  let type := atomsType m.aop m.type
  let off := s.localAddr a 0
  let args := fun (s : State) l => ((s.rd b l).toNat, if m.aop = 7 then (s.src.read l (b.toNat + 1)).toNat else 0)
  let scope := min m.scope.toNat 2
  .next ((s.memOp (needBelow m.aop.toNat 13 41 ++ needBelow m.scope.toNat 6 36 ++ if m.aop = 7 then needPair b 11 else [])
    (s.actG g) off (fun l => s.checkScratch dx.toInt dy.toInt (off l) 4) 3 (if ret then .ldc else .stc)
    (if ret then [d.toNat] else []) fun s ok =>
      let s := if ordRel m.ord || (!ret && m.ord != 0) then s.release scope else s
      let steps := ok.map fun l => (l, (⟨off l, [], some (m.aop.toNat, type, (args s l).1, (args s l).2), 0⟩ : HomeStep))
      match s.hopWg dx.toInt dy.toInt, ret with
      | none, false => (s.share ok (.home []) 0, [], s)
      | none, true =>
        (s.share ok (.regs (regWrites (ok.map fun l => (l, d.toNat, 0, false)))) 0, [],
          if ordAcq m.ord then s.acquire scope else s)
      | some w, false => (s.share ok (.home (steps.map Prod.snd)) (w + 1), [], s)
      | some w, true =>
        let r := steps.foldl (fun (acc : List (Nat × Nat × Word × Bool) × State) st =>
          let old := leValue ((acc.2.wgOf w).scratch.read st.2.addr 4)
          (acc.1 ++ [(st.1, d.toNat, BitVec.ofNat 32 old, false)], acc.2.scratchStep w st.2)) ([], s.flushWindow w)
        (s.share ok (.regs (regWrites r.1)) 0, [], if ordAcq m.ord then r.2.acquire scope else r.2)).modfb'
    (type != m.type.toNat || (!ret && ordAcq m.ord)) s)

/-! ### Prefetch and cache control (R234, R235) -/

/-- Prefetch the line of an address: to the L2, and to the L1 where the page and the hint allocate there (R98, R234). -/
def State.prefetch (s : State) (va hint : Nat) (l2only : Bool) : State :=
  let asid := (s.ctx s.wg.ctx).asid
  match (if l2only then none else lineOf (s.core s.wg.core) asid va) with
  | some l => s.useLine s.wg.core hint l
  | none =>
    match s.checkVa (sectOf s.wg.core) s.wg.ctx va 1 ⟨true, false, false, false⟩ with
    | .ok pte level =>
      let s := (s.touch (sectOf s.wg.core) s.wg.ctx va false).flushCore s.wg.core
      let pa := leafAddr pte level va
      let s := if pteCp pte = 3 then s else s.l2Touch pa hint (pteCp pte)
      if pteCp pte = 0 ∧ hint ≠ 3 ∧ l2only = false then s.fillLine s.wg.core asid va pa hint pte else s
    | _ => s

/-- The poisoned page-table entry that a walk for an address reads, where the TLB does not map it (R424). -/
def State.walkSpoilt (s : State) (va : Nat) : Option Nat :=
  match s.look (sectOf s.wg.core) s.wg.ctx va false with
  | .poison a => if canonical va then some a else none
  | _ => none

/-- A walk for one of some addresses that reads poison kills the context (R424). -/
def State.walksEnd (s before : State) (vas : List Nat) : State :=
  match vas.findSome? before.walkSpoilt with
  | some a => s.walkPoison before.wg.ctx a before.wg.grid
  | none => s

/-- PREF: never traps on an address, never parks, counts nowhere (R234); an ordering is ignored (R409). -/
def execPref (g : Guard) (ord : BitVec 2) (scope : BitVec 3) (hint : BitVec 2) (l2only : Bool) (a : Reg) (off : BitVec 18)
    (s : State) : Answer :=
  let addr := s.globalAddr a (off.signExtend 64)
  .next ((s.run (needBelow scope.toNat 6 37 ++ needPair a 18) fun s =>
    let walked := (s.actG g).filter fun l => l2only || (lineOf (s.core s.wg.core) (s.ctx s.wg.ctx).asid (addr l)).isNone
    ((s.actG g).foldl (fun s l => s.prefetch (addr l) hint.toNat l2only) s).walksEnd s (walked.map addr)).modfb' (ord != 0) s)

/-- The canonical-address check alone, which is all that CCTL makes (R235). -/
def checkCanonical (va : Nat) : Fate := if canonical va then .hit else .trap 0x20 0

/-- CCTL.INV: the lines leave the issuing core's L1 (R235). -/
def execCctlInv (g : Guard) (a : Reg) (off : BitVec 18) (s : State) : Answer :=
  let addr := s.globalAddr a (off.signExtend 64)
  .next (s.memOp (needPair a 18) (s.actG g) addr (fun l => checkCanonical (addr l)) 1 .stc [] fun s ok =>
    let asid := (s.ctx s.wg.ctx).asid
    (s.share ok (.home []) 0, [],
      ok.foldl (fun s l => s.dropLines s.wg.core fun x => x.asid == asid && x.va == addr l / 128) s))

/-- Clear the evict-last mark of a line in the issuing core's L1 and at its home slice (R235). -/
def State.demote (s : State) (va : Nat) : State :=
  let asid := (s.ctx s.wg.ctx).asid
  let s := s.onCore s.wg.core fun c => { c with
    l1 := c.l1.map fun x => if x.asid = asid ∧ x.va = va / 128 then { x with el := false } else x }
  match s.look (sectOf s.wg.core) s.wg.ctx va false with
  | .leaf pte _ level =>
    let pa := leafAddr pte level va
    { s with l2 := s.l2.upd (s.l2Set pa) fun t => t.map fun x => if x.1 = pa / 128 then (x.1, false, x.2.2) else x }
  | _ => s

/-- CCTL.DEMOTE (R235). -/
def execCctlDemote (g : Guard) (a : Reg) (off : BitVec 18) (s : State) : Answer :=
  let addr := s.globalAddr a (off.signExtend 64)
  .next (s.memOp (needPair a 18) (s.actG g) addr
    (fun l => match checkCanonical (addr l), s.walkSpoilt (addr l) with
      | .hit, some a => .poisoned a
      | f, _ => f) 1 .stc [] fun s ok =>
    (s.share ok (.home []) 0, [], ok.foldl (fun s l => s.demote (addr l)) s))

/-- CCTL.INVALL (R235). -/
def execCctlInvall (g : Guard) (s : State) : Answer :=
  .next (s.memOp [] (s.actG g) (fun _ => 0) (fun _ => .hit) 1 .stc [] fun s ok =>
    (s.share ok (.home []) 0, [], s.invalidateL1 s.wg.core))

end Sys2Proof.Machine
end

