-- ==== Sys2Proof/Machine/Fetch.lean ====
section
/-!
DEFINITION. Machine/Fetch.lean: fetching the chain at a part's program counter, and whether a part may issue it (R133 to
R143, R406 to R408, R421, R425, R456).
-/

namespace Sys2Proof.Machine

/-! ### Packets and chains (R133 to R138) -/

/-- Byte offset of a code index from the code base (R134). -/
def codeOffset (i : Nat) : Nat := i / 30 * 128 + i % 30 * 4

/-- The instruction that begins in a slot of a packet; none for a tail (R135, R136). A long head in slot 2 decodes as
PKTSTRADDLE (R406). -/
def slotOf (w0 w1 w2 : Word) (slot : Nat) : Option Decoded :=
  match slot with
  | 0 => some (decodeAt w0 (some w1))
  | 1 => if isHead w0 then none else some (decodeAt w1 (some w2))
  | _ => if !isHead w0 && isHead w1 then none else some (decodeAt w2 none)

/-- The chain from a code index, with each instruction's index (R138). -/
def chainFrom (w0 w1 w2 : Word) : Nat → Nat → List (Word × Decoded)
  | 0, _ => []
  | n + 1, i =>
    match slotOf w0 w1 w2 (i % 3) with
    | none => []
    | some d =>
      let j := i + d.len
      (BitVec.ofNat 32 i, d) :: (if d.ch && j % 3 != 0 then chainFrom w0 w1 w2 n j else [])

/-- How a fetch ends (R136, R408, R421, R425). -/
inductive Fetch where
  | chain (l : List (Word × Decoded))
  | trap (t : Trap)
  | absent (va level : Nat) (pte : DWord)
  | poisoned (addr : Nat)
  deriving DecidableEq, Repr

/-- The code line of an index, and whether the index lies outside the code heap (R134, R408). -/
def State.codeLine (s : State) (ctx i : Nat) : Nat := ((s.ctx ctx).codebase + i / 30 * 128) % 2 ^ 64

/-- Is the code line at an address poisoned in a core's L1 (R425)? -/
def State.lineSpoilt (s : State) (core ctx va : Nat) : Bool :=
  match lineOf (s.core core) (s.ctx ctx).asid va with
  | some l => l.bad != 0
  | none => false

/-- Fetch the chain at an index as code of a context, by a core: nothing is changed (R136; DEDUCED, unsafe; log entry
16). `came` is the index that a BADTARGET trap names. (DEDUCED, unsafe; log entry 63.) -/
def State.fetch (s : State) (core ctx i came : Nat) : Fetch :=
  let line := s.codeLine ctx i
  if 16384 * (s.ctx ctx).heapSize ≤ codeOffset i then .trap ⟨0x02, came, 0⟩
  else if i < 30 then .trap ⟨0x41, came, 0⟩
  else match s.checkVa (sectOf core) ctx line 128 ⟨false, false, true, false⟩ with
    | .hit => .trap ⟨0x02, came, 0⟩
    | .trap c d => .trap ⟨c, if c = 0x25 then d.toNat else 0, line⟩
    | .absent level pte => .absent line level pte
    | .poisoned a => .poisoned a
    | .ok pte level =>
      let pa := leafAddr pte level line
      if s.poisoned pa 128 || s.lineSpoilt core ctx line then .trap ⟨0x27, 2 ^ 14, line⟩
      else
        let w := fun k => BitVec.ofNat 32 (s.readNat (pa + i % 30 / 3 * 12 + 4 * k) 4)
        match chainFrom (w 0) (w 1) (w 2) 3 i with
        | [] => .trap ⟨0x02, came, 0⟩
        | l => .chain l

/-- A fetch that succeeds uses its page, and its line in the L2 (R100, R105). -/
def State.fetchTouch (s : State) (core ctx i : Nat) : State :=
  let line := s.codeLine ctx i
  let s := s.touch (sectOf core) ctx line false
  match s.look (sectOf core) ctx line false with
  | .leaf pte _ level => s.l2Lines (leafAddr pte level line) 128 (pteCp pte)
  | _ => s

/-! ### Serial issue (R407) -/

/-- Do two instructions contend for one pipe or port entry, VALU apart? -/
def samePipe (a b : Instr) : Bool :=
  let p := pipeOf a
  p != .none && p != .valu && p == pipeOf b

/-- Do two instructions write one register or predicate? -/
def sameDest (a b : Instr) : Bool :=
  (writesOf a).any (writesOf b).contains || (predsOf a).any (predsOf b).contains

/-- Does some pair of a list satisfy a relation? -/
def anyPair (r : Instr → Instr → Bool) : List Instr → Bool
  | [] => false
  | a :: l => l.any (r a) || anyPair r l

/-- A chain that is issued serially (R407). -/
def isSerial (l : List Instr) : Bool :=
  anyPair samePipe l || anyPair sameDest l || decide (2 < (l.filter fun i => pipeOf i == .valu).length)

/-- A CH of 1 that ties nothing: on an instruction whose last word lies in slot 2 (R407). -/
def looseChain (l : List (Word × Decoded)) : Bool := l.any fun x => x.2.ch && (x.1.toNat + x.2.len) % 3 == 0

/-- Index after a chain. -/
def chainEnd (l : List (Word × Decoded)) (pc : Word) : Word :=
  match l.getLast? with
  | some x => x.1 + BitVec.ofNat 32 x.2.len
  | none => pc

/-- What a part is to issue: the instructions, the index after them, whether CHAINFB is set, and the end of a chain that
it issues serially. -/
structure Slate where
  list : List (Word × Decoded)
  next : Word
  fallback : Bool
  serial : Option Word
  deriving DecidableEq, Repr

/-- Choose from the chain at the part's index: the one instruction of a reissue (R57, R142, R414), the next of a serial
chain (R407), else the chain. -/
def slateOf (p : Part) (l : List (Word × Decoded)) : Slate :=
  let one := l.take 1
  let after := chainEnd one p.pc
  let serial := p.serial.map Prod.fst
  match p.redo, serial with
  | some r, _ => ⟨one, r.next, false, if serial = some r.next then none else serial⟩
  | none, some e => ⟨one, after, false, if after = e then none else some e⟩
  | none, none =>
    if isSerial (l.map fun x => x.2.instr) then ⟨one, after, true, some (chainEnd l p.pc)⟩
    else ⟨l, chainEnd l p.pc, looseChain l, none⟩

/-! ### May a chain issue? (R139) -/

/-- Instructions of a partition that hold entries of its cube queue: those whose work has not begun (R14). -/
def State.cubeQueued (s : State) (w : Wave) : Nat :=
  let core := (s.wgOf w.wg).core
  let mine := fun (o : CubeOp) => (s.waveOf o.wave).partition == w.partition && o.ends.isNone && !o.assisted && !o.begun
  (distinct (((s.core core).cube.filter mine).map CubeOp.op)).length

/-- Has the issuing part an operation that reads or writes a scratchpad tile and has not retired (R285), or, for a release,
a CASTS whose writes are not made (R124)? (DEDUCED, safe; log entry 42.) -/
def State.tileBusy (s : State) (release : Bool) : Bool :=
  s.wave.ops.any fun o =>
    (o.quads &&& s.part.members) != 0 && (if release then o.tile == 2 && !o.done else o.tile != 0)

/-- Does an instruction read or write the scratchpad of the issuing workgroup (R285)? (DEDUCED, safe; log entry 42.) -/
def touchesScratch : Instr → Bool
  | .lds .. | .sts .. | .casts .. | .calds .. | .cpy .. => true
  | .ldsLong _ m _ _ _ => m.dx == 0 && m.dy == 0
  | .stsLong _ m _ _ _ => m.dx == 0 && m.dy == 0
  | .atoms _ _ _ _ _ _ dx dy => dx == 0 && dy == 0
  | .cube _ m _ => m.asrc
  | .cldb _ f => f.space
  | _ => false

/-- Does an instruction release, or arrive at a barrier, so that it waits for the part's CASTS (R124, R127, R285)? -/
def isRelease : Instr → Bool
  | .barArv .. | .barSync .. | .stageRel .. | .cpy .. | .coll .. | .shdw .. | .publish .. | .splatRun .. | .splatBwd ..
  | .cldb .. | .launch .. | .emit .. | .glaunch .. | .joinBlock .. => true
  | .fence _ k => k == 0 || k == 2
  | .stLong _ m _ _ _ => m.ord != 0
  | .stsLong _ m _ _ _ => m.ord != 0
  | .red _ m _ _ _ => m.ord != 0
  | .atom _ m _ _ _ _ => ordRel m.ord
  | .atoms _ m r _ _ _ _ _ => ordRel m.ord || (!r && m.ord != 0)
  | _ => false

/-- Does an instruction write global memory or the window? -/
def writesMemory : Instr → Bool
  | .st .. | .stLong .. | .sts .. | .stsLong .. | .red .. | .atom .. | .atoms .. | .casts .. => true
  | _ => false

/-- Has the issuing part a CLDB whose fill is still to be made? -/
def State.fillDue (s : State) : Bool :=
  s.wave.ops.any fun o => (o.quads &&& s.part.members) != 0 && o.cls == .cpc && !o.done && (match o.kind with
    | .cube _ => true
    | _ => false)

/-- Does an instruction wait for work of the part's earlier cube instructions: an access to the window for their tiles, a
release for what CASTS writes (R285), and a write or a release for the reads of CLDB, which return no write that comes after
them (R120, R128)? (DEDUCED, safe; log entry 42.) -/
def State.mustWait (s : State) (i : Instr) : Bool :=
  let fills := match i with
    | .cldb .. => true
    | _ => false
  (touchesScratch i && s.tileBusy false) || (isRelease i && s.tileBusy true)
    || ((writesMemory i || (isRelease i && !fills)) && s.fillDue)

/-- Miss registers of a core that its loads in flight hold (R12, R15). -/
def State.missesHeld (s : State) (core : Nat) : Nat :=
  (s.wavesOn core).foldl (fun n w => (w.ops.filter fun o => !o.done).foldl (fun n o => n + o.misses) n) 0

/-- Has the core a miss register for each line that a load of the issuing part may miss (R12, R15)? The manual does not say
what a load waits for when they run short (DESIGN CHOICE, safe; log entry 81). -/
def State.missesFree (s : State) : Bool :=
  decide (s.missesHeld s.wg.core + (lanesOf s.part.lanes).length ≤ 256)

/-- Does an instruction take effect at once, as its pipe, counters and waits allow (R14, R43, R69, R121, R139, R237,
R317)? The part and wave are those in focus. -/
def State.mayIssue (s : State) (i : Instr) : Bool :=
  let w := s.wave
  let m := s.part.members
  let sect := s.sect (sectOf s.wg.core)
  let c := classOf i
  let again := w.ops.any fun o => o.kind == .none && !o.done && o.cls == c && (o.quads &&& m) != 0
  (c == .uncounted || again || decide (w.total c < 63)) &&
  !s.mustWait i &&
  (match i with
    | .waitcnt a b c d e => s.waitMet m a b c d e
    | .fence _ k => 2 ≤ k.toNat || s.drained .ldc
    | .barArv id _ | .barSync id _ => !arrivalPending s.wg w id.toNat
    | .cpy .. | .coll .. | .shdw .. | .publish .. => decide ((sect.copyQ.filter fun c => !c.taken).length < 256)
    | .splatRun .. | .splatBwd .. => decide ((sect.splatQ.filter fun c => !c.taken).length < 16)
    | .cube .. | .cldb .. | .card .. | .cawr .. | .casts .. | .calds .. | .cazeroMask .. | .cazeroTile .. =>
      decide (s.cubeQueued w < 8)
    | .rayt .. | .raya .. | .tex .. | .texg .. | .tld .. | .texq .. =>
      decide (((s.core s.wg.core).rtQ.get w.partition).length < 8)
    | .ld .. | .ldLong .. | .ldk .. | .ldkLong .. => s.missesFree
    | _ => true)

/-- Is no register of an instruction on the part's scoreboard (R139)? A reissue does not wait for its own parked
operation (R236). -/
def State.scoreClear (s : State) (i : Instr) : Bool :=
  let m := s.part.members
  let own := if s.part.redo.isSome then
      s.wave.ops.filter fun o => o.kind == .none && !o.done && (o.quads &&& m) != 0
    else []
  let w := { s.wave with ops := s.wave.ops.filter fun o => !own.contains o }
  (s.reads i ++ writesOf i).all fun r => !w.busy m r

/-! ### The pipes (R13, R139) -/

/-- The pipes of its partition, as unit numbers, that the instructions of a chain take beside those taken already: the first
VALU goes to VALU-A when both are free, and a port entry takes one instruction a cycle (R13, R14, R139). None when one
cannot accept it. -/
def takePipes (free : Nat → Bool) : List Instr → List Nat → Option (List Nat)
  | [], taken => some taken
  | i :: is, taken =>
    let ok := fun u => free u && !taken.contains u
    match pipeOf i with
    | .valu => if ok 0 then takePipes free is (taken ++ [0]) else if ok 1 then takePipes free is (taken ++ [1]) else none
    | .cube => if taken.contains 6 then none else takePipes free is (taken ++ [6])
    | .rt => if taken.contains 7 then none else takePipes free is (taken ++ [7])
    | p => match p.unit with
      | some u => if ok u then takePipes free is (taken ++ [u]) else none
      | none => takePipes free is taken

/-- Does a pipe of the partition in focus accept an instruction in this cycle (R13)? -/
def State.pipeFree (s : State) (u : Nat) : Bool :=
  decide ((s.core s.wg.core).pipes.get (8 * s.wave.partition + u) ≤ s.cycle)

/-- The pipes that a list of instructions takes in the partition in focus, beside some that are taken. -/
def State.pipesFor (s : State) (l : List Instr) (taken : List Nat) : Option (List Nat) := takePipes s.pipeFree l taken

/-- Member quads of the part aimed at with an active lane, which a pipe serves (R13, R60): the lanes are those of the part's
masks, whatever guards the instructions of its chain carry (DEDUCED, unsafe; log entry 28). -/
def State.costQuads (s : State) : Nat := (quadsOf (quadsWith s.iss.lanes)).length

/-- Quads that each pipe of a partition serves in a cycle, by unit number (Table 1.2). -/
def unitRate (u : Nat) : Nat := if u = 2 then 1 else if u = 5 then 16 else 4

/-- The pipes of a partition that a chain takes are occupied for the cycles that its quads cost (R13, R60). -/
def State.occupy (s : State) (core part quads : Nat) (units : List Nat) : State :=
  s.onCore core fun c => { c with
    pipes := units.foldl (fun t u =>
      if 6 ≤ u then t else t.set (8 * part + u) (s.cycle + max 1 (ceilDiv quads (unitRate u)))) c.pipes }

/-- Is a part in a state to issue: running, unheld, with its delay over and its quads' moves made (R46, R50, R60), and not
short of a wait-table entry (R430)? -/
def Wave.awake (w : Wave) (p : Part) : Bool :=
  w.stop.isNone && p.fws == .run && !p.starved && (p.hold == .none || p.hold == .passed || (match p.hold with
    | .got _ => true
    | _ => false)) && p.delay == 0 && (quadsOf p.members).all fun q => (w.quads.get q).moves == 0

/-- Latch a part of a wave as the one that may issue: a chain's sources are the registers as they stand then, those of an
instruction that is reissued too, for which no rule says so (R140, R142, R143; DESIGN CHOICE, unsafe; log entry 36). -/
def State.aim (s : State) (wave entry : Nat) : State :=
  let s := s.focus wave
  let p := s.wave.part entry
  { s with
    iss := { (default : Issue) with
      entry := entry, first := p.pc, pc := p.pc, next := p.pc, members := p.members
      lanes := ((p.redo.map Redo.lanes).getD p.lanes) &&& spread p.members, round := s.wave.round, assist := s.wave.assist
      pennant := p.pennant, flags := (p.serial.map Prod.snd).getD 0, redo := p.redo }
    src := s.wave.rf }

/-- The fetch of the part aimed at. -/
def State.fetchPart (s : State) : Fetch :=
  s.fetch s.wg.core s.wg.ctx s.part.pc.toNat s.part.came.toNat

/-- May the part aimed at issue, or does its fetch end in a trap or a fault, which also takes its turn? -/
def State.ready (s : State) : Bool :=
  match s.fetchPart with
  | .chain l =>
    let is := (slateOf s.part l).list.map fun x => x.2.instr
    (s.pipesFor is []).isSome && is.all fun i => s.scoreClear i && s.mayIssue i
  | _ => true

end Sys2Proof.Machine
end

