-- ==== Sys2Proof/Machine/Events.lean ====
section
/-!
DEFINITION. Machine/Events.lean: the events of waves and their operations: timeouts of fuses, splits on a miss, moves of
the deferred-path stack, the end of a sleep, completions, walks, and a wave's end. An event that is not enabled changes
nothing (DESIGN CHOICE, unsafe; log entry 3).
-/

namespace Sys2Proof.Machine

/-- Act when a condition holds; else nothing happens (DESIGN CHOICE, unsafe; log entry 3). -/
def State.when (s : State) (b : Bool) (f : State → State) : State := if b then f s else s

/-! ### Fuses (R54, R412) -/

/-- The parts of a wave that wait at the FUSE of an index. -/
def fuseGroup (w : Wave) (pc : Word) : List Part := w.parts.filter fun p => p.fws == .fuse && p.pc == pc

/-- Has the clock of a fuse group reached its class's count (R54)? -/
def fuseDue (l : LaunchRec) (w : Wave) (pc : Word) : Bool :=
  w.stop.isNone && (match fuseGroup w pc with
    | [] => false
    | p :: _ => p.cls != 0 && p.cls != 15 && decide (l.fusetab.getD (p.cls - 1) 0 ≤ p.clock))

/-- FUSE_TIMEOUT: a partial fuse (R54). -/
def execFuseTimeout (wave : Nat) (pc : Word) (s : State) : Answer :=
  let w := s.waveOf wave
  .next (s.when (s.hasWave wave && !s.frozen wave && fuseDue (s.wgOf w.wg).launch w pc) fun s =>
    let s := s.focus wave
    let next := ((fuseGroup s.wave pc).head?.bind Part.after).getD (pc + 1)
    s.mergeWhere (fun p => p.fws == .fuse && p.pc == pc) next true)

/-- The instruction for whose forced fuse a part waits, of those that it is to issue: the one at a REGANG whose chain has
issued, else the one that asks for the widest, a REGANG of several apart (R59, R139, R412). -/
def State.waitsAt (s : State) (p : Part) (l : List (Word × Decoded)) : Option Decoded :=
  let l := if p.after.isSome then l.take 1 else (slateOf p l).list
  let code := fun (x : Word × Decoded) => match x.2.instr, l with
    | .regang w, [_] => some w.toNat
    | .regang _, _ => none
    | i, _ => s.minWidth i
  (l.foldl (fun (m : Option (Nat × Decoded)) x =>
    match code x, m with
    | some c, none => some (c, x.2)
    | some c, some (b, d) => if b < c then some (c, x.2) else some (b, d)
    | none, m => m) none).map Prod.snd

/-- Has a wave run in this cycle: it is not stopped, or has stopped in it (R62, R390)? -/
def State.ranNow (s : State) (w : Wave) : Bool :=
  match w.stop with
  | none => true
  | some x => x.cycle == s.cycle

/-- FUSEHANG: a forced-fuse wait of 2^24 cycles traps at the chain's first index (R401, R412). The part then tries its forced
fuse again: of its chain, or of a REGANG whose chain has issued, alone (R414). (DEDUCED, safe; log entry 39.) -/
def execFusehang (wave entry : Nat) (s : State) : Answer :=
  let w := s.waveOf wave
  let p := w.part entry
  .next (s.when (s.hasWave wave && !s.frozen wave && s.ranNow w && p.fws == .forced && decide (2 ^ 24 ≤ p.clock)) fun s =>
    let s := s.aim wave entry
    let p := s.part
    let words := match s.fetchPart with
      | .chain l => ((s.waitsAt p l).map fun (d : Decoded) => (d.word0, d.word1)).getD (0, 0)
      | _ => (0, 0)
    let s := { s with iss := { s.iss with pc := p.first, word0 := words.1, word1 := words.2 } }
    let lacks := lacking s.wave (widthOf p.waitId) p.members
    let alone := fun (next : Word) => (⟨p.lanes, next, [], 0⟩ : Redo)
    (s.takeTrap ⟨0x11, lacks.toNat + p.waitId * 2 ^ 16, 0⟩).onPart fun q =>
      { q with fws := .run, waitId := 0, clock := 0, pc := p.pc, redo := (p.after.map alone).or p.redo })

/-! ### Splitting on a miss (R56) -/

/-- Operations that hold a register of some instructions for a quad. -/
def blockers (w : Wave) (regs : List Nat) (q : Nat) : List Op :=
  w.ops.filter fun o => !o.done && o.quads.getLsbD q && o.regs.any regs.contains

/-- Member quads of the part aimed at that hold every register its next chain needs, and those that wait; none when the
split may not happen (R56). -/
def State.missQuads (s : State) : Option (BitVec 16) :=
  let p := s.part
  match s.fetchPart with
  | .chain l =>
    let regs := (slateOf p l).list.flatMap fun x => s.reads x.2.instr ++ writesOf x.2.instr
    let free := (quadsOf p.members).filter fun q => (blockers s.wave regs q).isEmpty
    let held := (quadsOf p.members).filter fun q => !(blockers s.wave regs q).isEmpty
    if free != [] && held != [] && held.all (fun q => (blockers s.wave regs q).any fun o => o.missed && o.cls == .ldc) then
      some (quadMask free)
    else none
  | _ => none

/-- MISS_SPLIT: the ready quads leave; both parts take reason MISS (R46, R56). The ready part keeps the entry (log entry
73), and the waiting part stalls 32 cycles afresh before it may split again, of which R56 says nothing (DESIGN CHOICE,
unsafe; log entry 75). -/
def execMissSplit (wave entry : Nat) (s : State) : Answer :=
  let w := s.waveOf wave
  let p := w.part entry
  .next (s.when (s.hasWave wave && !s.frozen wave && (s.wgOf w.wg).launch.splitMiss && w.awake p && decide (32 ≤ p.stalled)) fun s =>
    let t := s.aim wave entry
    match t.missQuads with
    | none => s
    | some m =>
      let p := t.part
      let ready : Part := { p with
        members := m, masks := p.masks &&& spread m, reason := .miss, stalled := 0, delay := 2 }
      let held : Part := { p with
        members := p.members &&& ~~~m, masks := p.masks &&& ~~~(spread m), reason := .miss, stalled := 0 }
      t.splitPart entry [ready, held])

/-! ### The divergence area (R50) -/

/-- DEFERRED_SPILL_FILL: one move of a quad: a full stack's bottom entry to the area, or the most recently spilled entry
back (R50). -/
def execDeferredSpillFill (wave quad : Nat) (s : State) : Answer :=
  let w := s.waveOf wave
  let g := s.wgOf w.wg
  let d := w.quads.get quad
  .next (s.when (s.hasWave wave && d.moves != 0) fun s =>
    if 8 < d.stack.length then
      let e := d.stack.getLastD default
      let s := (s.flushWindow g.id).mapWg g.id fun g => { g with
        scratch := g.scratch.write (spillBase g.launch w quad + 8 * d.spilled) (leBytes 8 e.toNat) }
      s.mapWave wave fun w => { w with quads := w.quads.upd quad fun d =>
        { d with stack := d.stack.dropLast, spilled := d.spilled + 1 } }
    else
      let s := s.flushWindow g.id
      let bs := (s.wgOf g.id).scratch.read (spillBase g.launch w quad + 8 * (d.spilled - 1)) 8
      s.mapWave wave fun w => { w with quads := w.quads.upd quad fun d =>
        { d with stack := d.stack ++ [DefEntry.ofNat (leValue bs)], spilled := d.spilled - 1 } })

/-- SLEEP_EXPIRE (R191). -/
def execSleepExpire (wave entry : Nat) (s : State) : Answer :=
  .next (s.when (s.hasWave wave && !s.frozen wave && ((s.waveOf wave).part entry).hold == .sleep 0) fun s =>
    s.mapWave wave fun w => w.updPart entry fun p => { p with hold := .none })

/-! ### Operations and walks -/

/-- The outstanding operation of a number. -/
def Wave.op (w : Wave) (id : Nat) : Op := (w.ops.find? fun o => o.id == id).getD default

/-- MEM_OP_COMPLETE: a load or atomic writes its registers; a store is performed, after those its core sent before it to
the same target (R68, R97, R118, R236). -/
def execMemOpComplete (wave op : Nat) (s : State) : Answer :=
  let w := s.waveOf wave
  let o := w.op op
  .next (s.when (s.hasWave wave && o.id != 0 && !o.done) fun s =>
    match o.kind with
    | .regs ws => (s.mapWave wave fun w => w.writeRegs ws).complete wave op
    | .home _ =>
      let all := if o.target = 0 then s.wavesOn (s.wgOf w.wg).core else s.earlier
      ((pendingSteps all o.target).filter fun x => decide (x.2.1 ≤ op)).foldl
        (fun s x => s.performStore x.1 ((s.waveOf x.1).op x.2.1) x.2.2) s
    | _ => s)

/-- The context that uses an ASID and has not been killed. -/
def State.liveOfAsid (s : State) (asid : Nat) : Option Nat :=
  (s.ctxs.find? fun c => c.2.installed && !c.2.killed && c.2.asid == asid).map Prod.fst

/-- The installed context that uses an ASID: one that has been killed keeps its page table until its last REMOVE (R324, R358).
-/
def State.ctxOfAsid (s : State) (asid : Nat) : Option Nat :=
  (s.liveOfAsid asid).orElse fun _ => (s.ctxs.find? fun c => c.2.installed && c.2.asid == asid).map Prod.fst

/-- What a walk of a KIND needs: [0] read, [1] write, [2] execute, [3] engine (Table 6.4). -/
def needOf (kind : BitVec 4) : Need := ⟨kind.getLsbD 0, kind.getLsbD 1, kind.getLsbD 2, kind.getLsbD 3⟩

/-- PAGE_WALK: a walk of a section ends with a translation, which its TLB remembers, with no entry, or with a page
that is not present, for which an entry and a record are made (R103, R105, R107, R109, R111). -/
def execPageWalk (sect asid : Nat) (va : DWord) (kind : BitVec 4) (s : State) : Answer :=
  .next (match s.liveOfAsid asid with
    | none => s
    | some c =>
      if decide (128 ≤ sect) || !canonical va.toNat || (tlbFind (s.sect sect).tlb asid va.toNat).isSome then s
      else match s.walk c va.toNat with
        | .leaf pte _ _ => if grants pte (needOf kind) then s.touch sect c va.toNat (kind.getLsbD 1) else s
        | .np level pte => (s.waitFor sect c va.toNat level kind.toNat pte 0).2
        | .poison a => s.walkPoison c a 0
        | _ => s)

/-! ### The end of a wave (R22, R183, R327, R334) -/

/-- A workgroup of whom every wave has ended leaves its core; its section controller reports one of the grid's own (R22,
R330, R334). -/
def State.endWg (s : State) (id : Nat) : State :=
  let g := s.wgOf id
  let s := { s with wgs := s.wgs.filter fun h => h.id != id }
  let s := if s.wg.id = id then { s with wg := default } else s
  if g.descendant then s else s.report g.grid (upLink (sectOf g.core)) 1 0

/-- WAVE_RETIRE: a wave whose lanes have all exited and whose operations have all completed frees its slots (R183). -/
def execWaveRetire (wave : Nat) (s : State) : Answer :=
  let w := s.waveOf wave
  .next (s.when (s.hasWave wave && w.live == 0 && w.ops == []) fun s =>
    let s := { s with waves := s.waves.filter fun v => v.id != wave }
    let s := if s.wave.id = wave then { s with wave := default } else s
    if s.allWaves.any fun v => v.wg == w.wg then s else s.endWg w.wg)

/-! ### The events of waves that are enabled -/

/-- The events of a wave that fall due in a cycle and happen in it, after its chains have issued: timeouts, ends of sleeps,
splits on a miss, and moves of the deferred-path stack (R50, R54, R56, R191, R412). -/
def State.timersOf (s : State) (w : Wave) : List Instr :=
  let g := s.wgOf w.wg
  let goes := !s.frozen w.id
  ((List.range w.quadCount).filter fun q => (w.quads.get q).moves != 0).map (Instr.deferredSpillFill w.id)
    ++ (w.parts.filter fun p => goes && p.hold == .sleep 0).map (fun p => Instr.sleepExpire w.id p.entry)
    ++ (w.parts.filter fun p => goes && p.fws == .fuse && fuseDue g.launch w p.pc).map
        (fun p => Instr.fuseTimeout w.id p.pc)
    ++ ((byAge w.parts).filter fun p => goes && s.ranNow w && p.fws == .forced && decide (2 ^ 24 ≤ p.clock)).map
        (fun p => Instr.fusehang w.id p.entry)
    ++ (w.parts.filter fun p => goes && g.launch.splitMiss && w.awake p && decide (32 ≤ p.stalled)
        && (s.aim w.id p.entry).missQuads.isSome).map (fun p => Instr.missSplit w.id p.entry)

/-- The other enabled events of a wave, in a fixed order (DESIGN CHOICE, unsafe; log entry 3). -/
def Wave.events (w : Wave) : List Instr :=
  (w.ops.filter fun o => !o.done && (match o.kind with
      | .regs _ => true
      | .home _ => true
      | _ => false)).map (fun o => Instr.memOpComplete w.id o.id)
    ++ (if w.live == 0 && w.ops == [] then [Instr.waveRetire w.id] else [])

end Sys2Proof.Machine
end

