-- ==== Sys2Proof/Machine/Engines.lean ====
section
/-!
DEFINITION. Machine/Engines.lean: the copy engine: CPY, COLL, SHDW and PUBLISH, and their events (R127 to R130, R237 to
R249, R436 to R441). A command moves its data when it completes; a page that is not present parks it at its element.
-/

namespace Sys2Proof.Machine

/-! ### Commands in the queues (R237) -/

/-- The queue that a grid came from. (DEDUCED, unsafe; log entry 61.) -/
def State.queueOf (s : State) (grid : Nat) : Queue := s.queues.get (s.gridOf grid).queue

/-- Is a command with this number still in an engine, or paused in an image (R127, R349)? -/
def State.cmdLive (s : State) (id : Nat) : Bool :=
  (s.sects.any fun t => (t.2.copyQ ++ t.2.splatQ).any fun c => c.id == id)
    || s.saved.any fun v => v.members.any fun m => m.cmds.any fun c => c.2.id == id

/-- Change a command of a section. -/
def State.onCmd (s : State) (sect id : Nat) (f : Cmd → Cmd) : State :=
  let g := fun (q : List Cmd) => q.map fun c => if c.id = id then f c else c
  s.onSect sect fun t => { t with copyQ := g t.copyQ, splatQ := g t.splatQ }

/-- A command of the copy engine of a section. -/
def State.copyCmd (s : State) (sect id : Nat) : Cmd := ((s.sect sect).copyQ.find? fun c => c.id == id).getD default

/-- Hand a command of the leader to an engine: the operation counts and holds its status register, and every earlier
write of the part reaches its home first (R127, R237, R238). `put` places it in a queue of the section. -/
def State.command (s : State) (leader scope : Nat) (cls : OpClass) (status : Reg) (job : Job)
    (put : Sect → Cmd → Sect) : State :=
  let s := s.release (max 2 scope)
  let sect := sectOf s.wg.core
  let id := s.names + 1
  let o := { s with names := id }.issueOp cls [status.toNat] [leader] (.engine sect id)
  let c : Cmd := { (default : Cmd) with
    id := id, job := job, wave := s.wave.id, wg := s.wg.id, op := o.1, quad := leader / 4, reg := status.toNat - 96
    ctx := s.wg.ctx, grid := s.wg.grid, core := s.wg.core, after := s.part.fenced.filter s.cmdLive }
  o.2.onSect sect fun t => put t c

/-- The end of the copy engine's queue. -/
def putCopy (t : Sect) (c : Cmd) : Sect := { t with copyQ := t.copyQ ++ [c] }

/-- Change a wave, resident or saved (R349). -/
def State.mapAnyWave (s : State) (id : Nat) (f : Wave → Wave) : State :=
  let s := s.mapWave id f
  { s with saved := s.saved.map fun v => { v with members := v.members.map fun m =>
      { m with waves := m.waves.map fun w => if w.id = id then f w else w } } }

/-- The scope at which reading a command's status word is an acquire: its own, or WG where it names WAVE (R127, R128). The
handle of a SHDW is no status word. -/
def Job.acquires : Job → Option Nat
  | .cpy _ scope .. => some (max 1 scope)
  | .coll _ _ _ scope .. => some (max 1 scope)
  | .publish scope _ => some (max 1 scope)
  | .splat _ scope _ => some (max 1 scope)
  | _ => none

/-- A command's status word in its register (R127, R238). -/
def Cmd.writeStatus (c : Cmd) (status : Word) (rf : RegFile) : RegFile :=
  let rf := rf.setK c.quad c.reg status
  match c.job.acquires with
  | some scope => rf.setStatus c.quad c.reg scope
  | none => rf

/-- Where an image holds a k register of a quad of a wave (Table 17.3). -/
def SavedWg.addrOfK (m : SavedWg) (w : Wave) (quad reg : Nat) : Nat :=
  let l := m.wg.launch
  m.image + 64 + 1600 * l.waves + 1728 * (w.num * (l.width / 4) + quad) + 1536 + 4 * reg

/-- A command of a saved workgroup writes its status into the image (R349). -/
def State.imageStatus (s : State) (c : Cmd) (status : Word) : State :=
  s.saved.foldl (fun s v => v.members.foldl (fun s m => (m.waves.filter fun w => w.id == c.wave).foldl (fun s w =>
    s.writePhys (m.addrOfK w c.quad c.reg) (leBytes 4 status.toNat)) s) s) s

/-- Operations of a wave of a saved workgroup leave their counts, with the ring releases they name (R37, R68, R349). -/
def SavedWg.retire (m : SavedWg) (w : Wave) : SavedWg :=
  let r := retireOps w.ops
  { m with
    wg := r.2.foldl (fun g o => match o.release with
      | some (q, i) => g.passOn q i (stageOf g w)
      | none => g) m.wg
    waves := m.waves.map fun v => if v.id = w.id then { v with ops := r.1 } else v }

/-- A command leaves its engine: it writes its status, its operation completes and carries the ring release that it
performs as its counter retires, its pages are unpinned (R37, R105, R238, R349, R436). `ring` is the ring of a release. -/
def State.finishCmd (s : State) (c : Cmd) (status : Word) (ring : Option Nat) : State :=
  let release := match ring, c.slot with
    | some q, some i => some (q, i)
    | _, _ => none
  let s := s.mapAnyWave c.wave fun w => { w with
    rf := c.writeStatus status w.rf
    ops := w.ops.map fun o => if o.id = c.op then { o with done := true, release := release } else o }
  let s := (s.dropCmds fun d => d.id == c.id).imageStatus c status
  if s.hasWave c.wave then s.retire c.wave
  else
    let settle := fun (m : SavedWg) => (m.waves.filter fun w => w.id == c.wave).foldl SavedWg.retire m
    { s with saved := s.saved.map fun v => { v with members := v.members.map settle } }

/-- A status word (Table 11.4): BYTES, METHODS, ERR, DONE. -/
def statusWord (err methods bytes : Nat) : Word :=
  BitVec.ofNat 32 (bytes % 2 ^ 23 + methods * 2 ^ 23 + err * 2 ^ 27 + 2 ^ 31)

/-! ### Accesses of an engine -/

/-- Why an engine stops: an error code, a page that is not present, poison met by a walk. -/
inductive EngEnd where
  | err (code : Nat)
  | park (va level kind : Nat) (pte : DWord)
  | kill (addr : Nat)
  deriving DecidableEq, Repr, Inhabited

/-- What an engine's step gives. -/
inductive EngRes (α : Type) where
  | ok (a : α)
  | stop (e : EngEnd) (s : State)

/-- Continue with the value of a step. -/
def EngRes.bind {α β : Type} (x : EngRes α) (f : α → EngRes β) : EngRes β :=
  match x with
  | .ok a => f a
  | .stop e s => .stop e s

/-- The checks of an engine's access to `n` aligned bytes (R237, R436, ERR 4). -/
def State.engCheck (s : State) (sect ctx va n : Nat) (write : Bool) : Option EngEnd :=
  match s.checkVa sect ctx va n ⟨!write, write, false, true⟩ with
  | .hit => none
  | .ok .. => none
  | .trap .. => some (.err 4)
  | .absent level pte => some (.park va level (if write then 10 else 9) pte)
  | .poisoned a => some (.kill a)

/-- The first poisoned sector of a range. -/
def State.firstPoison (s : State) (pa n : Nat) : Nat :=
  (((List.range (n / 32 + 2)).map fun i => pa / 32 * 32 + 32 * i).find? fun a => s.poison.contains a).getD pa

/-- An engine reads bytes of the visible page that passed its checks; a poisoned sector is ERR 6, logged with event code 3
(R246, R436). -/
def State.engTake (s : State) (sect ctx grid va n : Nat) : EngRes (List Byte × State) :=
  let r := s.readVa sect ctx va n
  if r.2.1 then .stop (.err 6) (r.2.2.consumed (s.firstPoison ((s.ctxPa ctx va).getD 0) n) 3 ctx grid)
  else .ok (r.1, r.2.2)

/-- An engine reads aligned bytes (R246, R436). -/
def State.engRead (s : State) (sect ctx grid va n : Nat) : EngRes (List Byte × State) :=
  match s.engCheck sect ctx va n false with
  | some e => .stop e s
  | none => s.engTake sect ctx grid va n

/-- The open region that holds an address (R246). -/
def Ctx.regionOf (c : Ctx) (va : Nat) : Option Region :=
  c.regions.find? fun r => decide (r.base ≤ va) && decide (va < r.base + r.pages * 2 ^ 14)

/-- Copy a page of 16 KiB (R246). -/
def State.copyPage (s : State) (src dst : Nat) : State := s.writePhys dst (s.readPhys src (2 ^ 14))

/-- The shadow frame of a page of a region: the first engine write takes one from the pool and copies the visible page
into it, the stores on their way to it applied (R246, R250); ERR 7 when the pool is empty (R439), ERR 6 when the copy reads a poisoned sector (R424, R436; DEDUCED,
unsafe; log entry 84). -/
def State.shadowFrame (s : State) (ctx grid : Nat) (r : Region) (va : Nat) : EngRes (Nat × State) :=
  let page := (va - r.base) / 2 ^ 14
  match r.frames.find? fun f => f.1 == page with
  | some f => .ok (f.2, s)
  | none =>
    match (s.ctx ctx).frames, s.ctxPa ctx (va / 2 ^ 14 * 2 ^ 14) with
    | f :: rest, some pa =>
      let s := s.flushAll
      if s.poisoned pa (2 ^ 14) then .stop (.err 6) (s.consumed (s.firstPoison pa (2 ^ 14)) 3 ctx grid)
      else
        let r' := { r with frames := r.frames ++ [(page, f)] }
        let s := s.onCtx ctx fun c => { c with
          frames := rest, regions := c.regions.map fun x => if x.index = r.index then r' else x }
        .ok (f, s.copyPage pa f)
    | _, _ => .stop (.err 7) s

/-- Where a command's write to an address that passed its checks goes: into the shadow frame where the page lies in an open
region, else to the page (R246, R439): the physical address and the page's CP. -/
def State.engPlace (s : State) (sect ctx grid va : Nat) : EngRes (Nat × Nat × State) :=
  match (s.ctx ctx).regionOf va with
  | some r => (s.shadowFrame ctx grid r va).bind fun f => .ok (f.1 + va % 2 ^ 14, 0, f.2.touch sect ctx va true)
  | none =>
    let s := s.touch sect ctx va true
    match s.look sect ctx va true with
    | .leaf pte _ level => .ok (leafAddr pte level va, pteCp pte, s)
    | _ => .stop (.err 4) s

/-- An engine writes aligned bytes, and where they went (R246, R439). -/
def State.engPut (s : State) (sect ctx grid va : Nat) (bs : List Byte) : EngRes (Nat × State) :=
  match s.engCheck sect ctx va (max 1 bs.length) true with
  | some e => .stop e s
  | none => (s.engPlace sect ctx grid va).bind fun r =>
    .ok (r.1, (r.2.2.writeUncached r.1 bs).l2Lines r.1 bs.length r.2.1)

/-- An engine writes aligned bytes (R246, R439). -/
def State.engWrite (s : State) (sect ctx grid va : Nat) (bs : List Byte) : EngRes State :=
  (s.engPut sect ctx grid va bs).bind fun r => .ok r.2

/-- A command refers to the present pages that hold some spans, address and length, and pins them until it ends (R105;
DEDUCED, unsafe; log entry 57). -/
def State.refer (s : State) (sect : Nat) (c : Cmd) (spans : List (Nat × Nat)) : Cmd × State :=
  let pages := distinct ((distinct (spans.flatMap fun x => pageBases x.1 x.2)).flatMap (s.leafEntry c.ctx))
  let c := { c with pins := distinct (c.pins ++ pages) }
  (c, (s.pin pages).onCmd sect c.id fun d => { d with pins := c.pins })

/-- An engine's request waits under an entry for its page, its progress kept; with every entry in use it asks again
(R109, R430). Its pages stay pinned meanwhile (R105). -/
def State.parkCmd (s : State) (sect : Nat) (c : Cmd) (va level kind : Nat) (pte : DWord) : State :=
  let r := s.waitFor sect c.ctx va level kind pte c.grid
  r.2.onCmd sect c.id fun _ => { c with parked := r.1.map Prod.snd }

/-! ### Tensor layout records (R239, R240, R437) -/

/-- A layout record as read (Table 11.6). -/
structure Layout where
  base : Nat
  dims : List Nat
  strides : List Nat
  box : List Nat
  fmt : Nat
  rank : Nat
  swz : Nat
  comp : Bool
  fill : Nat
  cbase : Nat
  reserved : Bool
  deriving DecidableEq, Repr

/-- Read a record's fields. -/
def layoutOf (r : List Byte) : Layout :=
  let rank := fieldAt r 49 1 / 16 % 8
  let n := if rank = 0 ∨ 5 < rank then 5 else rank
  { base := fieldAt r 0 8
    dims := (List.range n).map fun i => fieldAt r (8 + 4 * i) 4
    strides := (List.range (n - 1)).map fun i => fieldAt r (28 + 4 * i) 4
    box := (List.range n).map fun i => fieldAt r (44 + i) 1 + 1
    fmt := fieldAt r 49 1 % 16, rank := rank, swz := fieldAt r 50 1 % 4, comp := (fieldAt r 50 1).testBit 2
    fill := fieldAt r 52 4, cbase := fieldAt r 56 8
    reserved := (fieldAt r 49 1).testBit 7 || fieldAt r 50 1 / 8 != 0 || fieldAt r 51 1 != 0
      || ((fieldAt r 50 1).testBit 2 == false && fieldAt r 56 8 != 0) }

/-- Half bytes of an element. -/
def Layout.nib (l : Layout) : Nat := if l.fmt = 5 then 1 else 2 * 2 ^ l.fmt

/-- Elements of the box. -/
def Layout.count (l : Layout) : Nat := l.box.foldl (· * ·) 1

/-- Bytes of the box. -/
def Layout.bytes (l : Layout) : Nat := ceilDiv (l.count * l.nib) 2

/-- Alignment of BASE and of the strides. -/
def Layout.align (l : Layout) : Nat := if l.fmt = 5 then 16 else 2 ^ l.fmt

/-- Positions of an element of the box in each dimension, dimension 0 fastest. -/
def boxAt : List Nat → Nat → List Nat
  | [], _ => []
  | b :: bs, i => i % b :: boxAt bs (i / b)

/-- Place of a byte under the swizzle (R240). -/
def swizzle (swz u : Nat) : Nat :=
  if swz = 1 then u / 128 * 128 + (u % 128 / 16 ^^^ u / 128 % 8) * 16 + u % 16
  else if swz = 2 then u / 64 * 64 + (u % 64 / 16 ^^^ u / 64 % 4) * 16 + u % 16
  else u

/-- Is any coordinate out of bounds (R240)? -/
def outOfBounds (dims : List Nat) (cs : List Int) : Bool :=
  (List.zipWith (fun (d : Nat) (c : Int) => decide (c < 0) || decide ((d : Int) ≤ c)) dims cs).any id

/-- Half-byte offset of an element from the base (R239). (DEDUCED, unsafe; log entry 37.) -/
def Layout.offset (l : Layout) (cs : List Nat) : Nat :=
  cs.headD 0 * l.nib + (List.zipWith (fun s c => 2 * s * c) l.strides (cs.drop 1)).foldl (· + ·) 0

/-- The rules of R437 apart from the scratch range: ERR 1 when one fails. `dst` is the destination base or offset.
(DEDUCED, unsafe; log entry 38.) -/
def Layout.good (l : Layout) (dir dst : Nat) (crd : List Int) : Bool :=
  decide (1 ≤ l.rank) && decide (l.rank ≤ 5) && decide (l.fmt ≤ 5) && decide (l.swz ≤ 2) && !l.reserved
    && l.dims.all (· != 0)
    && l.base % l.align == 0 && l.strides.all (fun x => x % l.align == 0)
    && (!l.comp || (l.base % 4096 == 0 && l.cbase % 8 == 0 && dir != 1))
    && decide (l.bytes ≤ 2 ^ 22)
    && (if dir = 2 then dst % l.align == 0 else dst % (if l.swz = 0 then 16 else 128) == 0)
    && (l.fmt != 5 || (crd.headD 0 % 2 == 0 && l.box.headD 1 % 2 == 0))

/-! ### Lossless decompression (R243, R244) -/

/-- One bit of CRC-32C, reflected. -/
def crcBit (c : Nat) : Nat := if c % 2 = 1 then (c / 2) ^^^ 0x82F63B78 else c / 2

/-- CRC-32C of bytes (R243). -/
def crc32c (bs : List Byte) : Nat :=
  (bs.foldl (fun c b => crcBit (crcBit (crcBit (crcBit (crcBit (crcBit (crcBit (crcBit (c ^^^ b.toNat)))))))))
    0xFFFFFFFF) ^^^ 0xFFFFFFFF

/-- One group of ZRL: its image and the bytes left (Table 11.9). -/
def zrlGroup (m : Nat) : Nat → List Byte → List Byte × List Byte
  | 0, bs => ([], bs)
  | n + 1, bs =>
    if m.testBit (31 - n) then
      let r := zrlGroup m n (bs.drop 4)
      (bs.take 4 ++ r.1, r.2)
    else
      let r := zrlGroup m n bs
      ([0, 0, 0, 0] ++ r.1, r.2)

/-- The image of the ZRL groups left, and the bytes left. -/
def zrlGroups : Nat → List Byte → List Byte × List Byte
  | 0, bs => ([], bs)
  | n + 1, bs =>
    let g := zrlGroup (fieldAt bs 0 4) 32 (bs.drop 4)
    let r := zrlGroups n g.2
    (g.1 ++ r.1, r.2)

/-- Bytes that the bitmaps of a ZRL block call for. -/
def zrlLength : Nat → List Byte → Nat
  | 0, _ => 0
  | n + 1, bs =>
    let k := 4 + 4 * ((List.range 32).filter fun i => (fieldAt bs 0 4).testBit i).length
    k + zrlLength n (bs.drop k)

/-- Expand a block: its image and method, or ERR 2 or 3 (R243, R436). -/
def expandBlock (header : Nat) (bs : List Byte) : Nat × Option (List Byte) :=
  if crc32c bs != header / 2 ^ 32 then (3, none)
  else match header % 16 with
    | 0 => (0, some bs)
    | 1 => (0, some ((List.range 1024).flatMap fun _ => bs))
    | _ => if zrlLength 32 bs != bs.length then (2, none) else (0, some (zrlGroups 32 bs).1)

/-- The header's own rules: METHOD, FLAGS, CLEN (R436, ERR 2). -/
def headerGood (h : Nat) : Bool :=
  let clen := h / 2 ^ 8 % 2 ^ 24
  decide (h % 16 ≤ 2) && h / 16 % 16 == 0 && decide (4 ≤ clen) && decide (clen ≤ 4096)
    && (h % 16 != 0 || clen == 4096) && (h % 16 != 1 || clen == 4)

/-- What a copy carries from element to element: the state, half bytes written, methods, the block expanded last. -/
structure Move where
  s : State
  grid : Nat
  nibbles : Nat
  methods : Nat
  block : Option (Nat × List Byte)
  /-- Where its writes went, and their lengths. -/
  wrote : List (Nat × Nat)

/-- The image of a block of a compressed tensor, from its header and its compressed bytes (R243, R244). -/
def Move.image (m : Move) (sect ctx : Nat) (l : Layout) (b : Nat) : EngRes (List Byte × Move) :=
  match (match m.block with
    | some (k, img) => if k = b then some img else none
    | none => none) with
  | some img => .ok (img, m)
  | none =>
    match m.s.engRead sect ctx m.grid (l.cbase + 8 * b) 8 with
    | .stop e s => .stop e s
    | .ok (hb, s) =>
      let h := leValue hb
      let va := l.base + 4096 * b
      if !headerGood h then .stop (.err 2) s
      else match (match s.engCheck sect ctx va 1 false with
          | some e => EngRes.stop e s
          | none => s.engTake sect ctx m.grid va (h / 2 ^ 8 % 2 ^ 24)) with
        | .stop e s => .stop e s
        | .ok (bs, s) =>
          match expandBlock h bs with
          | (_, some img) => .ok (img, { m with s := s, methods := m.methods ||| 2 ^ (h % 16), block := some (b, img) })
          | (e, none) => .stop (.err e) s

/-! ### Moving a box (R240, R242) -/

/-- The half byte of a byte, or a byte with a half byte replaced. (DEDUCED, unsafe; log entry 37.) -/
def getNib (b : Byte) (hi : Bool) : Nat := if hi then b.toNat / 16 else b.toNat % 16
def setNib (b : Byte) (hi : Bool) (x : Nat) : Byte :=
  BitVec.ofNat 8 (if hi then b.toNat % 16 + 16 * x else b.toNat / 16 * 16 + x)

/-- An element's bytes; a half byte is given in the low half of one byte. -/
def Move.readTensor (m : Move) (sect ctx : Nat) (l : Layout) (off : Nat) : EngRes (List Byte × Move) :=
  let n := max 1 (l.nib / 2)
  let pick := fun (bs : List Byte) => if l.fmt = 5 then [BitVec.ofNat 8 (getNib (bs.headD 0) (off % 2 == 1))] else bs
  if l.comp then
    match m.image sect ctx l (off / 2 / 4096) with
    | .stop e s => .stop e s
    | .ok (img, m) => .ok (pick ((img.drop (off / 2 % 4096)).take n), m)
  else match m.s.engRead sect ctx m.grid ((l.base + off / 2) % 2 ^ 64) n with
    | .stop e s => .stop e s
    | .ok (bs, s) => .ok (pick bs, { m with s := s })

/-- Write an element of a tensor at a base. -/
def Move.writeTensor (m : Move) (sect ctx : Nat) (l : Layout) (base off : Nat) (bs : List Byte) : EngRes Move :=
  let va := (base + off / 2) % 2 ^ 64
  let bs' : EngRes (List Byte × State) :=
    if l.fmt = 5 then
      match m.s.engCheck sect ctx va 1 true with
      | some e => .stop e m.s
      | none =>
        let old := match (m.s.ctx ctx).regionOf va with
          | some r =>
            match r.frames.find? fun (f : Nat × Nat) => f.1 == (va - r.base) / 2 ^ 14 with
            | some f => m.s.readPhys (f.2 + va % 2 ^ 14) 1
            | none => (m.s.ctxRead ctx va 1).getD [0]
          | none => (m.s.ctxRead ctx va 1).getD [0]
        .ok ([setNib (old.headD 0) (off % 2 == 1) (bs.headD 0).toNat], m.s)
    else .ok (bs, m.s)
  match bs' with
  | .stop e s => .stop e s
  | .ok (bs, s) =>
    match s.engPut sect ctx m.grid va bs with
    | .stop e s => .stop e s
    | .ok (pa, s) => .ok { m with s := s, nibbles := m.nibbles + l.nib, wrote := (pa, bs.length) :: m.wrote }

/-- The sectors of which a command's writes cover all 32 bytes lose their poison marks (R423). -/
def State.coverSectors (s : State) (wrote : List (Nat × Nat)) : State :=
  let covers := fun (a : Nat) => (List.range 32).all fun i => wrote.any fun w => decide (w.1 ≤ a + i) && decide (a + i < w.1 + w.2)
  { s with poison := s.poison.filter fun a => !covers a }

/-- Read or write an element of the packed box in the window (R240); `u` counts half bytes. -/
def State.boxRead (s : State) (wg dst : Nat) (l : Layout) (u : Nat) : List Byte :=
  let p := dst + swizzle l.swz (u / 2)
  let bs := (s.wgOf wg).scratch.read p (max 1 (l.nib / 2))
  if l.fmt = 5 then [BitVec.ofNat 8 (getNib (bs.headD 0) (u % 2 == 1))] else bs

def State.boxWrite (s : State) (wg dst : Nat) (l : Layout) (u : Nat) (bs : List Byte) : State :=
  let p := dst + swizzle l.swz (u / 2)
  s.mapWg wg fun g => { g with
    scratch := g.scratch.write p (if l.fmt = 5 then [setNib (g.scratch.get p) (u % 2 == 1) (bs.headD 0).toNat] else bs) }

/-- The fill of an out-of-bounds element (R240). -/
def Layout.fillBytes (l : Layout) : List Byte :=
  if l.fmt = 5 then [BitVec.ofNat 8 (l.fill % 16)]
  else ((List.range 4).flatMap fun _ => leBytes 4 l.fill).take (2 ^ l.fmt)

/-- The coordinates of an element of a box, in each dimension (R240). -/
def boxCoords (l : Layout) (crd : List Int) (i : Nat) : List Int :=
  List.zipWith (fun (c : Int) (p : Nat) => c + p) crd (boxAt l.box i)

/-- Move one element of the box (R242). -/
def Move.element (m : Move) (sect ctx wg dir dst : Nat) (l : Layout) (crd : List Int) (i : Nat) : EngRes Move :=
  let cs := boxCoords l crd i
  let oob := outOfBounds l.dims cs
  let off := l.offset (cs.map Int.toNat)
  match dir with
  | 0 =>
    if oob then .ok { m with s := m.s.boxWrite wg dst l (i * l.nib) l.fillBytes, nibbles := m.nibbles + l.nib }
    else match m.readTensor sect ctx l off with
      | .stop e s => .stop e s
      | .ok (bs, m) => .ok { m with s := m.s.boxWrite wg dst l (i * l.nib) bs, nibbles := m.nibbles + l.nib }
  | 1 => if oob then .ok m else m.writeTensor sect ctx l l.base off (m.s.boxRead wg dst l (i * l.nib))
  | _ =>
    if oob then .ok m
    else match m.readTensor sect ctx l off with
      | .stop e s => .stop e s
      | .ok (bs, m) => m.writeTensor sect ctx l dst off bs

/-- Move elements until one stops: how many were done, and how it ended. -/
def Move.run (m : Move) (step : Move → Nat → EngRes Move) : List Nat → Nat → Nat × Move × Option EngEnd
  | [], k => (k, m, none)
  | i :: is, k =>
    match step m i with
    | .ok m' => m'.run step is (k + 1)
    | .stop e s => (k, { m with s := s }, some e)

/-! ### CPY (R241, R242) -/

/-- A field that names a pair of k registers. -/
def needKPair (r : Reg) (pos : Nat) : List Trap := require (decide (96 ≤ r.toNat) && r.toNat % 2 == 0) (badReg r pos)

/-- A pair of k registers read from the quad of a lane. -/
def State.kPair (s : State) (r : Reg) (lane : Nat) : Nat :=
  (s.kOf (r.toNat - 96) lane).toNat + (s.kOf (r.toNat - 95) lane).toNat * 2 ^ 32

/-- CPY (R241). -/
def execCpy (g : Guard) (scope : BitVec 3) (dir : BitVec 2) (rel : Bool) (ring : BitVec 2) (sReg l crd dst : Reg)
    (s : State) : Answer :=
  .next (s.run (needBelow scope.toNat 6 42 ++ needBelow dir.toNat 3 40 ++ needK sReg 25 ++ needKPair l 18
      ++ require (decide (96 ≤ crd.toNat) && decide (crd.toNat ≤ 122)) (badReg crd 11)
      ++ (if dir = 2 then needKPair dst 4 else needK dst 4)
      ++ (if rel then require (ringOf s.wg ring.toNat).valid ⟨0x14, ring.toNat + 2 ^ 8, 0⟩ else [])) fun s =>
    match s.actG g with
    | [] => s
    | ld :: _ =>
      s.command ld scope.toNat .cpc sReg (.cpy dir.toNat scope.toNat (if rel then some ring.toNat else none) (s.kPair l ld)
        ((List.range 6).map fun i => s.kOf (crd.toNat - 96 + i) ld)
        (if dir = 2 then s.kPair dst ld else (s.kOf (dst.toNat - 96) ld).toNat)) putCopy)

/-- COLL; a scope below DEVICE runs as DEVICE, SYSTEM as POD (R248, R409). -/
def execColl (g : Guard) (kind op type : BitVec 2) (scope : BitVec 3) (sReg c h : Reg) (s : State) : Answer :=
  let sc := if scope.toNat < 3 then 3 else min scope.toNat 4
  .next ((s.run (needBelow scope.toNat 6 36 ++ needBelow type.toNat 3 39
      ++ (if kind.toNat < 2 then needBelow op.toNat 3 41 else []) ++ needK sReg 25 ++ needKPair c 18 ++ needK h 11) fun s =>
    match s.actG g with
    | [] => s
    | ld :: _ =>
      s.command ld sc .cpc sReg (.coll kind.toNat op.toNat type.toNat sc (s.kPair c ld) (s.kOf (h.toNat - 96) ld)) putCopy).modfb'
    (sc != scope.toNat) s)

/-- SHDW (R245). -/
def execShdw (g : Guard) (d a b : Reg) (s : State) : Answer :=
  .next (s.run (needK d 25 ++ needKPair a 18 ++ needK b 11) fun s =>
    match s.actG g with
    | [] => s
    | ld :: _ => s.command ld 3 .uncounted d (.shdw (s.kPair a ld) (s.kOf (b.toNat - 96) ld).toNat) putCopy)

/-- PUBLISH: a release at its scope (R129, R247). -/
def execPublish (g : Guard) (scope : BitVec 3) (d a : Reg) (s : State) : Answer :=
  .next (s.run (needBelow scope.toNat 6 42 ++ needK d 25 ++ needK a 18) fun s =>
    match s.actG g with
    | [] => s
    | ld :: _ => s.command ld scope.toNat .uncounted d (.publish scope.toNat (s.kOf (a.toNat - 96) ld)) putCopy)

/-! ### Taking a command (R239, R242, R437) -/

/-- Does a command pause for a save: a CPY or a splat command (Table 17.1)? -/
def Job.pauses : Job → Bool
  | .cpy .. => true
  | .splat .. => true
  | _ => false

/-- Commands that an engine may take or go on with: none it must wait for, not parked, not paused, nor to be paused for the
save of its cluster, which a workgroup that has exited has no part in (R127, R343, R347). -/
def State.runnable (s : State) (c : Cmd) : Bool :=
  c.id != 0 && !c.paused && c.parked.isNone && !(c.job.pauses && s.frozen c.wave && (s.wgOf c.wg).live != []) && c.after.all fun i => !s.cmdLive i

/-- Bit of ENGMASK that a command's engine needs (Table 16.2). SHDW and PUBLISH ask for none: R449 names copy, collective and
splat commands, and R438 gives a SHDW no such cause (DESIGN CHOICE, unsafe; log entry 79). -/
def Job.mask : Job → Nat
  | .coll .. => 1
  | .splat .. => 2
  | _ => 0

/-- ERR 10: the queue's ENGMASK lacks the engine (R449). -/
def State.denied (s : State) (c : Cmd) : Bool := !(s.queueOf c.grid).engmask.getLsbD c.job.mask

/-- Read a command's record of `n` bytes, aligned to `n` or, for 32 or 64 bytes, to itself. -/
def State.takeRecord (s : State) (sect : Nat) (c : Cmd) (addr n : Nat) (use : State → List Byte → State) : State :=
  let fail := fun (s : State) e => s.onCmd sect c.id fun c => { c with taken := true, err := e }
  match s.engRead sect c.ctx c.grid addr n with
  | .ok (bs, s) => use s bs
  | .stop (.err e) s => fail s e
  | .stop (.park va level kind pte) s => s.parkCmd sect c va level kind pte
  | .stop (.kill a) s => s.walkPoison c.ctx a c.grid

/-- The slot of a CPY's release, checked once its record is read: none of a release, a slot, or a failure (R242). -/
def State.cpySlot (s : State) (c : Cmd) (ring : Option Nat) (crd : List Word) (rank : Nat) : Option (Option Nat) :=
  match ring with
  | none => some none
  | some q =>
    let i := (crd.getD rank 0).toNat
    let g := s.wgOf c.wg
    let sl := g.slots.get (16 * q + i)
    if decide (i < (ringOf g q).slots) && sl.full && sl.holder == some c.wave && !sl.pending then some (some i) else none

/-- A release becomes pending (R242, R410). -/
def State.pend (s : State) (wg q i : Nat) : State :=
  s.mapWg wg fun g => { g with slots := g.slots.upd (16 * q + i) fun x => { x with pending := true } }

/-- The spans of global memory that a copy of a box targets: each element's bytes, the header and the block of a compressed
one, and its bytes at the destination of a `.g2g` (R105, R242, R244). -/
def copySpans (l : Layout) (dir dst : Nat) (crd : List Int) : List (Nat × Nat) :=
  (List.range l.count).flatMap fun i =>
    let cs := boxCoords l crd i
    let off := l.offset (cs.map Int.toNat) / 2
    let n := max 1 (l.nib / 2)
    let own := if l.comp then [(l.cbase + 8 * (off / 4096), 8), (l.base + off / 4096 * 4096, 4096)]
      else [((l.base + off) % 2 ^ 64, n)]
    if outOfBounds l.dims cs then [] else own ++ if dir = 2 then [((dst + off) % 2 ^ 64, n)] else []

/-- The engine has read a CPY's or a host COPY's layout record: it checks the rules and the slot, and pins the pages of the
box (R105, R242, R437). `first` is an error it has found already, or 0. -/
def State.takeLayout (s : State) (sect : Nat) (c : Cmd) (first dir dst : Nat) (ring : Option Nat) (crd : List Word)
    (rec' : List Byte) : State :=
  let l := layoutOf rec'
  let ok := l.good dir dst (crd.map BitVec.toInt)
  let far := dir != 2 && decide (4096 * (s.wgOf c.wg).launch.scratch < dst + l.bytes)
  let err := if first ≠ 0 then first else if !ok then 1 else if far then 11 else 0
  match (if 1 ≤ l.rank ∧ l.rank ≤ 5 then s.cpySlot c ring crd l.rank else some none) with
  | none => s.onCmd sect c.id fun c => { c with taken := true, err := if first ≠ 0 then first else 1 }
  | some slot =>
    let s := match ring, slot with
      | some q, some i => s.pend c.wg q i
      | _, _ => s
    let s := if err = 0 then (s.refer sect c (copySpans l dir dst (crd.map BitVec.toInt))).2 else s
    s.onCmd sect c.id fun c => { c with taken := true, record := rec', err := err, slot := slot }

/-- Modules of a subtree that sent no report. -/
def Grid.lostAll (g : Grid) : Nat := g.reports.foldl (fun n r => n + r.lost) g.lost

/-- A collective of the grid of `c` on this module, in whichever section, whose record gave TAG `tag` and that was not
refused as a second of its TAG (R441). -/
def Cmd.sameTag (c : Cmd) (tag : Nat) (d : Cmd) : Bool :=
  match d.job with
  | .coll .. => d.taken && d.record != [] && d.grid == c.grid && d.err != 9 && fieldAt d.record 20 4 == tag
  | _ => false

/-- A collective's record and its rules (R248, R249, R441): the error, or 0. It is the second of its TAG where a collective
issued before it, whose number is lower, has the TAG and has not completed. -/
def State.collErr (s : State) (c : Cmd) (kind scope : Nat) (rec' : List Byte) : Nat :=
  let n := if scope = 4 then max 1 (s.gridOf c.grid).span.length else 1
  let count := fieldAt rec' 16 4
  let twin := s.sects.any fun t => t.2.copyQ.any fun d => decide (d.id < c.id) && c.sameTag (fieldAt rec' 20 4) d
  if fieldAt rec' 24 1 != 0 ∨ fieldAt rec' 26 6 != 0 ∨ count = 0 then 1
  else if kind = 1 ∧ count % n ≠ 0 then 1
  else if kind = 3 ∧ n ≤ fieldAt rec' 25 1 then 1
  else if twin then 9
  else if scope = 4 ∧ (s.gridOf c.grid).lostAll ≠ 0 then 8
  else 0

/-- A collective issued later that gave the TAG which the record of `c` gives, and was read before it, is the second of the
TAG: ERR 9 (R441). -/
def State.secondOfTag (s : State) (c : Cmd) (rec' : List Byte) : State :=
  let refuse := fun (d : Cmd) =>
    if c.id < d.id ∧ d.err = 0 ∧ c.sameTag (fieldAt rec' 20 4) d = true then { d with err := 9 } else d
  { s with sects := s.sects.mapV fun t => { t with copyQ := t.copyQ.map refuse } }

/-- Where a collective reads and writes: its source and its destination (R105, R249). -/
def collSpans (kind type count n src dst : Nat) : List (Nat × Nat) :=
  let z := if type = 1 then 2 else 4
  [(src, z * count), (dst, z * (match kind with
    | 1 => count / n
    | 2 => n * count
    | _ => count))]

/-- A denied CPY moves nothing; it performs the ring release that it names where its record says which slot (R37, R436,
R449). A command whose record cannot be read, with ERR 4, 6 or 10, names no slot and releases none (DEDUCED, unsafe; log
entry 83). -/
def State.takeDenied (s : State) (sect : Nat) (c : Cmd) (dir dst layout : Nat) (ring : Option Nat) (crd : List Word) : State :=
  let read : EngRes (List Byte × State) :=
    if ring = none ∨ layout % 64 ≠ 0 then .stop (.err 10) s else s.engRead sect c.ctx c.grid layout 64
  match read with
  | .ok (bs, s) => s.takeLayout sect c 10 dir dst ring crd bs
  | .stop _ s => s.onCmd sect c.id fun c => { c with taken := true, err := 10 }

/-- COPY_ENGINE_TAKE: the engine takes the first command of its queue that may begin, and reads its record (R237, R239,
R242, R248); SHDW and PUBLISH have none. (DEDUCED, unsafe; log entry 38.) -/
def execCopyEngineTake (sect : Nat) (s : State) : Answer :=
  .next (match (s.sect sect).copyQ.find? fun c => !c.taken && s.runnable c with
    | none => s
    | some c =>
      match c.job with
      | .cpy dir _ ring layout crd dst =>
        if s.denied c then s.takeDenied sect c dir dst layout ring crd
        else if layout % 64 ≠ 0 then s.onCmd sect c.id fun c => { c with taken := true, err := 4 }
        else s.takeRecord sect c layout 64 fun s bs => s.takeLayout sect c 0 dir dst ring crd bs
      | .host _ _ layout dst crd =>
        if layout % 64 ≠ 0 then s.onCmd sect c.id fun c => { c with taken := true, err := 4 }
        else s.takeRecord sect c layout 64 fun s bs => s.takeLayout sect c 0 2 dst none crd bs
      | .coll kind _ type scope record _ =>
        if s.denied c then s.onCmd sect c.id fun c => { c with taken := true, err := 10 }
        else if record % 32 ≠ 0 then s.onCmd sect c.id fun c => { c with taken := true, err := 4 }
        else s.takeRecord sect c record 32 fun s bs =>
          let e := s.collErr c kind scope bs
          let n := if scope = 4 then max 1 (s.gridOf c.grid).span.length else 1
          let spans := collSpans kind type (fieldAt bs 16 4) n (fieldAt bs 0 8) (fieldAt bs 8 8)
          let s := if e = 0 then (s.refer sect c spans).2 else s
          let s := s.when (e != 9) fun s => s.secondOfTag c bs
          s.onCmd sect c.id fun c => { c with taken := true, record := bs, err := e }
      | _ => s.onCmd sect c.id fun c => { c with taken := true })

/-! ### Completing a copy (R238, R242) -/

/-- A command of an engine has ended: a CPY's status, or a host COPY's completion (R238, R326). -/
def State.endCopy (s : State) (c : Cmd) (err : Nat) : State :=
  match c.job with
  | .cpy _ _ ring _ _ _ => s.finishCmd c (statusWord err c.methods (ceilDiv c.nibbles 2)) ring
  | .host q _ _ _ _ =>
    { s.dropCmds fun d => d.id == c.id with
      queues := s.queues.upd q fun v => { v with taken := v.taken.filter fun t => t != (false, c.id) } }
  | _ => s

/-- COPY_COMPLETE: the engine moves the rest of the box; a page that is not present parks the command at its element
(R109, R242, R244, R436). -/
def execCopyComplete (sect cmd : Nat) (s : State) : Answer :=
  let c := s.copyCmd sect cmd
  let move := fun (dir dst : Nat) (crd : List Word) =>
    if c.err ≠ 0 then s.endCopy c c.err
    else
      let l := layoutOf c.record
      let r := (s.flushWindow c.wg).refer sect c (copySpans l dir dst (crd.map BitVec.toInt))
      let c := r.1
      let r := Move.run ⟨r.2, c.grid, c.nibbles, c.methods, none, []⟩
        (fun m i => m.element sect c.ctx c.wg dir dst l (crd.map BitVec.toInt) i)
        ((List.range l.count).drop c.progress) c.progress
      let c := { c with progress := r.1, nibbles := r.2.1.nibbles, methods := r.2.1.methods }
      let s := r.2.1.s.coverSectors r.2.1.wrote
      match r.2.2 with
      | none => s.endCopy c 0
      | some (.err e) => s.endCopy c e
      | some (.park va level kind pte) => s.parkCmd sect c va level kind pte
      | some (.kill a) => s.walkPoison c.ctx a c.grid
  .next (s.when (c.taken && s.runnable c) fun s =>
    match c.job with
    | .cpy dir _ _ _ crd dst => move dir dst crd
    | .host _ _ _ dst crd => move 2 dst crd
    | _ => s)

/-! ### Shadow regions (R245 to R247) -/

/-- Why a region may not open: 1 base or count, 2 a page without a present level-0 leaf, 3 sixteen open, 4 overlap
(R438); 0 when it may. -/
def State.regionCause (s : State) (ctx base count : Nat) : Nat :=
  let rs := (s.ctx ctx).regions
  if base % 2 ^ 14 ≠ 0 ∨ count = 0 ∨ 65536 < count then 1
  else if (List.range count).any fun i => (match s.walk ctx (base + i * 2 ^ 14) with
    | .leaf _ _ level => level != 0
    | _ => true) || !canonical (base + i * 2 ^ 14) then 2
  else if 16 ≤ rs.length then 3
  else if rs.any fun r => decide (base < r.base + r.pages * 2 ^ 14) && decide (r.base < base + count * 2 ^ 14) then 4
  else 0

/-- The open region of a handle (R245, R440). -/
def Ctx.regionOfHandle (c : Ctx) (h : Word) : Option Region :=
  c.regions.find? fun r => r.serial == h.toNat / 2 ^ 8 && r.index == h.toNat % 16 && h.toNat / 2 ^ 8 != 0

/-- Is a PUBLISH of a region that overlaps a range about to complete, so that a SHDW of the range follows it (R250)? -/
def State.publishFirst (s : State) (ctx base count : Nat) : Bool :=
  s.sects.any fun t => t.2.copyQ.any fun d => d.ctx == ctx && d.taken && s.runnable d && (match d.job with
    | .publish _ h => (match (s.ctx ctx).regionOfHandle h with
      | some r => decide (base < r.base + r.pages * 2 ^ 14) && decide (r.base < base + count * 2 ^ 14)
      | none => false)
    | _ => false)

/-- SHADOW_REGION_OPENED: the region opens, SHD is set in its leaves, and D takes the handle (R245, R438). The region takes
the lowest index that is free, and SERIAL goes from 2^24 - 1 to 1: R245 says neither (DESIGN CHOICE, unsafe; log entry
79). -/
def execShadowRegionOpened (sect cmd : Nat) (s : State) : Answer :=
  let c := s.copyCmd sect cmd
  .next (s.when (c.taken && s.runnable c) fun s =>
    match c.job with
    | .shdw base count =>
      s.when (!s.publishFirst c.ctx base count) fun s =>
      match s.regionCause c.ctx base count with
      | 0 =>
        let serial := (s.ctx c.ctx).serial % (2 ^ 24 - 1) + 1
        let index := ((List.range 16).find? fun i => !(s.ctx c.ctx).regions.any fun r => r.index == i).getD 0
        let s := (List.range count).foldl (fun s i => s.markLeaf c.ctx (base + i * 2 ^ 14) 0x800 true) s
        let s := s.onCtx c.ctx fun x => { x with
          serial := serial, regions := x.regions ++ [⟨index, serial, base, count, []⟩] }
        s.finishCmd c (BitVec.ofNat 32 (serial * 2 ^ 8 + index)) none
      | n => s.finishCmd c (BitVec.ofNat 32 n) none
    | _ => s)

/-- Exchange the mapping of a page with its shadow frame: the frame it had (R129). -/
def State.exchange (s : State) (ctx va frame : Nat) : Nat × State :=
  match s.walk ctx va with
  | .leaf pte a _ =>
    let new := (pte &&& ~~~(BitVec.ofNat 64 ((2 ^ 38 - 1) * 2 ^ 14))) ||| BitVec.ofNat 64 (frame / 2 ^ 14 * 2 ^ 14)
    (pteFrame pte, s.writePhys a (leBytes 8 new.toNat))
  | _ => (frame, s)

/-- Section TLB entries and L1 lines of a range of an ASID leave every section and core (R106, R129). -/
def State.invalRange (s : State) (asid base len : Nat) : State :=
  let s := { s with sects := s.sects.mapV fun t => { t with tlb := t.tlb.filter fun e =>
    !(e.asid == asid && decide (e.page < base + len) && decide (base < e.page + pageSize e.level)) } }
  s.cores.foldl (fun s c => s.dropLines c.1 fun l =>
    l.asid == asid && decide (base ≤ l.va * 128 + 127) && decide (l.va * 128 < base + len)) s

/-- PUBLISH_EXCHANGE: the stores in flight reach the old pages, every page with a frame changes its mapping in one update,
and the region closes (R129, R247, R440). -/
def execPublishExchange (sect cmd : Nat) (s : State) : Answer :=
  let c := s.copyCmd sect cmd
  .next (s.when (c.taken && s.runnable c) fun s =>
    match c.job with
    | .publish _ h =>
      if c.err ≠ 0 then s.finishCmd c (statusWord c.err 0 0) none
      else match (s.ctx c.ctx).regionOfHandle h with
        | none => s.finishCmd c (statusWord 7 0 0) none
        | some r =>
          let s := s.flushAll
          let s := s.invalRange (s.ctx c.ctx).asid r.base (r.pages * 2 ^ 14)
          let x := r.frames.foldl (fun (acc : List Nat × State) f =>
            let e := acc.2.exchange c.ctx (r.base + f.1 * 2 ^ 14) f.2
            (acc.1 ++ [e.1], e.2)) ([], s)
          (x.2.closeRegion c.ctx r x.1).finishCmd c (statusWord 0 0 r.frames.length) none
    | _ => s)

/-! ### Collectives (R248, R249, R441) -/

/-- Bytes of an element of a collective: .f32, .bf16, .s32. -/
def collSize (type : Nat) : Nat := if type = 1 then 2 else 4

/-- A share's elements. -/
def collWords (type : Nat) (bs : List Byte) (n : Nat) : List Nat :=
  (List.range n).map fun i => fieldAt bs (i * collSize type) (collSize type)

/-- Combine the elements of the shares, in the order given (R249). -/
def collReduce (op type : Nat) (xs : List Nat) : Nat :=
  let f := if type = 1 then Fmt.bf16 else Fmt.fp32
  match op, type with
  | 0, 2 => xs.foldl (fun a b => (a + b) % 2 ^ 32) 0
  | 0, _ =>
    let vs := xs.map fun x => f.decode x
    match vs with
    | [] => 0
    | v :: vs =>
      let t := vs.foldl (fun (a : XVal) b => Fmt.decode .fp32 (Fmt.round .fp32 .rne .none (XVal.add .rne a b))) v
      f.round .rne .none t
  | 1, 2 => xs.foldl (fun a b => if signedNat 32 b < signedNat 32 a then b else a) (xs.headD 0)
  | _, 2 => xs.foldl (fun a b => if signedNat 32 a < signedNat 32 b then b else a) (xs.headD 0)
  | 1, _ => f.round .rne .none ((xs.map f.decode).foldl XVal.minNum ((xs.map f.decode).headD .nan))
  | _, _ => f.round .rne .none ((xs.map f.decode).foldl XVal.maxNum ((xs.map f.decode).headD .nan))

/-- The order in which a sum takes its shares: the device's choice when it names each once (R249; DESIGN CHOICE, safe;
log entry 9). -/
def collOrder (fresh n : Nat) : List Nat :=
  let o := (Config.sumOrder fresh).take n
  if distinct o == List.range n then o else List.range n

/-- What the module at place `m` receives (R249), from the shares in order of place. -/
def collResult (kind op type count m fresh : Nat) (shares : List (List Byte)) (root : Nat) : List Byte :=
  let z := collSize type
  let ws := shares.map fun s => collWords type s count
  let n := shares.length
  let red := fun i => leBytes z (collReduce op type ((collOrder fresh n).map fun j => (ws.getD j []).getD i 0))
  match kind with
  | 0 => (List.range count).flatMap red
  | 1 => (List.range (count / n)).flatMap fun i => red (m * (count / n) + i)
  | 2 => shares.flatMap fun s => s.take (count * z)
  | _ => (shares.getD root []).take (count * z)

/-- Bytes in chunks that an engine moves at a time: whole sectors, and single bytes beside them, so that a write of a whole
sector is one write (R423). -/
def chunks (va : Nat) : Nat → List Byte → List (Nat × List Byte)
  | 0, _ => []
  | n + 1, bs =>
    if bs = [] then []
    else if va % 32 = 0 ∧ 32 ≤ bs.length then (va, bs.take 32) :: chunks (va + 32) n (bs.drop 32)
    else (va, bs.take 1) :: chunks (va + 1) n (bs.drop 1)

/-- Read bytes through the engine: those read, and how it ended. -/
def State.engReadSome (s : State) (sect ctx grid va n : Nat) : List Byte × State × Option EngEnd :=
  (chunks va n (List.replicate n 0)).foldl (fun (acc : List Byte × State × Option EngEnd) ch =>
    match acc.2.2 with
    | some _ => acc
    | none =>
      match acc.2.1.engRead sect ctx grid ch.1 ch.2.length with
      | .stop e s => (acc.1, s, some e)
      | .ok (b, s) => (acc.1 ++ b, s, none)) ([], s, none)

/-- Read bytes through the engine, all of them. -/
def State.engReadAll (s : State) (sect ctx grid va n : Nat) : EngRes (List Byte × State) :=
  match s.engReadSome sect ctx grid va n with
  | (bs, s, none) => .ok (bs, s)
  | (_, s, some e) => .stop e s

/-- Write bytes through the engine: how many, and how it ended. -/
def State.engWriteAll (s : State) (sect ctx grid va : Nat) (bs : List Byte) : Nat × State × Option EngEnd :=
  (chunks va bs.length bs).foldl (fun (acc : Nat × State × Option EngEnd) ch =>
    match acc.2.2 with
    | some _ => acc
    | none =>
      match acc.2.1.engWrite sect ctx grid ch.1 ch.2 with
      | .stop e s => (acc.1, s, some e)
      | .ok s => (acc.1 + ch.2.length, s, none)) (0, s, none)

/-- Destination bytes of a collective (R249). -/
def collBytes (kind type count n : Nat) : Nat :=
  collSize type * (match kind with
    | 1 => count / n
    | 2 => n * count
    | _ => count)

/-- How a collective's step ended (R109, R238, R436); parked, it keeps what it has read and written. -/
def State.endColl (s : State) (sect : Nat) (c : Cmd) (e : Option EngEnd) : State :=
  match e with
  | none => s.finishCmd c (statusWord 0 0 c.progress) none
  | some (.err n) => s.finishCmd c (statusWord n 0 c.progress) none
  | some (.park va level kind pte) => s.parkCmd sect c va level kind pte
  | some (.kill a) => s.walkPoison c.ctx a c.grid

/-- A collective reads what is left of its source, combines it with the shares, and writes what is left of its result
(R109, R249). -/
def State.moveColl (s : State) (sect : Nat) (c : Cmd) (src n dst : Nat) (result : Nat → List Byte → List Byte) : State :=
  let r := if c.out = [] then s.engReadSome sect c.ctx c.grid (src + c.data.length) (n - c.data.length) else ([], s, none)
  let c := { c with data := c.data ++ r.1 }
  match r.2.2 with
  | some e => r.2.1.endColl sect c (some e)
  | none =>
    let s := r.2.1
    let c := if c.out = [] then { c with out := result s.fresh c.data } else c
    let w := s.engWriteAll sect c.ctx c.grid (dst + c.progress) (c.out.drop c.progress)
    { w.2.1 with fresh := s.fresh + 1 }.endColl sect { c with progress := c.progress + w.1 } w.2.2

/-- COLL_COMPLETE: the shares of the other participants have arrived over the fabric; the destination is written through
the region and the status follows (R248, R249, R441). A collective that parked goes on with the shares it has. -/
def execCollComplete (sect cmd : Nat) (shares : List CollShare) (s : State) : Answer :=
  let c := s.copyCmd sect cmd
  .next (s.when (c.taken && s.runnable c) fun s =>
    match c.job with
    | .coll kind op type scope _ handle =>
      let g := s.gridOf c.grid
      let n := if scope = 4 then max 1 g.span.length else 1
      let me := if scope = 4 then g.place else 0
      let src := fieldAt c.record 0 8
      let dst := fieldAt c.record 8 8
      let count := fieldAt c.record 16 4
      let size := collBytes kind type count n
      let others := (List.range n).filter fun p => p != me
      let shares := if c.shares = [] then shares else c.shares
      if c.err ≠ 0 then s.finishCmd c (statusWord c.err 0 c.progress) none
      else if others.any fun p => !shares.any fun x => x.place == p then s
      else
        let mine := others.filterMap fun p => shares.find? fun x => x.place == p
        if mine.any fun x => x.kind.toNat != kind || (kind < 2 && x.op.toNat != op) || x.type.toNat != type
            || x.count != count then
          s.finishCmd c (statusWord 9 0 0) none
        else if kind = 3 ∧ mine.any fun x => decide (n ≤ x.root) then s.finishCmd c (statusWord 1 0 0) none
        else match (s.ctx c.ctx).regionOfHandle handle with
          | none => s.finishCmd c (statusWord 7 0 0) none
          | some r =>
            if dst < r.base ∨ r.base + r.pages * 2 ^ 14 < dst + size then s.finishCmd c (statusWord 7 0 0) none
            else
              let x := s.refer sect { c with shares := mine } (collSpans kind type count n src dst)
              let all := fun (own : List Byte) => (List.range n).map fun p =>
                if p = me then own else ((mine.find? fun x => x.place == p).map CollShare.data).getD []
              x.2.moveColl sect x.1 src (collSize type * count) dst fun fresh own =>
                collResult kind op type count me fresh (all own) (fieldAt c.record 25 1)
    | _ => s)

/-- A participant of a collective is lost: ERR 8, unless an error was found before (R436); what the destination then holds is not specified (R441; DESIGN CHOICE,
safe; log entry 9). -/
def State.losePeer (s : State) (sect : Nat) (c : Cmd) : State :=
  match c.job with
  | .coll kind _ type scope _ handle =>
    let n := if scope = 4 then max 1 (s.gridOf c.grid).span.length else 1
    if n = 1 then s
    else if c.err ≠ 0 then s.finishCmd c (statusWord c.err 0 c.progress) none
    else
      let size := collBytes kind type (fieldAt c.record 16 4) n
      let dst := fieldAt c.record 8 8
      let w := match (s.ctx c.ctx).regionOfHandle handle with
        | some r =>
          if dst < r.base ∨ r.base + r.pages * 2 ^ 14 < dst + size then (0, s, none)
          else s.engWriteAll sect c.ctx c.grid dst ((List.range size).map fun i => Config.lostBytes s.fresh i)
        | none => (0, s, none)
      { w.2.1 with fresh := s.fresh + 1 }.finishCmd c (statusWord 8 0 w.1) none
  | _ => s

/-- COLL_PEER_LOST (R441). -/
def execCollPeerLost (sect cmd : Nat) (s : State) : Answer :=
  let c := s.copyCmd sect cmd
  .next (s.when (c.taken && !c.paused && c.id != 0) fun s => s.losePeer sect c)

/-- A module of a grid's span is lost: its collectives here that have begun end with ERR 8, and one that begins later finds
the loss (R441, R451). -/
def State.losePeers (s : State) (grid : Nat) : State :=
  s.sects.foldl (fun s t => (t.2.copyQ.filter fun c => c.grid == grid && c.taken).foldl (fun s c => s.losePeer t.1 c) s) s

/-- The enabled events of a section's copy engine (DESIGN CHOICE, unsafe; log entry 3). A collective's other shares
come from outside. -/
def State.copyEvents (s : State) (sect : Nat) : List Instr :=
  let q := (s.sect sect).copyQ
  (if q.any fun c => !c.taken && s.runnable c then [Instr.copyEngineTake sect] else [])
    ++ (q.filter fun c => c.taken && s.runnable c).flatMap fun c => match c.job with
      | .cpy .. | .host .. => [Instr.copyComplete sect c.id]
      | .shdw base count => if s.publishFirst c.ctx base count then [] else [Instr.shadowRegionOpened sect c.id]
      | .publish .. => [Instr.publishExchange sect c.id]
      | .coll _ _ _ scope _ _ =>
        if scope ≠ 4 ∨ (s.gridOf c.grid).span.length ≤ 1 ∨ c.err ≠ 0 ∨ c.shares ≠ [] then
          [Instr.collComplete sect c.id []] else []
      | .splat .. => []

end Sys2Proof.Machine
end

