-- ==== Sys2Proof/Machine/Grids.lean ====
section
/-!
DEFINITION. Machine/Grids.lean: launch records and node tables, the dealing of dispatch units, the start of workgroups,
the pending-launch stores, gather batches and the completion of grids (R18 to R28, R303 to R305, R326 to R340, R364, R395,
R435, R448, R449).
-/

namespace Sys2Proof.Machine

/-! ### Launch records (R328, R433, R449) -/

/-- A ring's field of a launch record (Table 16.4). -/
def ringField (x : Nat) : Ring := ⟨x.testBit 31, natBits 27 4 x + 1, natBits 15 12 x * 128, natBits 3 12 x * 128⟩

/-- The fields of a launch record (Table 16.4). -/
def launchOf (r : List Byte) : LaunchRec :=
  { code := BitVec.ofNat 32 (fieldAt r 0 4), nwgx := fieldAt r 4 4, nwgy := fieldAt r 8 2, nwgz := fieldAt r 10 2
    width := widthOf (fieldAt r 12 1 % 8), waves := fieldAt r 13 1
    cw := fieldAt r 14 1 % 16 + 1, ch := fieldAt r 14 1 / 16 + 1, scratch := fieldAt r 15 1, param := fieldAt r 16 8
    stagemap := (List.range 32).map fun n => natBits (3 * n) 3 (fieldAt r 24 12)
    rings := (List.range 4).map fun q => ringField (fieldAt r (36 + 4 * q) 4)
    barriers := fieldAt r 52 1, splitMiss := (fieldAt r 53 1).testBit 0, round := BitVec.ofNat 2 (fieldAt r 53 1 / 2)
    assist := (fieldAt r 53 1).testBit 3, prio := BitVec.ofNat 3 (fieldAt r 54 1), yieldDl := fieldAt r 55 1
    divN := natBits 0 7 (fieldAt r 56 4), divOffset := natBits 7 12 (fieldAt r 56 4) * 128
    fusetab := (List.range 14).map fun i => fieldAt r (60 + 2 * i) 2
    span := fieldAt r 88 8, compl := fieldAt r 96 8, nodetab := fieldAt r 104 8 }

/-- Workgroups of a grid, and its dispatch units (R24, R329). -/
def LaunchRec.groups (l : LaunchRec) : Nat := l.nwgx * l.nwgy * l.nwgz
def LaunchRec.units (l : LaunchRec) : Nat := l.groups / l.unit

/-- The limits of Table 2.1, the field ranges of Table 16.4 and the window rules of R433 (R449). -/
def launchGood (r : List Byte) : Bool :=
  let l := launchOf r
  let window := 4096 * l.scratch
  decide (fieldAt r 12 1 ≤ 4) && decide (1 ≤ l.waves) && decide (l.waves ≤ 32) && decide (l.waves * l.width ≤ 512)
    && decide (l.unit ≤ 12) && decide (1 ≤ l.nwgx) && decide (1 ≤ l.nwgy) && decide (1 ≤ l.nwgz)
    && decide (l.groups < 2 ^ 48) && (l.unit == 1 || l.nwgx % l.unit == 0)
    && decide (l.scratch ≤ 96) && decide (l.barriers ≤ 16)
    && decide (fieldAt r 53 1 < 16) && decide (fieldAt r 54 1 < 8)
    && (l.yieldDl == 0 || (decide (10 ≤ l.yieldDl) && decide (l.yieldDl ≤ 24)))
    && decide (l.divN ≤ 64) && natBits 19 13 (fieldAt r 56 4) == 0
    && (l.divN == 0 || decide (l.divOffset + l.waves * (l.width / 4) * l.divN * 8 ≤ window))
    && l.fusetab.all (· != 0)
    && ((List.range 4).all fun q => fieldAt r (36 + 4 * q) 4 % 8 == 0)
    && (l.rings.all fun q => !q.valid || decide (q.offset + q.slots * q.size ≤ window))
    && fieldAt r 112 16 == 0

/-! ### Accesses of the scheduler core (R326) -/

/-- How an access of the scheduler core for a context ends. -/
inductive FwEnd where
  | ok (pa : Nat)
  | bad
  | absent (va level : Nat) (pte : DWord)
  | poison (addr : Nat)
  deriving DecidableEq, Repr, Inhabited

/-- The checks of an aligned access of the scheduler core as an access of a context (R326). -/
def State.fwCheck (s : State) (ctx va : Nat) (n : Need) : FwEnd :=
  if !canonical va then .bad
  else match s.walk ctx va with
    | .leaf pte _ level => if grants pte n then .ok (leafAddr pte level va) else .bad
    | .np level pte => .absent va level pte
    | .poison a => .poison a
    | _ => .bad

/-- The A and D bits that an access sets, and the line it uses (R99, R105). -/
def State.fwTouch (s : State) (ctx va : Nat) (n : Need) : State := s.ctxTouch ctx va n.w

def needRead : Need := ⟨true, false, false, false⟩
def needWrite : Need := ⟨false, true, false, false⟩
def needBoth : Need := ⟨true, true, false, false⟩

/-- The checks of a range, 16 bytes at a time, from an address aligned to 8. -/
def State.fwRange (s : State) (ctx va n : Nat) : FwEnd :=
  (List.range (ceilDiv n 8)).foldl (fun e i =>
    match e with
    | .ok pa => match s.fwCheck ctx (va + 8 * i) needRead with
      | .ok _ => .ok pa
      | e => e
    | e => e) (s.fwCheck ctx va needRead)

/-- The bytes of a range whose checks passed. -/
def State.fwBytes (s : State) (ctx va n : Nat) : List Byte :=
  ((List.range (ceilDiv n 8)).flatMap fun i => (s.ctxRead ctx (va + 8 * i) 8).getD []).take n

/-! ### Node tables (R364) -/

/-- The entries of a node table's bytes. -/
def nodesOf (b : List Byte) (n : Nat) : List Node :=
  (List.range n).map fun i =>
    let o := 16 + 16 * i
    ⟨fieldAt b o 2, widthOf (fieldAt b (o + 2) 1 % 8), fieldAt b (o + 4) 2, fieldAt b (o + 6) 2,
      BitVec.ofNat 32 (fieldAt b (o + 8) 4)⟩

/-- Does a node table keep the rules of R364? -/
def nodesGood (b : List Byte) (n : Nat) : Bool :=
  let ids := (nodesOf b n).map Node.id
  fieldAt b 4 12 == 0 && ((List.range n).all fun i =>
    let o := 16 + 16 * i
    let stride := fieldAt b (o + 6) 2
    decide (fieldAt b (o + 2) 1 ≤ 4) && fieldAt b (o + 3) 1 == 0 && fieldAt b (o + 12) 4 == 0
      && decide (1 ≤ fieldAt b (o + 4) 2) && decide (4 ≤ stride) && decide (stride ≤ 256) && stride % 4 == 0
      && decide (fieldAt b o 2 < 4096)) && distinct ids == ids && decide (n ≤ 4096)

/-- What reading a record or a table of a context gives. -/
inductive Got (α : Type) where
  | ok (a : α)
  | bad
  | absent (va level : Nat) (pte : DWord)
  | poison (addr : Nat)
  deriving Repr

/-- The node table at an address; 0 names none (R364, R449). -/
def State.nodeTable (s : State) (ctx addr : Nat) : Got (List Node) :=
  if addr = 0 then .ok []
  else if addr % 16 ≠ 0 then .bad
  else match s.fwRange ctx addr 16 with
    | .bad => .bad
    | .absent va level pte => .absent va level pte
    | .poison a => .poison a
    | .ok _ =>
      let n := fieldAt (s.fwBytes ctx addr 16) 0 4
      if 4096 < n then .bad
      else match s.fwRange ctx addr (16 + 16 * n) with
        | .bad => .bad
        | .absent va level pte => .absent va level pte
        | .poison a => .poison a
        | .ok _ =>
          let b := s.fwBytes ctx addr (16 + 16 * n)
          if nodesGood b n then .ok (nodesOf b n) else .bad

/-! ### Completion words (R201, R327, R392, R395) -/

/-- A completion word (Table 16.5). -/
def completionWord (err mode cancelled : Nat) : Nat := 2 ^ 63 + err * 2 ^ 59 + mode * 2 ^ 57 + cancelled % 2 ^ 48

/-- The A bits that reading a node table sets: of its header, and of its entries where it has any (R105, R364). -/
def State.touchNodes (s : State) (ctx addr : Nat) : State :=
  match (if addr = 0 ∨ addr % 16 ≠ 0 then FwEnd.bad else s.fwRange ctx addr 16) with
  | .ok _ =>
    let n := fieldAt (s.fwBytes ctx addr 16) 0 4
    match (if 4096 < n then FwEnd.bad else s.fwRange ctx addr (16 + 16 * n)) with
    | .ok _ => s.ctxTouchRange ctx addr (16 + 16 * n) false
    | _ => s.ctxTouchRange ctx addr 16 false
  | _ => s

/-- A launch record whose starting priority is lowered to a queue's limit (R328). -/
def LaunchRec.lower (l : LaunchRec) (maxprio : Nat) : LaunchRec :=
  { l with prio := BitVec.ofNat 3 (min l.prio.toNat maxprio) }

/-- A grid takes its place among those the module holds (R326). -/
def State.addGrid (s : State) (g : Grid) : Nat × State :=
  let id := s.names + 1
  (id, { s with names := id, grids := s.grids ++ [{ g with id := id }] })

/-- Does the module still hold work of a grid (R327)? -/
def State.busyGrid (s : State) (id : Nat) : Bool :=
  (s.allWgs.any fun w => w.grid == id) || (s.saved.any fun v => v.members.any fun m => m.wg.grid == id)
    || (s.dies.any fun d => (d.2.store.any fun e => e.grid == id) || (d.2.ring.any fun e => e.grid == id)
      || (d.2.heldJoins.any fun e => e.grid == id) || (d.2.parents.any fun e => e.grid == id)
      || (d.2.batches.any fun e => e.grid == id))

/-- The workgroups that this module and its subtree report completed and cancelled (R334). -/
def Grid.sums (g : Grid) : Nat × Nat :=
  g.reports.foldl (fun t r => (t.1 + r.completed, t.2 + r.cancelled)) (g.completed, g.cancelled)

/-- Every child's final report has come (R334). -/
def Grid.childrenFinal (g : Grid) : Bool :=
  (childPlaces g.place g.span.length).all fun p => g.reports.any fun r => r.place == p && r.final

/-- The error of a grid and of its subtree (R392). -/
def Grid.errAll (g : Grid) : Nat := g.reports.foldl (fun e r => lowErr e r.err) g.err

/-- The records of a subtree, and its counts per class (R395). -/
def Grid.recsAll (g : Grid) : List (Nat × List Byte) :=
  ((g.first.map fun r => (g.place, r)).toList) ++ g.reports.flatMap CountRep.recs

def Grid.countsAll (g : Grid) : List Nat :=
  (List.range 7).map fun i => min (2 ^ 32 - 1) (g.reports.foldl (fun n r => n + r.counts.getD i 0) (g.counts.getD i 0))

/-- The aggregated report of a pod-wide grid and each module's first record in ascending DEV (R395). -/
def State.aggregate (s : State) (g : Grid) : State :=
  let recs := (List.range 256).flatMap fun p => g.recsAll.filter fun r => r.1 == p
  let body := leBytes 4 g.gen ++ leBytes 4 0 ++ leBytes 2 recs.length ++ leBytes 2 g.lostAll
    ++ g.countsAll.flatMap (leBytes 4) ++ leBytes 20 0
  let s := s.pushRecord g.ctx ⟨body, 0, 5, 0, none, none, none⟩
  recs.foldl (fun s r => s.pushRecord g.ctx ⟨r.2.take 60, r.1, fieldAt r.2 63 1, 0, none, none, none⟩) s

/-- A completion word follows the record held last (R389, R395). -/
def Ctx.wordAfter (c : Ctx) (addr word : Nat) : Ctx :=
  { c with held := c.held.dropLast ++ (c.held.getLast?.map fun h => { h with word := some (addr, word) }).toList }

/-- A grid is complete: its completion word is written once, after the records of a pod-wide grid that ends with an ERR, and
the queue's vector is raised where IRQDONE asks (R201, R327, R395). -/
def State.closeGrid (s : State) (g : Grid) (err mode cancelled : Nat) : State :=
  let word := completionWord err mode cancelled
  let report := g.pod && err != 0
  let s := if report then s.aggregate g else s
  let s := if report && (s.ctx g.ctx).held != [] then s.onCtx g.ctx fun c => c.wordAfter g.launch.compl word
    else s.ctxWrite g.ctx g.launch.compl (leBytes 8 word)
  let q := s.queues.get g.queue
  let s := if !g.pod && q.irqdone then s.raise q.msix else s
  let s := s.onGrid g.id fun g => { g with done := true, err := err, mode := mode }
  if g.pod then s
  else { s with queues := s.queues.upd g.queue fun v => { v with taken := v.taken.filter fun t => t != (true, g.id) } }

/-- A grid refused at once: ERR 6, MODE 2, every workgroup cancelled (R449). -/
def State.rejectGrid (s : State) (g : Grid) : State := s.closeGrid g 6 2 g.launch.groups

/-- May a grid be completed by this module: all its work here has ended and been reported, its children are final, and at
the root the counts add up to the grid's workgroups, but where a module is lost; elsewhere the module has acknowledged the
grid, no request for pool units waits, and the pool has none left for it (R327, R330, R333, R334, R451)? -/
def State.gridEnds (s : State) (g : Grid) : Bool :=
  g.id != 0 && !g.done && g.begun && g.unstarted == 0 && g.messages == [] && !s.busyGrid g.id
    && (if g.pod then g.childrenFinal &&
        (if g.place = 0 then g.lostAll != 0 || g.sums.1 + g.sums.2 == g.launch.groups
          else g.acked && !g.poolAsked && (g.poolDone || !g.dealing))
      else true)

/-- GRID_COMPLETE: the dispatcher of the grid's only module, or the root, writes the completion word; another module
sends its final report to its parent (R327, R334, R336). -/
def execGridComplete (grid : Nat) (s : State) : Answer :=
  let g := s.gridOf grid
  .next (s.when (s.gridEnds g) fun s =>
    if g.place = 0 then
      s.closeGrid g g.errAll g.mode (if g.lostAll = 0 then g.sums.2 else g.launch.groups - g.sums.1)
    else
      let t := g.sums
      (s.send [.count g.parent g.root g.gen ⟨g.place, t.1, t.2, true, g.errAll, g.lostAll, g.countsAll, g.recsAll⟩]).onGrid
        grid fun g => { g with done := true })

/-! ### Dealing units (R329, R330) -/

/-- Do a holder's undealt units lie below half of its last grant, with at most one range held (R329)? -/
def wantsRange (rs : List URange) : Bool :=
  rs.length < 2 && (rs == [] || decide (2 * unitsIn rs < (rs.getLast?.map URange.grant).getD 0))

/-- Does a grid deal on this module (R333, R336, R341)? -/
def State.deals (s : State) (g : Grid) : Bool :=
  g.id != 0 && g.begun && g.dealing && !g.done && !(s.ctx g.ctx).yieldReq

/-- GUIDON_RANGE_REQUEST: a holder asks its parent: level 1 a die dispatcher, level 2 a section controller (R329,
R330). -/
def execGuidonRangeRequest (grid level holder : Nat) (s : State) : Answer :=
  let g := s.gridOf grid
  .next (if level = 1 then
      s.when (s.deals g && decide (holder < 8) && wantsRange (g.dieRanges.get holder) && !g.dieAsks.contains holder
          && s.hasPermit (upLink (dieHolder holder))) fun s =>
        (s.spend (upLink (dieHolder holder))).onGrid grid fun g => { g with dieAsks := g.dieAsks ++ [holder] }
    else
      s.when (s.deals g && level == 2 && decide (holder < 128) && wantsRange (g.sectRanges.get holder)
          && !g.sectAsks.contains holder && s.hasPermit (upLink holder)) fun s =>
        (s.spend (upLink holder)).onGrid grid fun g => { g with sectAsks := g.sectAsks ++ [holder] })

/-- A grant of `n` units in consecutive numbers: the first of the earliest range that holds so many; and what is left
(R329). A holder of at most sixteen ranges has one, since a grant is at most a sixteenth of its units. -/
def takeUnits (n : Nat) : List URange → Option (URange × List URange)
  | [] => none
  | r :: rs =>
    if n ≤ r.hi - r.lo then
      some (⟨r.lo, r.lo + n, n⟩, if r.lo + n = r.hi then rs else { r with lo := r.lo + n } :: rs)
    else (takeUnits n rs).map fun x => (x.1, r :: x.2)

/-- GUIDON_GRANT: the parent of a holder that asked grants it a range of consecutive units (R329, R330). -/
def execGuidonGrant (grid level holder : Nat) (s : State) : Answer :=
  let g := s.gridOf grid
  .next (if level = 1 then
      s.when (s.deals g && g.dieAsks.contains holder && s.hasPermit (downLink (dieHolder holder))) fun s =>
        match takeUnits (min 1024 (max 1 (unitsIn g.undealt / 16))) g.undealt with
        | none => s
        | some (r, rest) => (s.spend (downLink (dieHolder holder))).onGrid grid fun g => { g with
            undealt := rest, dieAsks := g.dieAsks.filter (· != holder)
            dieRanges := g.dieRanges.upd holder fun rs => rs ++ [r] }
    else
      s.when (s.deals g && level == 2 && g.sectAsks.contains holder && s.hasPermit (downLink holder)) fun s =>
        let die := holder / 16
        match takeUnits (min 64 (max 1 (unitsIn (g.dieRanges.get die) / 32))) (g.dieRanges.get die) with
        | none => s
        | some (r, rest) => (s.spend (downLink holder)).onGrid grid fun g => { g with
            dieRanges := g.dieRanges.set die rest, sectAsks := g.sectAsks.filter (· != holder)
            sectRanges := g.sectRanges.upd holder fun rs => rs ++ [r] })

/-- PERMIT_RETURN: the receiver has consumed a message; one that waits on the link goes (R330). -/
def execPermitReturn (link : Nat) (s : State) : Answer :=
  .next (s.when (decide (0 < s.permits.get link)) fun s =>
    { s with permits := s.permits.upd link (· - 1) }.sendWaiting link)

/-! ### Starting a workgroup (R20 to R22, R27, R28, R44, R74, R96, R264, R331) -/

/-- Quad slots of a partition of a core that no wave holds (R13). -/
def State.freeQuads (s : State) (core part : Nat) : Nat :=
  32 - ((s.allWaves.filter fun w => w.partition == part && (s.wgOf w.wg).core == core).foldl (fun n w =>
    n + w.quadCount) 0)

/-- Workgroups resident on a core. -/
def State.wgsOn (s : State) (core : Nat) : List WG := s.allWgs.filter fun g => g.core == core

/-- May a core take work of a context: it holds that context's work, or none (R264, R331)? -/
def State.coreTakes (s : State) (core ctx : Nat) : Bool := (s.wgsOn core).all fun g => g.ctx == ctx

/-- Do a window's lines fit beside those already pinned: at most 6 of the 8 ways of a set (R96)? -/
def State.windowFits (s : State) (core bytes : Nat) : Bool :=
  bytes == 0 || (List.range 512).all fun set =>
    pinnedIn bytes set == 0 || decide (pinnedIn bytes set + (8 - s.waysOf core set) ≤ 6)

/-- Can a core start a workgroup of a launch record (R21, R22)? -/
def State.coreFits (s : State) (core ctx : Nat) (l : LaunchRec) : Bool :=
  s.coreTakes core ctx
    && ((List.range 4).all fun p =>
      decide (((List.range l.waves).filter fun n => n % 4 == p).length * (l.width / 4) ≤ s.freeQuads core p))
    && s.windowFits core (4096 * l.scratch)
    && decide (l.barriers + (s.wgsOn core).foldl (fun n g => n + g.launch.barriers) 0 ≤ 64)

/-- A core passes to a context: cells become +0 and slot headers invalid (R264). -/
def State.passCore (s : State) (core ctx : Nat) : State :=
  if (s.core core).ctx = some ctx then s
  else s.onCells core fun c => { c with ctx := some ctx, acc := [], accBad := [], slots := [] }

/-- Unpinned lines that the ways of new windows displace leave the L1 (R96). -/
def State.trimL1 (s : State) (core : Nat) : State :=
  (List.range 512).foldl (fun s set =>
    let mine := (s.core core).l1.filter fun l => l.set == set
    let extra := mine.length - s.waysOf core set
    if extra = 0 then s else
      let gone := mine.take extra
      s.dropLines core fun l => gone.contains l) s

/-- The yield deadline of a workgroup in cycles (R342). -/
def deadlineOf (q : Queue) (l : LaunchRec) : Nat :=
  let d := 2 ^ q.deadline
  if l.yieldDl ≠ 0 ∧ 2 ^ l.yieldDl < d then 2 ^ l.yieldDl else d

/-- How a wave of a new workgroup begins: its registers and the lanes that count as exited (Table 4.5). -/
structure Seed where
  rf : RegFile
  exited : BitVec 64
  deriving DecidableEq, Repr, Inhabited

/-- The lanes of a width. -/
def lanesBelow (n : Nat) : BitVec 64 := BitVec.ofNat 64 (2 ^ n - 1)

/-- Start one wave of the workgroup in focus (R20, R21, R44, R74). -/
def State.startWave (s : State) (num part : Nat) (prio : BitVec 3) (seed : Seed) : State :=
  let id := s.names + 1
  let core := s.wg.core
  let l := s.wg.launch
  let live := lanesBelow l.width &&& ~~~seed.exited
  let w : Wave := { (default : Wave) with
    id := id, wg := s.wg.id, num := num, width := l.width, partition := part, rf := seed.rf, exited := seed.exited
    round := l.round, assist := l.assist }
  let s := { s with names := id }
  let used := (s.allWaves.filter fun v => v.partition == part && (s.wgOf v.wg).core == core).flatMap fun v =>
    v.parts.map Part.entry
  let p : Part := { (default : Part) with
    entry := (freeEntries used 1).headD 0, members := quadsWith live, pc := l.code, masks := live
    fws := .run, reason := .whole, age := (s.core core).ages.get part, prio := prio }
  let s := s.onCore core fun c => { c with ages := c.ages.upd part (· + 1) }
  { s with waves := { w with parts := [p] } :: s.waves }

/-- Put a workgroup on a core and make it the one in focus: its start is an acquire, which invalidates the L1 (R122,
R124), and its deadline counter runs while a request is pending (R342). -/
def State.placeWg (s : State) (g : WG) : State :=
  let s := (s.passCore g.core g.ctx).invalidateL1 g.core
  let d := if (s.ctx g.ctx).yieldReq then some (deadlineOf (s.queueOf g.grid) (s.gridOf g.grid).launch) else none
  let s := { s with
    waves := (if s.wave.id = 0 then [] else [s.wave]) ++ s.waves, wave := default
    wgs := (if s.wg.id = 0 then [] else [s.wg]) ++ s.wgs
    wg := { g with deadline := d } }
  s.trimL1 g.core

/-- Indices of workgroup `i` of a grid (R24). -/
def wgIndex (l : LaunchRec) (i : Nat) : Nat × Nat × Nat := (i % l.nwgx, i / l.nwgx % l.nwgy, i / l.nwgx / l.nwgy)

/-- Core at (x, y) of a die (R8). -/
def coreAt (die x y : Nat) : Nat := die * 256 + y * 16 + x

/-- Start a dispatch unit with its origin at a core (R27, R28). -/
def State.startUnit (s : State) (g : Grid) (u origin : Nat) : State :=
  let l := g.launch
  let n := l.unit
  let first := s.names + 1
  (List.range n).foldl (fun s c =>
    let id := s.names + 1
    let i := wgIndex l (n * u + c)
    let core := origin + c % l.cw + 16 * (c / l.cw)
    let w : WG := { (default : WG) with
      id := id, grid := g.id, ctx := g.ctx, core := core, cluster := first, rank := c, x := i.1, y := i.2.1, z := i.2.2
      launch := l, live := List.range l.waves }
    let s := { s with names := id }.placeWg w
    (List.range l.waves).foldl (fun s k => s.startWave k (k % 4) l.prio ⟨default, 0⟩) s) s

/-- Does a rectangle of cores from an origin lie in the die, and can each start its workgroup (R26 to R28)? -/
def State.rectFits (s : State) (origin ctx : Nat) (l : LaunchRec) : Bool :=
  let x := origin % 16
  let y := origin % 256 / 16
  decide (x + l.cw ≤ 16) && decide (y + l.ch ≤ 16) &&
    (List.range l.unit).all fun c => s.coreFits (origin + c % l.cw + 16 * (c / l.cw)) ctx l

/-- The origins a section controller tries: ascending y, then ascending x (R331). (DEDUCED, unsafe; log entry 26.) -/
def originsOf (sect : Nat) : List Nat :=
  (List.range 16).map fun i => coreAt (sect / 16) (sect % 4 * 4 + i % 4) (sect % 16 / 4 * 4 + i / 4)

/-- Insert a grid by priority, highest first, the older first among equals. -/
def insertPrio (g : Grid) : List Grid → List Grid
  | [] => [g]
  | h :: hs => if h.launch.prio.toNat ≤ g.launch.prio.toNat then g :: h :: hs else h :: insertPrio g hs

/-- Are saved clusters of a context waiting to be placed (R353)? -/
def State.waitsResume (s : State) (ctx : Nat) : Bool := s.saved.any fun v => v.ctx == ctx

/-- The origins that a section controller tries in a cycle: all of them, or those after the one at which it lost a core in
the last cycle (R331). -/
def State.originsNow (s : State) (sect : Nat) : List Nat :=
  match (s.sect sect).lost with
  | some o => ((originsOf sect).dropWhile (· != o)).drop 1
  | none => originsOf sect

/-- The unit that a section controller can start now: grid, unit, origin (R331, R353). (DEDUCED, unsafe; log entry
26.) -/
def State.unitToStart (s : State) (sect : Nat) : Option (Grid × Nat × Nat) :=
  let gs := (s.grids.filter fun g => s.deals g && g.sectRanges.get sect != [] && !s.waitsResume g.ctx).foldr insertPrio []
  gs.findSome? fun g =>
    match g.sectRanges.get sect with
    | [] => none
    | r :: _ => ((s.originsNow sect).find? fun o => s.rectFits o g.ctx g.launch).map fun o => (g, r.lo, o)

/-- The cores that a unit of a grid takes from an origin (R28). -/
def LaunchRec.coresAt (l : LaunchRec) (origin : Nat) : List Nat :=
  (List.range l.unit).map fun c => origin + c % l.cw + 16 * (c / l.cw)

/-- The claims of a cycle: the section controllers that start a unit, in ascending order; those that lose a core to a lower
section, with their origins; and the cores claimed (R331). -/
structure Claims where
  start : List Nat
  lose : List (Nat × Nat)
  cores : List Nat
  deriving DecidableEq, Repr, Inhabited

/-- The claims of all section controllers in a cycle (R331). -/
def State.claims (s : State) : Claims :=
  if s.grids.all fun g => !s.deals g then default
  else (List.range 128).foldl (fun (acc : Claims) sect =>
    match s.unitToStart sect with
    | none => acc
    | some (g, _, o) =>
      let cores := g.launch.coresAt o
      if cores.any acc.cores.contains then { acc with lose := acc.lose ++ [(sect, o)] }
      else { acc with start := acc.start ++ [sect], cores := acc.cores ++ cores }) default

/-- The section controllers that lost a core in this cycle try their next origins in the following one (R331). -/
def State.noteClaims (s : State) (c : Claims) : State :=
  let s := { s with sects := s.sects.mapV fun t => { t with lost := none } }
  c.lose.foldl (fun s x => s.onSect x.1 fun t => { t with lost := some x.2 }) s

/-- WORKGROUP_START (R22, R28, R331). -/
def execWorkgroupStart (sect : Nat) (s : State) : Answer :=
  .next (match (if sect < 128 then s.unitToStart sect else none) with
    | none => s
    | some (g, u, o) =>
      let s := s.onGrid g.id fun g => { g with sectRanges := g.sectRanges.upd sect fun rs =>
        match rs with
        | r :: rest => if r.lo + 1 = r.hi then rest else { r with lo := r.lo + 1 } :: rest
        | [] => [] }
      s.startUnit g u o)

/-! ### The pending-launch stores (R337, R338, R448) -/

/-- Push an entry on a die: the store, else the ring, else nothing (R337). -/
def Die.push (d : Die) (e : Entry) : Option Die :=
  if d.store.length < 4096 ∧ d.ring = [] then some { d with store := d.store ++ [e] }
  else if d.ring.length < 65536 ∧ d.heldJoins = [] then some { d with ring := d.ring ++ [e] }
  else none

/-- Push a continuation record for a grid: its priority is lowered to the grid's (Table 16.6). -/
def State.contEntry (s : State) (ctx grid : Nat) (record : List Byte) : Entry :=
  ⟨ctx, grid, min (fieldAt record 5 1 % 8) (s.gridOf grid).launch.prio.toNat, .cont record⟩

/-- Push entries of a die in order: which found room. -/
def State.pushAll (s : State) (die : Nat) : List Entry → List Bool × State
  | [] => ([], s)
  | e :: es =>
    match (s.die die).push e with
    | some d => let r := State.pushAll (s.onDie die fun _ => d) die es; (true :: r.1, r.2)
    | none => let r := State.pushAll s die es; (false :: r.1, r.2)

/-- Is a popped record malformed (R435, BADCONT)? So is one whose bytes 4 and 5 have a bit set above the width code or
the priority, of which Table 27.1 does not speak (DEDUCED, unsafe; log entry 80). -/
def badCont (r : List Byte) : Bool :=
  decide (4 < fieldAt r 4 1) || decide (7 < fieldAt r 5 1) || fieldAt r 6 2 != 0 || fieldAt r 24 8 != 0

/-- The width an entry's wave takes, its code, and how it begins (Table 4.5, R304). -/
def State.entryWave (s : State) (e : Entry) : Nat × Word × Seed :=
  match e.what with
  | .cont r =>
    let w := widthOf (fieldAt r 4 1)
    let ks := (List.range 4).map fun i => BitVec.ofNat 32 (fieldAt r (8 + 4 * i) 4)
    let rf := (List.range (w / 4)).foldl (fun (rf : RegFile) q =>
      { rf with quads := rf.quads.set q ⟨Cells.write [] 0 ks, 0, []⟩ }) default
    (w, BitVec.ofNat 32 (fieldAt r 0 4), ⟨rf, 0⟩)
  | .batch node records =>
    let d := (nodeOf (s.gridOf e.grid) node).getD default
    let rf := (List.range records.length).foldl (fun (rf : RegFile) i =>
      { rf with lanes := rf.lanes.set i ⟨Cells.write [] 0 (records.getD i []), 0, 0⟩ }) default
    (d.width, d.code, ⟨rf, lanesBelow d.width &&& ~~~(lanesBelow records.length)⟩)

/-- The launch values of a continuation or gather-node wave (R338). -/
def LaunchRec.descend (l : LaunchRec) (width : Nat) (code : Word) : LaunchRec :=
  { l with
    code := code, nwgx := 1, nwgy := 1, nwgz := 1, width := width, waves := 1, cw := 1, ch := 1, scratch := 0
    stagemap := [], rings := [], barriers := 0, divN := 0, divOffset := 0 }

/-- Insert an entry by priority, highest first, the older first among equals. -/
def insertEntryPrio (x : Nat × Entry) : List (Nat × Entry) → List (Nat × Entry)
  | [] => [x]
  | y :: ys => if y.2.prio ≤ x.2.prio then x :: y :: ys else y :: insertEntryPrio x ys

/-- Number the elements of a list. -/
def numbered {α : Type} (l : List α) : List (Nat × α) := (List.range l.length).zip l

/-- The entry that a core pops: the oldest of the highest priority whose context matches and whose width fits (R338,
R341); a malformed record fits (R435). -/
def State.entryToPop (s : State) (core : Nat) : Option (Nat × Entry) :=
  ((numbered (s.die (dieOf core)).store).foldr insertEntryPrio []).find? fun x =>
    !(s.ctx x.2.ctx).yieldReq && s.coreTakes core x.2.ctx &&
      (match x.2.what with
        | .cont r => badCont r || (List.range 4).any fun p => decide (widthOf (fieldAt r 4 1) / 4 ≤ s.freeQuads core p)
        | .batch .. => (List.range 4).any fun p => decide ((s.entryWave x.2).1 / 4 ≤ s.freeQuads core p))

/-- Remove the element of an index. -/
def dropAt {α : Type} (i : Nat) (l : List α) : List α := l.take i ++ l.drop (i + 1)

/-- PENDING_LAUNCH_POP: the entry becomes a workgroup of one wave in the lowest partition that it fits; a malformed
record is discarded and its grid cancelled (R338, R435). -/
def execPendingLaunchPop (core : Nat) (s : State) : Answer :=
  .next (match (if core < 2048 then s.entryToPop core else none) with
    | none => s
    | some (i, e) =>
      let s := s.onDie (dieOf core) fun d => { d with store := dropAt i d.store }.refill
      let bad := match e.what with
        | .cont r => if badCont r then some r else none
        | .batch .. => none
      match bad with
      | some r =>
        s.stopless e.ctx e.grid ⟨0x40, 8, 0, fieldAt r 0 4, 0, 0, coreWord core, 0, fieldAt r 0 8, 0⟩ 0 1
      | none =>
        let w := s.entryWave e
        let g := s.gridOf e.grid
        let part := ((List.range 4).find? fun p => decide (w.1 / 4 ≤ s.freeQuads core p)).getD 0
        let id := s.names + 1
        let wg : WG := { (default : WG) with
          id := id, grid := e.grid, ctx := e.ctx, core := core, cluster := id, launch := g.launch.descend w.1 w.2.1
          descendant := true, live := [0] }
        ({ s with names := id }.placeWg wg).startWave 0 part (BitVec.ofNat 3 e.prio) w.2.2)

/-! ### Gather batches (R303 to R305, R448) -/

/-- The entry that a closed batch becomes (R304). -/
def State.batchEntry (s : State) (b : Batch) : Entry :=
  ⟨b.ctx, b.grid, (s.gridOf b.grid).launch.prio.toNat, .batch b.node b.records⟩

/-- Is a batch that of a context, node and grid? -/
def Batch.named (b : Batch) (ctx node grid : Nat) : Bool := b.ctx == ctx && b.node == node && b.grid == grid

/-- Close a batch of a die where there is room for its entry (R304, R448). -/
def State.closeBatch (s : State) (die ctx node grid : Nat) : Option State :=
  match (s.die die).batches.find? fun b => b.named ctx node grid with
  | none => none
  | some b =>
    match { s.die die with batches := (s.die die).batches.filter fun b => !b.named ctx node grid }.push (s.batchEntry b) with
    | some d => some (s.onDie die fun _ => d)
    | none => none

/-- The batches of a die that close as partial in this cycle, or could not close before: their clock has reached their node's
timer (R304, R448). -/
def State.batchesDue (s : State) (die : Nat) : List Instr :=
  (s.die die).batches.filterMap fun b => (nodeOf (s.gridOf b.grid) b.node).bind fun n =>
    if n.timer ≤ b.clock ∨ n.width ≤ b.records.length then some (.batchTimeout die b.ctx b.node b.grid) else none

/-- BATCH_TIMEOUT: a batch whose clock has reached its node's timer closes as partial; where there is no room it stays
open until an entry frees (R304, R448). A batch that is full and could not close is closed the same way. -/
def execBatchTimeout (die ctx node grid : Nat) (s : State) : Answer :=
  let due := match (s.die die).batches.find? fun b => b.named ctx node grid with
    | none => false
    | some b => match nodeOf (s.gridOf grid) node with
      | some n => decide (n.timer ≤ b.clock) || decide (n.width ≤ b.records.length)
      | none => false
  .next (s.when due fun s => (s.closeBatch die ctx node grid).getD s)

/-- Insert a batch by the arrival of its first record, then by node (R305). -/
def Batch.before (a b : Batch) : Bool := a.first < b.first || (a.first == b.first && a.node < b.node)

/-- The batch of a context that R305 closes to make room: the one opened first. Of two of one node whose first records came in one
cycle, which R305 does not order, the one that stands first in the list goes (DESIGN CHOICE, unsafe; log entry 87). -/
def firstBatch : List Batch → Option Batch
  | [] => none
  | b :: bs => match firstBatch bs with
    | some c => some (if c.before b then c else b)
    | none => some b

/-- One record joins the batch of its node and grid on a die: joined, or FULL (R304, R305). Where that batch is full itself and
cannot close, FULL too, which R305 does not say (DESIGN CHOICE, unsafe; log entry 87). -/
def State.joinBatch (s : State) (die ctx grid : Nat) (n : Node) (record : List Word) : Bool × State :=
  match (s.die die).batches.find? fun b => b.named ctx n.id grid && decide (b.records.length < n.width) with
  | some b =>
    let add := fun (x : Batch) => if x.named ctx n.id grid then { x with records := x.records ++ [record] } else x
    let s := s.onDie die fun d => { d with batches := d.batches.map add }
    (true, if b.records.length + 1 = n.width then (s.closeBatch die ctx n.id grid).getD s else s)
  | none =>
    let mine := (s.die die).batches.filter fun b => b.ctx == ctx
    let stuck := mine.find? fun b => b.named ctx n.id grid
    let room := match stuck with
      | some _ => s.closeBatch die ctx n.id grid
      | none =>
        if mine.length < 256 then some s
        else match firstBatch mine with
          | some b => s.closeBatch die ctx b.node b.grid
          | none => some s
    match room with
    | none => (false, s)
    | some s =>
      let s := s.onDie die fun d => { d with batches := d.batches ++ [⟨ctx, grid, n.id, [record], 0, s.cycle⟩] }
      (true, if n.width = 1 then (s.closeBatch die ctx n.id grid).getD s else s)

/-! ### The parents of joins (R197, R435, R448) -/

/-- JOIN_PARENT_PUSH: the first parent record of a die that is not parked is read and pushed; a read that cannot be
made is PARENTFAULT; without room the record is held (R197, R435, R448). -/
def execJoinParentPush (die : Nat) (s : State) : Answer :=
  let ps := (s.die die).parents
  .next (match (numbered ps).find? fun x => x.2.parked.isNone with
    | none => s
    | some (i, p) =>
      let gone := s.onDie die fun d => { d with parents := dropAt i d.parents }
      let fault := fun (s : State) => s.stopless p.ctx p.grid ⟨0x42, 8, 0, 0, 0, 0, coreWord p.core, p.addr, p.addr, 0⟩ 0 1
      if p.addr % 32 ≠ 0 then fault gone
      else match s.fwCheck p.ctx p.addr needRead with
        | .bad => fault gone
        | .poison a => gone.walkPoison p.ctx a p.grid
        | .absent va level pte =>
          let r := s.waitFor (sectOf p.core) p.ctx va level 9 pte p.grid
          let wait := fun (x : ParentRead) => if x = p then { x with parked := r.1.map Prod.snd } else x
          r.2.onDie die fun d => { d with parents := d.parents.map wait }
        | .ok pa =>
          let s := (gone.flushCore p.core).fwTouch p.ctx p.addr needRead
          let e := s.contEntry p.ctx p.grid (s.readPhys pa 32)
          match (s.die die).push e with
          | some d => s.onDie die fun _ => d
          | none => s.onDie die fun d => { d with heldJoins := d.heldJoins ++ [e] })

end Sys2Proof.Machine
end

