-- ==== Sys2Proof/Machine/Launch.lean ====
section
/-!
DEFINITION. Machine/Launch.lean: LAUNCH, EMIT, JOIN, GLAUNCH and GCANCEL (R196 to R200), and the Halyard: how a pod-wide
grid starts, reports, is cancelled, aborted or lost (R332 to R336, R395, R449 to R451).
-/

namespace Sys2Proof.Machine

/-! ### LAUNCH, EMIT, JOIN (R196 to R198) -/

/-- A vector register that is a multiple of 8, at most v88 (R196, Table 25.3). -/
def needOct (r : Reg) (pos : Nat) : List Trap := require (decide (r.toNat ≤ 88) && r.toNat % 8 == 0) (badReg r pos)

/-- The words of a run of registers in a lane. -/
def State.rdRun (s : State) (r : Reg) (n lane : Nat) : List Word := (List.range n).map fun i => s.src.read lane (r.toNat + i)

/-- LAUNCH: a release at DEVICE scope; each lane pushes its record on its die, in ascending order, and writes 0, or 1
when there is no room (R196). -/
def execLaunch (g : Guard) (d a : Reg) (s : State) : Answer :=
  .next (s.run (needOct a 18) fun s =>
    match s.actG g with
    | [] => s
    | ls =>
      let s := s.release 3
      let es := ls.map fun l => s.contEntry s.wg.ctx s.wg.grid ((s.rdRun a 8 l).flatMap fun w => leBytes 4 w.toNat)
      let r := s.pushAll (dieOf s.wg.core) es
      let full := (ls.zip r.1).filterMap fun x => if x.2 then none else some x.1
      let s := r.2.writeD ls d fun l => if full.contains l then 1 else 0
      if full = [] then s else s.pennant flagLaunchfull)

/-- The node that a lane's EMIT names (R198). -/
def State.emitNode (s : State) (b : Reg) (lane : Nat) : Option Node :=
  nodeOf (s.gridOf s.wg.grid) ((s.rd b lane).toNat % 4096)

/-- Records of lanes join batches in ascending order: which lanes met FULL (R304, R305). -/
def State.emitLanes (s : State) (a b : Reg) : List Nat → List Nat × State
  | [] => ([], s)
  | l :: ls =>
    let n := (s.emitNode b l).getD default
    let r := s.joinBatch (dieOf s.wg.core) s.wg.ctx s.wg.grid n (s.rdRun a (n.stride / 4) l)
    let t := State.emitLanes r.2 a b ls
    (if r.1 then t.1 else l :: t.1, t.2)

/-- EMIT: BADNODE where a lane names a node that the table lacks; else a release at DEVICE scope, and every lane's
record joins a batch (R198, R305, R435). (DEDUCED, unsafe; log entry 27.) (DEDUCED, unsafe; log entry 60.) -/
def execEmit (g : Guard) (d a b : Reg) (s : State) : Answer :=
  let ls := s.actG g
  let bad := ls.filter fun l => (s.emitNode b l).isNone
  let ids := bad.map fun l => (s.rd b l).toNat % 4096
  let traps := (match ids with
      | [] => []
      | i :: is => [⟨0x30, (is.foldl min i + (maskOf bad).toNat * 2 ^ 12) % 2 ^ 64, 0⟩])
    ++ ls.flatMap fun l => needRun a (((s.emitNode b l).map Node.stride).getD 0 / 4) 18
  .next (s.run traps fun s =>
    match ls with
    | [] => s
    | _ =>
      let r := (s.release 3).emitLanes a b ls
      let s := r.2.writeD ls d fun l => if r.1.contains l then 1 else 0
      if r.1 = [] then s else s.pennant flagLaunchfull)

/-- The decrements of a JOIN's lanes at the home slice, in ascending lane order; the parents of counts that reach zero
are to be read (R197). A block in a poisoned sector is not decremented, as for RED (R424). R197 does not say which die's
store takes the parent, nor in which section its read may wait: here those of the JOIN's own core (DESIGN CHOICE,
unsafe; log entry 76). -/
def State.joinLanes (s : State) (addr : Nat → Nat) : List Nat → State
  | [] => s
  | l :: ls =>
    let r := s.atomicVa s.wg.core s.wg.ctx (addr l)
    match r.1 with
    | none => State.joinLanes r.2 addr ls
    | some (pa, cp) =>
      if r.2.poisoned pa 16 then State.joinLanes (r.2.consumed pa 2 s.wg.ctx s.wg.grid) addr ls
      else
        let old := r.2.readNat pa 4
        let parent := r.2.readNat (pa + 8) 8
        let s := r.2.writeHome cp pa (leBytes 4 (old + 2 ^ 32 - 1))
        let s := if old = 1 ∧ parent ≠ 0 then
            s.onDie (dieOf s.wg.core) fun d => { d with
              parents := d.parents ++ [⟨s.wg.ctx, s.wg.grid, parent, s.wg.core, none⟩] }
          else s
        State.joinLanes s addr ls

/-- JOIN: each lane decrements the count of a 16-byte join block with release at DEVICE scope (R197). (DEDUCED,
unsafe; log entry 27.) -/
def execJoinBlock (g : Guard) (a : Reg) (s : State) : Answer :=
  let addr := s.globalAddr a 0
  let fs := (s.actG g).map fun l => (l, addr l, s.checkVa (sectOf s.wg.core) s.wg.ctx (addr l) 16 ⟨true, true, false, false⟩)
  .next (s.run (needPair a 18 ++ lanesTrap fs) fun s =>
    match lanesPoison fs with
    | some p => s.walkPoison s.wg.ctx p s.wg.grid
    | none =>
      let act := s.actAll (s.actG g)
      match lanesOk fs with
      | [] => s.parkLanes (lanesAbsent fs) 3 act
      | ok => (((s.release 3).flushCore s.wg.core).joinLanes addr ok).parkLanes (lanesAbsent fs) 3 act)

/-! ### GLAUNCH and GCANCEL (R199, R200) -/

/-- GLAUNCH: a release at SYSTEM scope; the leader submits the record's address, and D waits for the root (R199). -/
def execGlaunch (g : Guard) (d a : Reg) (s : State) : Answer :=
  .next (s.run (needPair a 18) fun s =>
    match s.actG g with
    | [] => s
    | l :: _ => ((s.release 5).issueOp .uncounted [d.toNat] [l] (.launch (s.rd2 a l).toNat 0)).2)

/-- The live grid of this module's root with a generation. -/
def State.rootGrid (s : State) (gen : Nat) : Option Grid :=
  s.grids.find? fun g => g.pod && g.place == 0 && g.gen == gen && !g.done

/-- GCANCEL: D takes 0 when the cancel applies, 1 when the grid has completed or never was (R200, R201). -/
def State.gcancel (s : State) (g : Guard) (d a : Reg) (kill : Bool) : State :=
  match s.actG g with
  | [] => s
  | l :: _ =>
    match s.rootGrid (s.rd a l).toNat with
    | none => s.writeD [l] d fun _ => 1
    | some r =>
      if r.launch.groups ≤ r.sums.1 + r.sums.2 then s.writeD [l] d fun _ => 1
      else (s.writeD [l] d fun _ => 0).cancelGrid r.id kill 0

/-- GCANCEL in DRAIN mode (R200, R336). -/
def execGcancelDrain (g : Guard) (d a : Reg) (s : State) : Answer := .next (s.gcancel g d a false)

/-- GCANCEL in KILL mode (R200, R336). -/
def execGcancelKill (g : Guard) (d a : Reg) (s : State) : Answer := .next (s.gcancel g d a true)

/-! ### The Halyard (R332 to R335) -/

/-- The units that place `m` of `n` deals of its own (R334). -/
def shareOf (units m n : Nat) : URange :=
  let k := units - units / 8
  ⟨m * k / n, (m + 1) * k / n, 0⟩

/-- What a module holds of a pod-wide grid as it takes the LAUNCH packet (R333, R334). -/
def podGrid (ctx queue addr gen root place : Nat) (l : LaunchRec) (span : List Nat) (nodes : List Node) (time : Nat) :
    Grid :=
  let u := l.units
  let r := shareOf u place span.length
  { (default : Grid) with
    ctx := ctx, queue := queue, launch := l, addr := addr, gen := gen, root := root, span := span, place := place
    nodes := nodes, dealing := true, undealt := if r.lo < r.hi then [r] else []
    pool := if place = 0 then u - u / 8 else 0, poolEnd := if place = 0 then u else 0, sent := time }

/-- Grids whose START has come begin dealing, those of one root in the order in which its LAUNCH packets came (R335). -/
def State.beginReady (s : State) : State :=
  (s.grids.map Grid.id).foldl (fun s id =>
    let g := s.gridOf id
    let waits := (s.grids.takeWhile fun h => h.id != id).any fun h => h.pod && h.root == g.root && !h.begun && !h.done
    if g.pod && g.started && !g.begun && !g.done && !waits then s.onGrid id fun g => { g with begun := true } else s) s

/-- START goes down the tree, and the module's own grid begins (R333, R335); its count reports begin, and those of its
children are awaited (R334, R451). -/
def State.startGrid (s : State) (g : Grid) : State :=
  ((s.send (g.children.map fun m => PodMsg.start m g.root g.gen)).onGrid g.id fun g => { g with
    started := true, reported := s.time
    heard := (childPlaces g.place g.span.length).foldl (fun t p => Cells.set t p s.time) [] }).beginReady

/-- The span of a span record's bytes, when it is well formed with this module at place 0 (R332, R449). -/
def State.spanOf (s : State) (b : List Byte) : Option (List Nat) :=
  let n := fieldAt b 0 2
  let places := (List.range n).map fun p => fieldAt b (8 + p) 1
  if n = 0 ∨ 256 < n ∨ places.headD 256 ≠ s.fw.podNumber ∨ (distinct places).length ≠ n then none else some places

/-- The generation that the root assigns next (R199). -/
def State.nextGen (s : State) : Nat := s.gens % (2 ^ 32 - 1) + 1

/-- What the root answers to a GLAUNCH: the grid, a refusal, a page that is not present (R199, R449). -/
inductive RootAnswer where
  | accept (record : List Byte) (span : List Nat) (nodes : List Node)
  | refuse
  | park (va level : Nat) (pte : DWord)
  | poison (addr : Nat)

/-- The span that a record names, when the root can read it: its span record, or this module alone (R332, R449). -/
def State.readSpan (s : State) (ctx addr : Nat) : Got (List Nat) :=
  if addr = 0 then .ok [s.fw.podNumber]
  else if addr % 8 ≠ 0 then .bad
  else match s.fwRange ctx addr 264 with
    | .bad => .bad
    | .absent va level pte => .absent va level pte
    | .poison a => .poison a
    | .ok _ => match s.spanOf (s.fwBytes ctx addr 264) with
      | none => .bad
      | some span => .ok span

/-- The launch record at an address, when the root can read it (R199). -/
def State.readLaunch (s : State) (ctx addr : Nat) : Got (List Byte) :=
  if addr % 128 ≠ 0 then .bad
  else match s.fwCheck ctx addr needRead with
    | .bad => .bad
    | .absent va level pte => .absent va level pte
    | .poison a => .poison a
    | .ok pa => .ok (s.readPhys pa 128)

/-- An answer that a read decides: what it gives goes on to `use`. -/
def Got.answer {α : Type} (x : Got α) (use : α → RootAnswer) : RootAnswer :=
  match x with
  | .ok a => use a
  | .bad => .refuse
  | .absent va level pte => .park va level pte
  | .poison a => .poison a

/-- The root examines a record (R199, R449). -/
def State.rootAnswer (s : State) (ctx grid addr : Nat) : RootAnswer :=
  let q := s.queueOf grid
  (s.readLaunch ctx addr).answer fun r => (s.readSpan ctx (launchOf r).span).answer fun span =>
    if !launchGood r || !q.engmask.getLsbD 3 || decide (q.maxspan < span.length) || (s.rootGrid s.nextGen).isSome then .refuse
    else (s.nodeTable ctx (launchOf r).nodetab).answer fun nodes => .accept r span nodes

/-- The reads that the root makes of a context's memory set A: the record, the span record, the node table (R105, R199). -/
def State.rootTouch (s : State) (ctx addr : Nat) : State :=
  match s.readLaunch ctx addr with
  | .ok r =>
    let l := launchOf r
    let s := s.fwTouch ctx addr needRead
    let s := match s.fwRange ctx l.span 264 with
      | .ok _ => s.when (l.span != 0 && l.span % 8 == 0) fun s => s.ctxTouchRange ctx l.span 264 false
      | _ => s
    match s.readSpan ctx l.span with
    | .ok _ => s.touchNodes ctx l.nodetab
    | _ => s
  | _ => s

/-- Does an operation ask the root for a generation, its request not parked (R199)? -/
def Op.asksRoot (o : Op) : Bool :=
  !o.done && (match o.kind with
    | .launch _ n => n == 0
    | _ => false)

/-- The requests that wait for the root: the order in which it takes them, wave and operation. Those of one cycle go by die,
x, y, partition and wave number (R201), those of an earlier cycle before them. -/
def State.asking (s : State) : List (Nat × Nat × Nat) :=
  s.allWaves.flatMap fun w => (w.ops.filter Op.asksRoot).map fun o =>
    let c := (s.wgOf w.wg).core
    (o.born * 2 ^ 18 + (dieOf c * 2 ^ 8 + c % 16 * 2 ^ 4 + c % 256 / 16) * 2 ^ 7 + w.partition * 2 ^ 5 + w.num, w.id, o.id)

/-- Does the root take this request before every other that waits (R201)? -/
def State.rootTurn (s : State) (wave op : Nat) : Bool :=
  (s.asking.filter fun x => x.2 == (wave, op)).all fun x =>
    s.asking.all fun y => decide (x.1 < y.1) || (x.1 == y.1 && decide (op ≤ y.2.2))

/-- ROOT_RETURNS_GENERATION: the root reads the record, takes the grid and returns G, or refuses with 0; a page that
is not present parks the request (R199, R333, R449). The LAUNCH packet carries the priority as lowered to the queue's
limit (R328; DEDUCED, unsafe; log entry 61). -/
def execRootReturnsGeneration (wave op : Nat) (s : State) : Answer :=
  let w := s.waveOf wave
  let o := w.op op
  let g := s.wgOf w.wg
  let answer := fun (s : State) (x : Nat) =>
    (s.mapWave wave fun w => w.writeRegs ((lanesOf o.lanes).take 1 |>.map fun l =>
      regWrite l (o.regs.headD 0) (BitVec.ofNat 32 x) false)).complete wave op
  .next (s.when (s.hasWave wave && o.id != 0 && !o.done && s.rootTurn wave op) fun s =>
    match o.kind with
    | .launch addr 0 =>
      let answered := s.rootAnswer g.ctx g.grid addr
      let s := s.rootTouch g.ctx addr
      match answered with
      | .refuse => answer s 0
      | .poison a => s.walkPoison g.ctx a g.grid
      | .park va level pte =>
        let r := s.waitFor (sectOf g.core) g.ctx va level 9 pte g.grid
        r.2.mapWave wave fun w => { w with ops := w.ops.map fun x =>
          if x.id = op then { x with kind := .launch addr ((r.1.map fun e => e.2 + 1).getD 0) } else x }
      | .accept record span nodes =>
        let gen := s.nextGen
        let q := (s.gridOf g.grid).queue
        let l := (launchOf record).lower (s.queues.get q).maxprio
        let record := record.set 54 (BitVec.ofNat 8 l.prio.toNat)
        let r := { s with gens := gen }.addGrid (podGrid g.ctx q addr gen s.fw.podNumber 0 l span nodes s.time)
        let s := r.2
        let n := s.gridOf r.1
        let s := s.send (n.children.map fun m => PodMsg.launch m n.root gen g.ctx record span)
        answer (if n.children = [] then s.startGrid n else s) gen
    | _ => s)

/-- The grid of a root and generation on this module, not yet done. -/
def State.podOf (s : State) (root gen : Nat) : Option Grid :=
  s.grids.find? fun g => g.pod && g.root == root && g.gen == gen && !g.done

/-- This module acknowledges to its parent once it holds the grid ready and every child has acknowledged; the root sends
START (R333). -/
def State.ackUp (s : State) (g : Grid) : State :=
  let all := (childPlaces g.place g.span.length).all g.acks.contains
  if g.place = 0 then (if all && !g.started then s.startGrid g else s)
  else if all && !g.acked then
    (s.send [.ack g.parent g.root g.gen]).onGrid g.id fun g => { g with acked := true }
  else s

/-- The modules to which a module without the grid has passed its LAUNCH on (R333). -/
def State.relayOf (s : State) (root gen : Nat) : List Nat :=
  ((s.relayed.find? fun r => r.1 == root && r.2.1 == gen).map fun r => r.2.2).getD []

/-- A module passes a LAUNCH on whose grid it does not hold (R333). -/
def State.relay (s : State) (root gen : Nat) (kids : List Nat) : State := { s with relayed := s.relayed ++ [(root, gen, kids)] }

/-- HALYARD_LAUNCH: the packet is forwarded, and the module holds the grid ready to deal in its own context of the
CTXID, its priority lowered to the limit of its queue of that context; without that context, or with a record or node
table it cannot read, it never acknowledges, and passes on what else the tree sends of the grid (R328, R332, R333,
R450). (DEDUCED, unsafe; log entry 61.) -/
def execHalyardLaunch (ctxid root gen : Nat) (span : List Nat) (record : List Byte) (s : State) : Answer :=
  .next (match span.findIdx? (· == s.fw.podNumber) with
    | none => s
    | some place =>
      if place = 0 ∨ gen = 0 ∨ (s.podOf root gen).isSome = true ∨ s.relayOf root gen ≠ [] then s
      else
        let kids := (childPlaces place span.length).map fun p => span.getD p 0
        let s := s.send (kids.map fun m => PodMsg.launch m root gen ctxid record span)
        let c := s.ctx ctxid
        let l := launchOf record
        match (if c.installed && !c.killed && launchGood record then s.nodeTable ctxid l.nodetab else .bad) with
        | .ok nodes =>
          let q := ((s.queues.find? fun q => q.2.installed && q.2.ctx == ctxid).map Prod.fst).getD 0
          let l := l.lower (s.queues.get q).maxprio
          let r := (s.touchNodes ctxid l.nodetab).addGrid (podGrid ctxid q 0 gen root place l span nodes s.time)
          r.2.ackUp (r.2.gridOf r.1)
        | .poison a => (s.relay root gen kids).walkPoison ctxid a 0
        | _ => s.relay root gen kids)

/-- HALYARD_ACK: a child's acknowledgement arrives (R333). -/
def execHalyardAck (root gen child : Nat) (s : State) : Answer :=
  .next (match s.podOf root gen with
    | none => s
    | some g =>
      s.when ((childPlaces g.place g.span.length).contains child && !g.acks.contains child) fun s =>
        let s := s.onGrid g.id fun g => { g with acks := g.acks ++ [child] }
        s.ackUp (s.gridOf g.id))

/-- HALYARD_START: START(G) is passed on, and the module begins dealing in generation order; a grid that a cancel has
reached deals nothing (R333, R335, R340). -/
def execHalyardStart (root gen : Nat) (s : State) : Answer :=
  .next (match s.podOf root gen with
    | none => s
    | some g => s.when (g.place != 0 && !g.started) fun s => s.startGrid g)

/-- Places of the subtree of a place in a span of `n`. -/
def subtree (n : Nat) : Nat → List Nat → List Nat
  | 0, ps => ps
  | k + 1, ps => ps ++ subtree n k (ps.flatMap fun p => childPlaces p n)

/-- Modules in the subtrees of some places. (DEDUCED, unsafe; log entry 58.) -/
def subtreeSize (n : Nat) (ps : List Nat) : Nat := (distinct (subtree n 2 ps)).length

/-- START_TIMEOUT: the root lacks an acknowledgement 20 µs after it sent LAUNCH: it aborts the grid, reports, and writes
the completion word with ERR 4 (R450). -/
def execStartTimeout (gen : Nat) (s : State) : Answer :=
  .next (match s.podOf s.fw.podNumber gen with
    | none => s
    | some g =>
      let missing := (childPlaces 0 g.span.length).filter fun p => !g.acks.contains p
      s.when (g.place == 0 && !g.started && missing != [] && decide (g.sent + micros 20 ≤ s.time)) fun s =>
        let s := s.send (g.children.map fun m => PodMsg.abort m g.root gen)
        let s := s.onGrid g.id fun g => { g with
          begun := true, dealing := false, undealt := [], pool := g.poolEnd, lost := subtreeSize g.span.length missing }
        (s.closeGrid (s.gridOf g.id) 4 2 g.launch.groups).beginReady)

/-- HALYARD_ABORT: the module passes ABORT on and discards the grid; an aborted generation counts as begun. A module that
passed the LAUNCH on passes the ABORT on, be it without the grid (R450). -/
def execHalyardAbort (root gen : Nat) (s : State) : Answer :=
  .next (match s.podOf root gen with
    | none =>
      let s := s.send ((s.relayOf root gen).map fun m => PodMsg.abort m root gen)
      { s with relayed := s.relayed.filter fun r => !(r.1 == root && r.2.1 == gen) }
    | some g => s.when (g.place != 0 && !g.started) fun s =>
      let s := s.send (g.children.map fun m => PodMsg.abort m root gen)
      (s.onGrid g.id fun g => { g with begun := true, dealing := false, undealt := [], done := true }).beginReady)

/-- HALYARD_CANCEL: CANCEL(G, mode) comes down the tree, or reaches the root from a module of the span (R336, R390). -/
def execHalyardCancel (root gen : Nat) (kill : Bool) (s : State) : Answer :=
  .next (match s.podOf root gen with
    | none => s.send ((s.relayOf root gen).map fun m => PodMsg.cancel m root gen kill)
    | some g =>
      if g.place = 0 then (s.cancelGrid g.id kill 0).beginReady
      else
        ((s.send (g.children.map fun m => PodMsg.cancel m root gen kill)).cancelHere g.id kill 0).beginReady)

/-! ### The pool and the counts (R334) -/

/-- Units of the next pool grant (R334). -/
def poolGrant (left n : Nat) : Nat := min left (min 64 (max 1 (left / (2 * n))))

/-- Has this module dealt out its share, so that it may ask for pool units, of which it does not know that none is left
(R334, R341)? -/
def State.asksPool (s : State) (g : Grid) : Bool := s.deals g && unitsIn g.undealt == 0 && !g.poolDone

/-- POOL_RANGE_REQUEST: at the root, a grant to a place, empty where the pool has no unit left; elsewhere the module sends its
request, and then the event is the root's answer, the range `lo` to `hi` (R334). A range that comes after a cancel counts as
cancelled (R336). (DESIGN CHOICE, unsafe; log entry 62.) -/
def execPoolRangeRequest (root gen place lo hi : Nat) (s : State) : Answer :=
  .next (match s.podOf root gen with
    | none => s
    | some g =>
      if g.place = 0 then
        let n := poolGrant (g.poolEnd - g.pool) g.span.length
        s.when (g.begun && decide (place < g.span.length) && (place != 0 || s.asksPool g)) fun s =>
          let s := s.onGrid g.id fun g => { g with pool := g.pool + n }
          if place = 0 then
            s.when (n != 0) fun s => s.onGrid g.id fun g => { g with undealt := [⟨g.pool - n, g.pool, n⟩] }
          else s.send [.poolGrant (g.span.getD place 0) root gen g.pool (g.pool + n)]
      else if g.poolAsked then
        s.when (place == g.place) fun s => s.onGrid g.id fun g =>
          if g.mode ≠ 0 then { g with poolAsked := false, cancelled := g.cancelled + (hi - lo) * g.launch.unit }
          else if hi ≤ lo then { g with poolAsked := false, poolDone := true }
          else { g with poolAsked := false, undealt := g.undealt ++ [⟨lo, hi, hi - lo⟩] }
      else s.when (place == g.place && s.asksPool g) fun s =>
        (s.send [.poolRequest g.root root gen]).onGrid g.id fun g => { g with poolAsked := true })

/-- COUNT_REPORT: a child's counts reach this module, the latest report standing; or this module reports its own
subtree to its parent (R334, R336, R395). (DESIGN CHOICE, safe; log entry 62.) -/
def execCountReport (root gen place completed cancelled : Nat) (final : Bool) (err lost : Nat) (counts : List Nat)
    (recs : List (Nat × List Byte)) (s : State) : Answer :=
  .next (match s.podOf root gen with
    | none => s
    | some g =>
      if place = g.place then
        s.when (place != 0) fun s =>
          let t := g.sums
          (s.send [.count g.parent g.root g.gen ⟨place, t.1, t.2, false, g.errAll, g.lostAll, g.countsAll, g.recsAll⟩]).onGrid
            g.id fun g => { g with reported := s.time }
      else
        s.when ((childPlaces g.place g.span.length).contains place
            && !(g.reports.any fun r => r.place == place && r.final)) fun s =>
          s.onGrid g.id fun g => { g with
            reports := (g.reports.filter fun r => r.place != place)
              ++ [⟨place, completed, cancelled, final, err, lost, counts, recs⟩]
            heard := g.heard.set place s.time })

/-- MODULE_LOST: a child has sent no report for 20 µs or has no route, or a module below reports such a loss; the loss
goes up the tree and the root cancels the grid in KILL mode with ERR 5 (R451). A lost child's subtree counts by its
last report (DEDUCED, unsafe; log entry 58), and contributes no record (R395); the grid's collectives here end (R441). -/
def execModuleLost (root gen place : Nat) (s : State) : Answer :=
  .next (match s.podOf root gen with
    | none => s
    | some g =>
      let n := g.span.length
      let old := g.reports.find? fun r => r.place == place
      let child := (childPlaces g.place n).contains place
      s.when (decide (g.place < place) && decide (place < n) && !(old.map CountRep.final).getD false) fun s =>
        let s := s.losePeers g.id
        let r := old.getD ⟨place, 0, 0, true, 0, 0, [], []⟩
        let s := if child then s.onGrid g.id fun g => { g with
            reports := (g.reports.filter fun r => r.place != place)
              ++ [{ r with final := true, lost := subtreeSize n [place], err := lowErr r.err 5, counts := [], recs := [] }] }
          else s
        if g.place = 0 then s.cancelGrid g.id true 5
        else s.send [.lost g.parent root gen place])

/-- The reports that fall due for a pod-wide grid that has started here: its own, each µs until the final one (R334), and the
loss of a child from which none has come for 20 µs, or that no port of this module reaches (R451, R458). -/
def State.reportsDue (s : State) (g : Grid) : List Instr :=
  if g.pod && g.started && !g.done then
    (if g.place != 0 && decide (g.reported + micros 1 ≤ s.time) then
      [Instr.countReport g.root g.gen g.place 0 0 false 0 0 [] []] else [])
    ++ ((childPlaces g.place g.span.length).filter fun p =>
        !(g.reports.any fun r => r.place == p && r.final) && (decide (g.heard.get p + micros 20 ≤ s.time) || s.fw.ports == 0)).map
        (Instr.moduleLost g.root g.gen)
  else []

end Sys2Proof.Machine
end

