-- ==== Sys2Proof/Machine/Cube.lean ====
section
/-!
DEFINITION. Machine/Cube.lean: the cube unit: passes, the weight buffer, the accumulator store, and the instructions and
events that reach them (12_cube_array, 13_instr_cube, R409, R410, R442 to R444). Rows and gates are captured at issue, a
scratch tile too (R253 allows any time up to the retirement); results are written by the events.
-/

namespace Sys2Proof.Machine

/-! ### Elements (R252 to R255) -/

/-- Bytes of an element of a B or A format; an E2M1X code has half a byte. -/
def elemBytes (fmt : Nat) : Nat := if fmt < 2 then 2 else 1

/-- The exact value of an element code of a format other than E2M1X (Table 13.2). -/
def cubeElem (fmt code : Nat) : XVal :=
  match fmt with
  | 0 => Fmt.decode .fp16 code
  | 1 => Fmt.decode .bf16 code
  | 2 => Fmt.decode .e4m3 code
  | 3 => Fmt.decode .e5m2 code
  | _ => XVal.ofInt (signedNat 8 code)

/-- Element `j` of a row held in words (R252, R253). -/
def rowElem (fmt : Nat) (ws : List Word) (j : Nat) : XVal :=
  if fmt = 4 then
    let x := (ws.getD (j / 8) 0).toNat / 16 ^ (j % 8) % 16
    let meta' := (ws.getD 4 0).toNat
    decodeE2M1X x (meta' % 256) (meta' / 256 % 256)
  else if fmt < 2 then cubeElem fmt (half (ws.getD (j / 2) 0) (j % 2))
  else cubeElem fmt ((ws.getD (j / 4) 0).toNat / 256 ^ (j % 4) % 256)

/-- Words from bytes, little-endian. -/
def wordsOf : Nat → List Byte → List Word
  | 0, _ => []
  | n + 1, bs => BitVec.ofNat 32 (leValue (bs.take 4)) :: wordsOf n (bs.drop 4)

/-- Bytes of a scratch tile's row (R253). -/
def tileRow (fmt p : Nat) : Nat := if fmt = 4 then 32 else if fmt < 2 then 32 * p else 16 * p

/-! ### The weight buffer (R259, R260, R278) -/

/-- Bytes of a weight image (Table 13.6). -/
def imageBytes (fmt n kext : Nat) : Nat :=
  if fmt = 4 then 9 * kext
  else if n = 0 then 16 * kext * elemBytes fmt
  else kext * n * elemBytes fmt + 2 * kext

/-- Largest K extent (Table 12.3). -/
def maxKext (fmt n : Nat) : Nat :=
  if fmt = 4 then 1024
  else if n = 0 then (if fmt < 2 then 256 else 512)
  else if n = 8 then (if fmt < 2 then 512 else 1024)
  else 1024

/-- Survivors of SPN (Table 13.5). -/
def spnCount (spn : BitVec 2) : Nat := if spn = 0 then 0 else 2 ^ spn.toNat

/-- Index mask of a group of 16 rows in a column of a sparse slot. -/
def Slot.mask (t : Slot) (g n : Nat) : Nat :=
  fieldAt t.image (t.kext * t.sparse * elemBytes t.fmt + (16 * g + n) * 2) 2

/-- Set bits of a number below a position. -/
def bitsBelow (m i : Nat) : Nat := ((List.range i).filter fun j => m.testBit j).length

/-- Does B survive at a row and column (R254, R260, R443)? -/
def Slot.survives (t : Slot) (k n : Nat) : Bool :=
  t.sparse == 0 || ((t.mask (k / 16) n).testBit (k % 16) && decide (bitsBelow (t.mask (k / 16) n) (k % 16) < t.sparse))

/-- B[k][n] of a slot, expanded (R259, R260, Table 13.6). -/
def Slot.elem (t : Slot) (k n : Nat) : XVal :=
  if t.fmt = 4 then
    let code := fieldAt t.image ((16 * (k / 32) + n) * 16 + k % 32 / 2) 1 / 16 ^ (k % 2) % 16
    let at' := 8 * t.kext + (16 * (k / 32) + n) * 2
    decodeE2M1X code (fieldAt t.image at' 1) (fieldAt t.image (at' + 1) 1)
  else
    let e := elemBytes t.fmt
    if t.sparse = 0 then cubeElem t.fmt (fieldAt t.image ((16 * k + n) * e) e)
    else if t.survives k n then
      let r := bitsBelow (t.mask (k / 16) n) (k % 16)
      cubeElem t.fmt (fieldAt t.image (((16 * (k / 16) + n) * t.sparse + r) * e) e)
    else XVal.zero false

/-- A mask of the rows given whose set bits are not N (R443). -/
def Slot.badMask (t : Slot) (kb n : Nat) : Bool :=
  t.sparse != 0 && (List.range (ceilDiv n 16)).any fun i => (List.range 16).any fun c =>
    bitsBelow (t.mask (kb / 16 + i) c) 16 != t.sparse

/-! ### Which cells and slots an operation touches (R263, R265) -/

/-- Does an operation touch columns 16cb to 16cb + 15 of a row? -/
def CubeJob.covers (j : CubeJob) (r cb : Nat) : Bool :=
  let lanesRow := fun (row0 o : Nat) (lanes : BitVec 8) =>
    decide (row0 + 8 * o ≤ r) && decide (r < row0 + 8 * o + 8) && lanes.getLsbD (r - (row0 + 8 * o))
  let rect := fun (row0 col0 rows cols : Nat) =>
    decide (row0 ≤ r) && decide (r < row0 + rows) && decide (col0 ≤ 16 * cb) && decide (16 * cb < col0 + cols)
  match j with
  | .octet _ o op _ => cb == o.col0.toNat && lanesRow (8 * o.row0.toNat) op.octet op.lanes
  | .card _ _ _ row0 col0 _ lanes oct _ => 16 * cb == col0 && lanesRow row0 oct lanes
  | .cawr _ row0 col0 lanes oct _ => 16 * cb == col0 && lanesRow row0 oct lanes
  | .casts _ _ _ row0 col0 rows cols _ _ _ => rect row0 col0 rows cols
  | .calds _ row0 col0 rows cols _ _ => rect row0 col0 rows cols
  | .zeroTile row0 col0 rows cols => rect row0 col0 rows cols
  | .zeroMask m => m.getLsbD (r / 32 * 4 + cb / 4)
  | .load .. => false

/-- Do two operations touch a common cell? -/
def CubeJob.meets (a b : CubeJob) : Bool :=
  (List.range 256).any fun r => (List.range 16).any fun cb => a.covers r cb && b.covers r cb

/-- Is it an accumulator move? -/
def CubeJob.isMove : CubeJob → Bool
  | .octet .. => false
  | .load .. => false
  | _ => true

/-- Earlier operations of a unit. -/
def earlier (q : List CubeOp) (o : CubeOp) : List CubeOp := q.filter fun x => decide (x.seq < o.seq)

/-- An octet operation whose cells and slots every earlier operation has done with (R267), and no refill is due
(R262). -/
def Core.octetFree (c : Core) (o : CubeOp) : Bool :=
  (earlier c.cube o).all (fun x => !x.job.meets o.job && (match x.job.fills with
    | some n => !o.job.slots.contains n
    | none => true)) && o.job.slots.all fun n => !((c.slots.get n).valid && (c.slots.get n).refill)

/-- A move whose cells every earlier operation has written (R272). -/
def Core.moveFree (c : Core) (o : CubeOp) : Bool := (earlier c.cube o).all fun x => !x.job.meets o.job

/-! ### Reaching the unit (R265) -/

/-- Has an operation reached its unit in this cycle from a higher partition than the issuing part's? It follows those of the
issuing part (R265). -/
def State.follows (s : State) (o : CubeOp) : Bool :=
  o.reached == s.cycle && decide (s.wave.partition < (s.waveOf o.wave).partition)

/-- Send an operation to the unit of the issuing core; those of one cycle are in ascending partition (R265). -/
def State.reach (s : State) (op : Nat) (j : CubeJob) : State :=
  s.onCore s.wg.core fun c =>
    let late := c.cube.filter s.follows
    { c with
      cube := c.cube.filter (fun o => !s.follows o)
        ++ ⟨c.cubeSeq + 1 - late.length, s.cycle, s.wave.id, s.wg.id, op, j, none, false, none, [], false⟩
        :: late.map fun o => { o with seq := o.seq + 1 }
      cubeSeq := c.cubeSeq + 1 }

/-- An operation of a unit leaves it. -/
def State.leaveUnit (s : State) (core seq : Nat) : State :=
  s.onCore core fun c => { c with cube := c.cube.filter fun x => x.seq != seq }

/-- One octet operation, or the single operation, of an instruction has ended; with the last one it retires (R271). -/
def State.cubeDone (s : State) (wave op : Nat) : State :=
  let s := s.mapWave wave fun w => { w with ops := w.ops.map fun o =>
    match o.kind with
    | .cube n => if o.id = op then { o with kind := .cube (n - 1) } else o
    | _ => o }
  if ((s.waveOf wave).op op).kind = .cube 0 then s.complete wave op else s

/-- Set a Pennant bit in the copies of the parts that hold the quads of an operation (R257, R442, R443). -/
def State.flagOp (s : State) (wave op : Nat) (mask : BitVec 10) : State :=
  s.mapWave wave fun w =>
    let m := (w.op op).quads
    { w with parts := w.parts.map fun p => if (p.members &&& m) = 0 then p else { p with pennant := p.pennant ||| mask } }

/-- The operation leaves the unit and its part of the instruction has ended. -/
def State.endCube (s : State) (core : Nat) (o : CubeOp) : State := (s.leaveUnit core o.seq).cubeDone o.wave o.op

/-- RINGBAD for a release that the wave may not name (R410). -/
def State.needHeld (s : State) (rel : Option (Nat × Nat)) : List Trap :=
  match rel with
  | some (q, i) => require ((ringOf s.wg q).valid && s.holds q i) ⟨0x14, q + i % 16 * 2 ^ 4 + 2 ^ 8, 0⟩
  | none => []

/-- The slot's release by the unit is pending (R410). -/
def State.claimRelease (s : State) (rel : Option (Nat × Nat)) : State :=
  match rel with
  | some (q, i) => { s with wg := { s.wg with slots := s.wg.slots.upd (16 * q + i) fun t => { t with pending := true } } }
  | none => s

/-- Issue a cube instruction of `n` operations (R271); `tile` says whether it reads (1) or writes (2) a scratch tile (R285).
-/
def State.cubeIssue (s : State) (cls : OpClass) (regs lanes : List Nat) (n : Nat) (rel : Option (Nat × Nat)) (tile : Nat := 0) :
    Nat × State :=
  (s.claimRelease rel).issueOp cls regs lanes (.cube n) fun o => { o with release := rel, tile := tile }

/-- The aligned octets of some lanes (R251). -/
def octetsOf (ls : List Nat) : List Nat := distinct (ls.map fun l => l / 8)

/-- The lanes of an octet, as a mask of eight. -/
def octetMask (ls : List Nat) (o : Nat) : BitVec 8 :=
  (ls.filter fun l => l / 8 == o).foldl (fun m l => m ||| BitVec.twoPow 8 (l % 8)) 0

/-- What each lane of an octet supplies: nothing for an inactive one. -/
def octetRows (ls : List Nat) (o : Nat) (f : Nat → List Word) : List (List Word) :=
  (List.range 8).map fun i => if ls.contains (8 * o + i) then f (8 * o + i) else []

/-! ### CUBE (R251 to R258, R274 to R276) -/

/-- Reserved codes of CUBE (R403). -/
def needCube (m : CubeMods) : List Trap :=
  needBelow m.fmtA.toNat 6 42 ++ needBelow m.fmtB.toNat 6 39 ++ needBelow m.cfmt.toNat 3 32

/-- The registers a row, gate or tile needs exist (R252, Table 12.6, "Registers"). (DEDUCED, unsafe; log entry 43.) -/
def cubeRegsOk (m : CubeMods) (o : CubeOperands) : Bool :=
  let p := cubeP m
  (if m.asrc then decide (96 ≤ o.aopnd.toNat) else decide (o.aopnd.toNat + rowRegs m.fmtA.toNat p ≤ 96))
    && (if m.cmode = 1 then decide (64 + o.copnd.toNat + gateRegs m.cfmt.toNat p ≤ 96)
        else if m.cmode = 3 then decide (o.copnd.toNat + 8 * p ≤ 32) else true)

/-- CUBE (R275): each octet captures its rows and gates and reaches the unit; a release word may name a ring slot
(R276). With ASRC 1 it is read from the register after AOPND, a v register where AOPND names one. (DEDUCED, unsafe; log entry
43.) -/
def execCube (g : Guard) (m : CubeMods) (o : CubeOperands) (s : State) : Answer :=
  let p := cubeP m
  .next (s.runWide 1 (needCube m) fun s =>
    match s.actG g with
    | [] => s
    | l :: ls =>
      let lanes := l :: ls
      let missing := m.asrc && o.aopnd == 127
      let word := if m.asrc && !missing then (s.src.read l (o.aopnd.toNat + 1)).toNat else 0
      let rel := if word.testBit 7 then some (word / 32 % 4, word % 16) else none
      s.run (s.needHeld rel) fun s =>
        let s := if missing then s.pennant flagRsvnz else s
        let s := if m.asrc then s.flushWindow s.wg.id else s
        let window := if m.asrc then s.windowSeen else []
        let r := s.cubeIssue .cbc [] lanes (octetsOf lanes).length rel (if m.asrc then 1 else 0)
        (octetsOf lanes).foldl (fun t q =>
          let rs := tileRow m.fmtA.toNat p
          let tile := (s.src.read (8 * q) o.aopnd.toNat).toNat
          let row := fun lane =>
            if m.asrc then wordsOf (rs / 4) (window.read (tile + lane % 8 * rs) rs)
            else (List.range (rowRegs m.fmtA.toNat p)).map fun i => s.src.read lane (o.aopnd.toNat + i)
          let gate := fun lane =>
            if m.cmode = 1 then (List.range (gateRegs m.cfmt.toNat p)).map fun i => s.src.read lane (64 + o.copnd.toNat + i)
            else []
          let kg := if m.cmode = 3 then (List.range (8 * p)).map fun i => s.kOf (o.copnd.toNat + i) (8 * q) else []
          t.reach r.1 (.octet m o
            ⟨q, octetMask lanes q, octetRows lanes q row, octetRows lanes q gate, kg, if m.asrc then tile else 0⟩
            s.iss.assist)) r.2)

/-- The conditions of Table 12.6 for one octet operation, width apart (R269, R442). COPND is not looked at where CMODE is NONE:
the tables give it as 0 there, and no rule says what another value does (DESIGN CHOICE, unsafe; log entry 43). -/
def octetLegal (c : Core) (scratch : Nat) (m : CubeMods) (o : CubeOperands) (op : OctetOp) : Bool :=
  let p := cubeP m
  let kend := 16 * p * o.koff.toNat + 16 * p
  let b := c.slots.get o.bslot.toNat
  let x := c.slots.get (32 + o.copnd.toNat)
  decide (8 * o.row0.toNat + 8 * op.octet + 7 ≤ 255)
    && b.valid && b.fmt == m.fmtB.toNat && (b.sparse != 0) == m.sparse && decide (kend ≤ b.kext)
    && (m.fmtA == 5) == (m.fmtB == 5) && !(m.sparse && (m.fmtA == 4 || m.fmtB == 4))
    && (if m.fmtA = 5 then m.cmode == 0 && decide (m.cfmt.toNat ≤ 1)
        else match m.cmode.toNat with
          | 0 => m.cfmt == 0
          | 3 => decide (m.cfmt.toNat ≤ 1)
          | _ => true)
    && (m.cmode != 2 || (x.valid && x.sparse == 0 && x.fmt == m.cfmt.toNat && decide (kend ≤ x.kext)))
    && cubeRegsOk m o
    && (!m.asrc || (op.tile % 32 == 0 && decide (op.tile + 8 * tileRow m.fmtA.toNat p ≤ scratch)))

/-- The gate of a row, K index and column (Table 12.1); where B does not survive the C plane is not sampled (R254).
(DEDUCED, unsafe; log entry 45.) -/
def gateOf (c : Core) (m : CubeMods) (o : CubeOperands) (op : OctetOp) (i j n : Nat) : XVal :=
  let kb := 16 * cubeP m * o.koff.toNat
  match m.cmode.toNat with
  | 1 => rowElem m.cfmt.toNat (op.gates.getD i []) j
  | 2 => if (c.slots.get o.bslot.toNat).survives (kb + j) n then (c.slots.get (32 + o.copnd.toNat)).elem (kb + j) n
    else XVal.ofInt 1
  | 3 => rowElem m.cfmt.toNat op.kgates j
  | _ => XVal.ofInt 1

/-- Exponent of a nonzero finite value's leading bit. -/
def leadOf : XVal → Option Int
  | .fin _ n d => if n = 0 then none else some (floorLog2 n d)
  | _ => none

/-- A value truncated toward zero to multiples of 2^q. -/
def truncTo (q : Int) : XVal → Int
  | .fin s n d => let u := inUnits n d q; XVal.snum s (u.1 / u.2)
  | _ => 0

/-- The sum S of a float K-group (R256, stage 1). -/
def groupSum (ps : List XVal) : XVal :=
  if ps.any XVal.isNan || (ps.any (· == .inf false) && ps.any (· == .inf true)) then .nan
  else if ps.any (· == .inf false) then .inf false
  else if ps.any (· == .inf true) then .inf true
  else match ps.filterMap leadOf with
    | [] => XVal.zero false
    | e :: es =>
      let q := es.foldl max e - 37
      let t := (ps.map (truncTo q)).foldl (· + ·) 0
      XVal.scaled (decide (t < 0)) t.natAbs q

/-- A nonzero subnormal FP32 code. -/
def subnormal (w : Word) : Bool := w.toNat % 2 ^ 31 != 0 && w.toNat / 2 ^ 23 % 256 == 0

/-- One K-group added to a float cell (R256, stage 2), flushed where subnormals are not kept (R257). -/
def addGroup (keep : Bool) (acc : Word) (ps : List XVal) : Word :=
  let r := fadd' acc (groupSum ps)
  if subnormal r && !keep then r &&& 0x80000000 else r
where
  fadd' (acc : Word) (t : XVal) : Word := fword (Fmt.round .fp32 .rne .none (XVal.add .rne (fval acc) t))

/-- One K-group added to an INT32 cell (R258). -/
def addGroupInt (sat : Bool) (acc : Word) (ps : List XVal) : Word :=
  let t := ps.foldl (fun n x => n + truncTo 0 x) (acc.toInt)
  BitVec.ofInt 32 (if sat then clampInt true 32 t else t)

/-- The products of a K-group of a row and column. (DEDUCED, unsafe; log entry 45.) -/
def products (c : Core) (m : CubeMods) (o : CubeOperands) (op : OctetOp) (i n g : Nat) : List XVal :=
  let kb := 16 * cubeP m * o.koff.toNat
  (List.range 16).map fun t =>
    let j := 16 * g + t
    ((rowElem m.fmtA.toNat (op.rows.getD i []) j).mul ((c.slots.get o.bslot.toNat).elem (kb + j) n)).mul
      (gateOf c m o op i j n)

/-- A cell's values after each K-group, the last first. -/
def cellSteps (c : Core) (m : CubeMods) (o : CubeOperands) (op : OctetOp) (keep : Bool) (i n : Nat) : List Word :=
  let r := 8 * o.row0.toNat + 8 * op.octet + i
  let start := if m.acc then c.acc.get (256 * r + 16 * o.col0.toNat + n) else 0
  (List.range (cubeP m)).foldl (fun (l : List Word) g =>
    let a := l.headD start
    (if m.fmtA = 5 then addGroupInt (m.cfmt == 1) a (products c m o op i n g)
     else addGroup keep a (products c m o op i n g)) :: l) []

/-- The cells of an octet operation: lane index, column, key. -/
def octetCells (o : CubeOperands) (op : OctetOp) : List (Nat × Nat × Nat) :=
  ((List.range 8).filter fun i => op.lanes.getLsbD i).flatMap fun i => (List.range 16).map fun n =>
    (i, n, 256 * (8 * o.row0.toNat + 8 * op.octet + i) + 16 * o.col0.toNat + n)

/-- Write a cell; the write ends its poison. -/
def Core.setCell (c : Core) (k : Nat) (x : Word) : Core :=
  { c with acc := c.acc.set k x, accBad := c.accBad.filter fun b => b != k }

/-- Write the results of an octet operation. -/
def Core.writeOctet (c : Core) (m : CubeMods) (o : CubeOperands) (op : OctetOp) (keep : Bool) : Core :=
  let xs := (octetCells o op).map fun t => (t.2.2, (cellSteps c m o op keep t.1 t.2.1).headD 0)
  xs.foldl (fun c x => c.setCell x.1 x.2) c

/-- Does a float cell of the octet become subnormal at some K-group when subnormals are kept (R257)? -/
def octetSubnormal (c : Core) (m : CubeMods) (o : CubeOperands) (op : OctetOp) : Bool :=
  m.fmtA != 5 && (octetCells o op).any fun t => (cellSteps c m o op true t.1 t.2.1).any subnormal

/-- A poisoned cell that was read kills the context (R444, Table 24.9), whose cells count as consumed; the check bits are free
(DESIGN CHOICE, safe; log entry 1). -/
def State.accKill (s : State) (core wg : Nat) : State :=
  let g := s.wgOf wg
  ({ s with fresh := s.fresh + 1 }.onCore core fun c => { c with accBad := [] }).killCtx g.ctx 3
    ⟨3, 1, coreLoc core, 0, (Config.freeWord s.fresh).toNat, 0, 0, (s.gridOf g.grid).dev⟩

/-! ### Passes (R266 to R268) -/

/-- Cycles of a pass (Table 12.5). -/
def passCycles (m : CubeMods) : Nat :=
  let wide := decide (m.fmtA.toNat < 2) || decide (m.fmtB.toNat < 2)
  if m.sparse then (if wide then 2 else 1)
  else if m.fmtA = 4 ∧ m.fmtB = 4 then 1
  else if m.fmtA = 4 ∨ m.fmtB = 4 then (if wide then 4 else 2)
  else if wide then 2 else 1

/-- May two octet operations share a pass (R266)? -/
def joinable (a b : CubeJob) : Bool :=
  match a, b with
  | .octet m o _ x, .octet m' o' _ x' =>
    o.bslot == o'.bslot && o.koff == o'.koff && m.fmtA == m'.fmtA && m.fmtB == m'.fmtB && m.sparse == m'.sparse
      && m.cmode == m'.cmode && m.cfmt == m'.cfmt && (m.cmode.toNat < 2 || o.copnd == o'.copnd) && x == x' && !a.meets b
  | _, _ => false

/-- Could an octet operation need an assist (R257, R444)? -/
def CubeJob.assistable : CubeJob → Bool
  | .octet m _ _ a => a && m.fmtA != 5
  | _ => false

/-- Entries of a section controller's assist queue that are used, or that a pass under way may come to use (R444). -/
def State.assists (s : State) (sect : Nat) : Nat :=
  (s.cores.filter fun c => sectOf c.1 == sect).foldl (fun n c =>
    n + (c.2.cube.filter fun o => o.assisted || (o.ends.isSome && o.job.assistable)).length) 0

/-- A free octet operation that has waited its two cycles and is not legal (R442). -/
def State.octetFails (s : State) (core : Nat) (o : CubeOp) : Bool :=
  match o.job with
  | .octet m p op _ => o.ends.isNone && decide (o.reached + 2 ≤ s.cycle) && (s.core core).octetFree o
      && !octetLegal (s.core core) (4096 * (s.wgOf o.wg).launch.scratch) m p op
  | _ => false

/-- Has the section's assist queue room for `n` more operations of a pass that could need it (R444)? -/
def State.assistRoom (s : State) (core : Nat) (j : CubeJob) (n : Nat) : Bool :=
  !j.assistable || decide (s.assists (sectOf core) + n ≤ 64)

/-- A free legal octet operation whose pass may need no assist that has no room (R267, R444). -/
def State.octetReady (s : State) (core : Nat) (o : CubeOp) : Bool :=
  match o.job with
  | .octet m p op _ => o.ends.isNone && (s.core core).octetFree o
      && octetLegal (s.core core) (4096 * (s.wgOf o.wg).launch.scratch) m p op
      && s.assistRoom core o.job 1
  | _ => false

/-- The operations of the pass that may begin now: the oldest ready one, and up to three that join it (R267). -/
def State.nextPass (s : State) (core : Nat) : List CubeOp :=
  let c := s.core core
  match c.cube.filter (s.octetReady core) with
  | [] => []
  | a :: rest =>
    if a.reached + 2 ≤ s.cycle ∧ c.arrayFree ≤ s.cycle then
      (rest.foldl (fun (l : List CubeOp) b =>
        if l.length < 4 ∧ b.reached ≤ a.reached + 1 ∧ l.all (fun x => joinable x.job b.job) ∧ s.assistRoom core b.job (l.length + 1)
        then l ++ [b] else l) [a])
    else []

/-- Octet operations that fail, and the pass that may begin. -/
def State.passEnabled (s : State) (core : Nat) : Bool :=
  (s.core core).cube.any (s.octetFails core) || s.nextPass core != []

/-- CUBE_PASS_BEGIN: octet operations that break a condition retire with CUBEFB (R442); the next pass begins and
occupies the array (R267). -/
def execCubePassBegin (core : Nat) (s : State) : Answer :=
  .next (s.when (s.passEnabled core) fun s =>
    let s := ((s.core core).cube.filter (s.octetFails core)).foldl (fun s o =>
      (s.flagOp o.wave o.op flagCubefb).endCube core o) s
    match s.nextPass core with
    | [] => s
    | a :: rest =>
      let c := match a.job with
        | .octet m .. => passCycles m
        | _ => 1
      let seqs := (a :: rest).map CubeOp.seq
      s.onCore core fun u => { u with
        cube := u.cube.map fun (o : CubeOp) => if seqs.contains o.seq then
            { o with ends := some (s.cycle + c + 11), held := o.job.slots.foldl (fun (t : Cells Slot) n => t.set n (u.slots.get n)) [] } else o
        arrayFree := s.cycle + c })

/-- The octet operations of the pass that is due to be written: those of the earliest end. -/
def State.duePass (s : State) (core : Nat) : List CubeOp :=
  let inPass := (s.core core).cube.filter fun o => !o.assisted && !o.job.isMove && o.ends.isSome
  match inPass with
  | [] => []
  | a :: rest =>
    let e := rest.foldl (fun n o => min n (o.ends.getD 0)) (a.ends.getD 0)
    if e ≤ s.cycle then inPass.filter fun o => o.ends == some e else []

/-- A core with the weight slots that an operation's pass read (R261). -/
def Core.under (c : Core) (o : CubeOp) : Core := { c with slots := o.held.foldl (fun t x => t.set x.1 x.2) c.slots }

/-- The cells of a core after another has written them. -/
def Core.takeCells (c d : Core) : Core := { c with acc := d.acc, accBad := d.accBad }

/-- One octet operation of a pass is written: its rows, or its handing to the section controller (R257). -/
def State.writeOct (s : State) (core : Nat) (o : CubeOp) : State :=
  let c := (s.core core).under o
  match o.job with
  | .octet m p op assist =>
    if !c.cube.contains o then s
    else if m.acc && (octetCells p op).any (fun t => c.accBad.contains t.2.2) then s.accKill core o.wg
    else
      let kb := 16 * cubeP m * p.koff.toNat
      let bad := (c.slots.get p.bslot.toNat).badMask kb (16 * cubeP m)
      let s := if bad then s.flagOp o.wave o.op flagCubefb else s
      if assist && octetSubnormal c m p op then
        (s.flagOp o.wave o.op flagSubassist).onCore core fun u =>
          { u with cube := u.cube.map fun (x : CubeOp) => if x.seq = o.seq then { x with assisted := true } else x }
      else (s.onCells core fun u => u.takeCells ((u.under o).writeOctet m p op false)).endCube core o
  | _ => s

/-- CUBE_PASS_WRITE (R256 to R258, R267). -/
def execCubePassWrite (core : Nat) (s : State) : Answer :=
  .next (s.when (s.duePass core != []) fun s => (s.duePass core).foldl (fun s o => s.writeOct core o) s)

/-- CUBE_ASSIST_COMPLETE: the section controller writes the oldest handed octet's rows with subnormals kept (R257). -/
def execCubeAssistComplete (core : Nat) (s : State) : Answer :=
  match (s.core core).cube.find? fun o => o.assisted with
  | none => .next s
  | some o =>
    match o.job with
    | .octet m p op _ => .next ((s.onCells core fun u => u.takeCells ((u.under o).writeOctet m p op true)).endCube core o)
    | _ => .next s

/-! ### CLDB and the filling of slots (R261, R262, R277 to R279, R443) -/

/-- The ring release a CLDB, CASTS or CALDS names. -/
def relOf (rel : Bool) (ring : BitVec 2) (slot : Word) : Option (Nat × Nat) :=
  if rel then some (ring.toNat, slot.toNat) else none

/-- CLDB: for the part's leader (R271, R279). -/
def execCldb (g : Guard) (f : CldbFields) (s : State) : Answer :=
  .next (s.run (needBelow f.fmt.toNat 6 42 ++
      (if f.space then [] else require (f.srck.toNat % 2 == 0) ⟨0x04, f.srck.toNat + 15 * 2 ^ 8, 0⟩)) fun s =>
    match s.actG g with
    | [] => s
    | l :: _ =>
      let n := spnCount f.spn
      let p := if f.fmt = 4 ∨ n ≠ 0 then 2 else 1
      let kext := 16 * (f.kext.toNat + 1)
      let rel := relOf f.rel f.ring (s.kOf f.idxk.toNat l)
      let src := if f.space then (s.kOf f.srck.toNat l).toNat
        else (s.kOf f.srck.toNat l).toNat + 2 ^ 32 * (s.kOf (f.srck.toNat + 1) l).toNat
      s.run (s.needHeld rel) fun s =>
        let s := s.modfb (kext % (16 * p) != 0 || (n != 0 && f.fmt == 4))
        let s := (s.release 2).flushWindow s.wg.id
        let r := s.cubeIssue .cpc [] [l] 1 rel
        r.2.reach r.1 (.load f src))

/-- Read `n` bytes of a context's memory as an engine, a page at a time (R279, R436). -/
def State.engSpan (s : State) (sect ctx grid : Nat) : Nat → Nat → Nat → EngRes (List Byte × State)
  | 0, _, _ => .ok ([], s)
  | fuel + 1, va, n =>
    if n = 0 then .ok ([], s)
    else
      match s.engCheck sect ctx va 1 false with
      | some e => .stop e s
      | none =>
        let m := min n (2 ^ 14 - va % 2 ^ 14)
        (s.engTake sect ctx grid va m).bind fun r =>
          (State.engSpan r.2 sect ctx grid fuel ((va + m) % 2 ^ 64) (n - m)).bind fun t => .ok (r.1 ++ t.1, t.2)

/-- Change a weight slot. -/
def State.setSlot (s : State) (core n : Nat) (t : Slot) : State :=
  s.onCore core fun c => { c with slots := c.slots.set n t }

/-- Loads that may fill their slots: those whose slot every earlier operation has done with (R261). -/
def Core.readyLoads (c : Core) : List CubeOp :=
  c.cube.filter fun o =>
    match o.job.fills with
    | some n => o.parked.isNone && (earlier c.cube o).all fun x => !x.job.slots.contains n && x.job.fills != some n
    | none => false

/-- Park a fill or refill of a slot under an entry for its page (R109, R279); with every entry in use it asks again
(R430). The unit refers to the present pages of its `n` bytes at `src` meanwhile (R105; DEDUCED, unsafe; log entry 57).
-/
def State.parkFill (s : State) (core : Nat) (o : CubeOp) (slot ctx src n : Nat) (va level kind : Nat) (pte : DWord) : State :=
  let r := s.waitFor (sectOf core) ctx va level kind pte (s.wgOf o.wg).grid
  let s := r.2.onCore core fun c =>
    { c with
      cube := c.cube.map fun (x : CubeOp) => if x.seq = o.seq then { x with parked := r.1.map Prod.snd, begun := true } else x
      pendingFills := c.pendingFills.map fun (x : CubeOp) =>
        if x.wave = o.wave ∧ x.op = o.op then { x with parked := r.1.map Prod.snd } else x }
  let pins := distinct (s.leafEntries ctx src n)
  (s.pin pins).onCore core fun c => { c with
    pins := c.pins ++ (pins.filter fun a => !c.pins.contains (slot, a)).map fun a => (slot, a) }

/-- The fills pending on a slot since a resume end with it; CUBEFB when the refill failed (R354, R443). -/
def State.endPending (s : State) (core n : Nat) (failed : Bool) : State :=
  let mine := (s.core core).pendingFills.filter fun o => o.job.fills == some n
  let s := s.onCore core fun c => { c with pendingFills := c.pendingFills.filter fun o => o.job.fills != some n }
  mine.foldl (fun s o => (if failed then s.flagOp o.wave o.op flagCubefb else s).cubeDone o.wave o.op) s

/-- A fill ends with its slot as given; CUBEFB when it failed (R443). A refill still pending on the slot is not made (R287).
-/
def State.endFill (s : State) (core : Nat) (o : CubeOp) (n : Nat) (t : Slot) (failed : Bool) : State :=
  let s := (s.setSlot core n t).endPending core n false
  ((if failed then s.flagOp o.wave o.op flagCubefb else s).endCube core o).dropPins core n

/-- Does a CLDB's code or source address end its fill whatever its source holds (R279, R409, R443)? -/
def fillBad (f : CldbFields) (src : Nat) : Bool :=
  let n := spnCount f.spn
  let kext := 16 * (f.kext.toNat + 1)
  kext % (16 * (if f.fmt = 4 ∨ n ≠ 0 then 2 else 1)) != 0 || (n != 0 && f.fmt == 4) || decide (maxKext f.fmt.toNat n < kext)
    || src % 16 != 0

/-- Lines of a core's L1 that differ from the bytes at home that its cube unit has read for a lane leave it, so that no later
read of the lane returns an older write (R117, R128). -/
def State.dropStale (s : State) (core ctx : Nat) : Nat → Nat → Nat → State
  | 0, _, _ => s
  | fuel + 1, va, n =>
    let m := min n (2 ^ 14 - va % 2 ^ 14)
    let s := match s.ctxPa ctx va with
      | some pa => s.dropLines core fun l =>
          decide (pa / 128 ≤ l.pa) && decide (l.pa * 128 < pa + m) && l.data != s.readPhys (l.pa * 128) 128
      | none => s
    State.dropStale s core ctx fuel ((va + m) % 2 ^ 64) (n - m)

/-- Make the fill of a CLDB from its source, and end it (R279, R409, R443): it reads its window once the stores that came
before it are applied (R127), and global memory as an access of its lane (R128). -/
def State.fillSlot (s : State) (core : Nat) (o : CubeOp) (f : CldbFields) (src : Nat) : State :=
  let n := spnCount f.spn
  let p := if f.fmt = 4 ∨ n ≠ 0 then 2 else 1
  let kext := 16 * (f.kext.toNat + 1)
  let len := imageBytes f.fmt.toNat n kext
  let g := s.wgOf o.wg
  let slot := f.slot.toNat
  let full := fun bs => (⟨true, f.fmt.toNat, n, kext, f.space, src, bs, false, g.ctx⟩ : Slot)
  if kext % (16 * p) ≠ 0 ∨ (n ≠ 0 ∧ f.fmt = 4) then s.endFill core o slot default false
  else if maxKext f.fmt.toNat n < kext ∨ src % 16 ≠ 0 ∨ (f.space = true ∧ 4096 * g.launch.scratch < src + len) then
    s.endFill core o slot default true
  else if f.space then
    let s := s.flushWindow g.id
    s.endFill core o slot (full ((s.wgOf o.wg).scratch.read src len)) false
  else match s.engSpan (sectOf core) g.ctx g.grid 3 src len with
    | .ok (bs, s) => (s.dropStale core g.ctx 3 src len).endFill core o slot (full bs) false
    | .stop (.park va level kind pte) s => s.parkFill core o slot g.ctx src len va level kind pte
    | .stop (.kill a) s => s.walkPoison g.ctx a g.grid
    | .stop (.err _) s => s.endFill core o slot default true

/-- WEIGHT_SLOT_FILL: the oldest CLDB whose turn it is fills its slot (R261, R279, R409, R443). -/
def execWeightSlotFill (core : Nat) (s : State) : Answer :=
  match (s.core core).readyLoads with
  | [] => .next s
  | o :: _ =>
    match o.job with
    | .load f src => .next (s.fillSlot core o f src)
    | _ => .next s

/-- The oldest octet operation that waits for a refill of a slot, no CLDB into it standing before (R262, Table 13.10).
-/
def Core.refillFor (c : Core) (n : Nat) : Option CubeOp :=
  if (c.slots.get n).valid && (c.slots.get n).refill then
    c.cube.find? fun o => o.ends.isNone && o.parked.isNone && o.job.slots.contains n
      && (earlier c.cube o).all fun x => x.job.fills != some n
  else none

/-- Does a wave wait for its counters: a part of it at a WAITCNT that is not met, or all its lanes exited? -/
def State.awaitsCounters (s : State) (wave : Nat) : Bool :=
  let w := s.waveOf wave
  w.live == 0 || w.parts.any fun p =>
    let t := s.aim wave p.entry
    w.awake p && (match t.fetchPart with
      | .chain l => (slateOf t.part l).list.any fun x => match x.2.instr with
        | .waitcnt a b c d e => !t.waitMet t.part.members a b c d e
        | _ => false
      | _ => false)

/-- The operation that a refill of a slot serves: one that names the slot, or a fill pending on it since a resume whose wave
waits for its counters (R262, R354; DEDUCED, unsafe; log entry 55). -/
def State.refillDue (s : State) (core n : Nat) : Option CubeOp :=
  let c := s.core core
  match c.refillFor n with
  | some o => some o
  | none =>
    if c.pendingFills = [] ∨ !(c.slots.get n).valid ∨ !(c.slots.get n).refill then none
    else c.pendingFills.find? fun o => o.parked.isNone && o.job.fills == some n && s.awaitsCounters o.wave

/-- LAZY_REFILL: a slot kept as its header reads its storage again on its first use after resume, and a fill that was pending
on it completes (R262, R354, R443). -/
def execLazyRefill (core slot : Nat) (s : State) : Answer :=
  match s.refillDue core slot with
  | none => .next s
  | some o =>
    let t := (s.core core).slots.get slot
    let len := imageBytes t.fmt t.sparse t.kext
    match s.engSpan (sectOf core) t.ctx (s.wgOf o.wg).grid 3 t.src len with
    | .ok (bs, s) =>
      .next (((s.setSlot core slot { t with image := bs, refill := false }).dropPins core slot).endPending core slot false)
    | .stop (.park va level kind pte) s => .next (s.parkFill core o slot t.ctx t.src len va level kind pte)
    | .stop (.kill a) s => .next (s.walkPoison t.ctx a (s.wgOf o.wg).grid)
    | .stop (.err _) s =>
      .next ((((s.setSlot core slot default).flagOp o.wave o.op flagCubefb).dropPins core slot).endPending core slot true)

/-! ### Conversions of cells (R273, R281) -/

/-- Cells per register (Table 13.1). -/
def cellsPer (afmt : Nat) : Nat := 16 / cellRegs afmt

/-- Bytes per cell (Table 13.1). -/
def cellBytes (afmt : Nat) : Nat := 4 / cellsPer afmt

/-- The float format of a float AFMT. -/
def afmtFmt (afmt : Nat) : Option Fmt :=
  match afmt with
  | 1 => some .fp32
  | 2 => some .fp16
  | 3 => some .bf16
  | 4 => some .e4m3
  | 5 => some .e5m2
  | _ => none

/-- Out: the epilogue and conversion of a cell (R281); .b32 ignores the epilogue (R409). -/
def cellOut (afmt : Nat) (relu scale : Bool) (s : Int) (cell : Word) : Nat :=
  if afmt = 0 then cell.toNat
  else
    let x := if 6 ≤ afmt then XVal.ofInt cell.toInt else fval cell
    let x := if scale then x.mul (XVal.scaled false 1 s) else x
    let x := if relu && x.sign then XVal.zero false else x
    match afmtFmt afmt with
    | some f => f.convert x .rne .fmt
    | none => convertInt true (if afmt = 6 then 32 else 8) x .rne true

/-- In: an element widened to a cell (R281, R409). -/
def cellIn (afmt code : Nat) : Word :=
  match afmt with
  | 2 => fword (Fmt.convert .fp32 (Fmt.decode .fp16 code) .rne .none)
  | 3 => fword (Fmt.convert .fp32 (Fmt.decode .bf16 code) .rne .none)
  | 4 => fword (Fmt.convert .fp32 (Fmt.decode .e4m3 code) .rne .none)
  | 5 => fword (Fmt.convert .fp32 (Fmt.decode .e5m2 code) .rne .none)
  | 7 => (BitVec.ofNat 8 code).signExtend 32
  | _ => BitVec.ofNat 32 code

/-- A scale byte (R281). -/
def scaleOf (k : Nat) : Int := signedNat 8 k

/-! ### CARD, CAWR, CASTS, CALDS, CAZERO (R280 to R284) -/

/-- A run of registers of CARD or CAWR ends at or before v95 (R281, R410). -/
def needCells (r : Reg) (afmt : BitVec 3) : List Trap :=
  require (decide (r.toNat + cellRegs afmt.toNat ≤ 96)) (badReg r 16)

/-- Is an octet's last row beyond the store (R281, R442)? -/
def rowsOver (row0 : BitVec 5) (o : Nat) : Bool := decide (255 < 8 * row0.toNat + 8 * o + 7)

/-- The operation that moves nothing: it takes its place and retires with m = 1 (R442). -/
def noMove : CubeJob := .zeroMask 0

/-- CARD (R280, R281). -/
def execCard (g : Guard) (afmt : BitVec 3) (relu scale : Bool) (sck row0 : BitVec 5) (col0 : BitVec 4) (d : Reg) (s : State) :
    Answer :=
  .next (s.runWide 1 (needCells d afmt) fun s =>
    match s.actG g with
    | [] => s
    | l :: ls =>
      let lanes := l :: ls
      let s := s.modfb (afmt == 0 && (relu || scale))
      let s := if (octetsOf lanes).any (rowsOver row0) then s.pennant flagCubefb else s
      let r := s.cubeIssue .cbc (runOf d (cellRegs afmt.toNat)) lanes (octetsOf lanes).length none
      (octetsOf lanes).foldl (fun t q =>
        let scales := (List.range 8).map fun i => (s.kOf sck.toNat (8 * q + i)).toNat % 256
        t.reach r.1 (if rowsOver row0 q then noMove
          else .card afmt.toNat relu scale (8 * row0.toNat) (16 * col0.toNat) d.toNat (octetMask lanes q) q scales)) r.2)

/-- CAWR (R280, R281, R409). -/
def execCawr (g : Guard) (afmt : BitVec 3) (row0 : BitVec 5) (col0 : BitVec 4) (a : Reg) (s : State) : Answer :=
  .next (s.runWide 1 (needCells a afmt) fun s =>
    match s.actG g with
    | [] => s
    | l :: ls =>
      let lanes := l :: ls
      let s := s.modfb (afmt == 1 || afmt == 4 || afmt == 5 || afmt == 6)
      let s := if (octetsOf lanes).any (rowsOver row0) then s.pennant flagCubefb else s
      let r := s.cubeIssue .cbc [] lanes (octetsOf lanes).length none
      (octetsOf lanes).foldl (fun t q =>
        let row := fun lane => (List.range (cellRegs afmt.toNat)).map fun i => s.src.read lane (a.toNat + i)
        t.reach r.1 (if rowsOver row0 q then noMove
          else .cawr afmt.toNat (8 * row0.toNat) (16 * col0.toNat) (octetMask lanes q) q (octetRows lanes q row))) r.2)

/-- Rows and columns of an accumulator tile (Table 13.8). -/
def tileRows (t : AccTile) : Nat := 8 * (t.nrow.toNat + 1)
def tileCols (t : AccTile) : Nat := 16 * (t.ncol.toNat + 1)

/-- Does a tile pass row 255 or column 255 (R283)? -/
def tileOver (t : AccTile) : Bool :=
  decide (256 < 8 * t.row0.toNat + (tileRows t)) || decide (256 < 16 * t.col0.toNat + (tileCols t))

/-- RANGE before MISALIGN, for the scratch part of CASTS and CALDS (R283, R417, R418). -/
def State.needTile (s : State) (leader off pitch rows cols e : Nat) : List Trap :=
  if 4096 * s.wg.launch.scratch < off + (rows - 1) * pitch + cols * e then [⟨0x22, 2 ^ leader, off⟩]
  else require (off % 16 == 0 && pitch % 16 == 0 && decide (cols * e ≤ pitch)) ⟨0x21, 2 ^ leader, off⟩

/-- CASTS and CALDS for the part's leader: offset, pitch, ring slot (R271, R283); registers beyond k31 read as zero
(R404). -/
def State.tileOp (s : State) (g : Guard) (afmt : BitVec 3) (rel : Bool) (ring : BitVec 2) (t : AccTile) (offk : BitVec 5)
    (fallback : Bool) (tile : Nat) (job : State → Nat → Nat → Nat → CubeJob) : State :=
  match s.actG g with
  | [] => s
  | l :: _ =>
    let off := (s.kOf offk.toNat l).toNat
    let pitch := (s.kOf (offk.toNat + 1) l).toNat
    let r' := relOf rel ring (s.kOf (offk.toNat + 2) l)
    s.run (s.needHeld r' ++ s.needTile l off pitch (tileRows t) (tileCols t) (cellBytes afmt.toNat)) fun s =>
      let s := if 30 ≤ offk.toNat then s.pennant flagRsvnz else s
      let s := s.modfb fallback
      let s := if tileOver t then s.pennant flagCubefb else s
      let s := s.flushWindow s.wg.id
      let r := s.cubeIssue .cbc [] [l] 1 r' tile
      r.2.reach r.1 (if tileOver t then noMove else job s l off pitch)

/-- CASTS (R282, R283). -/
def execCasts (g : Guard) (afmt : BitVec 3) (relu scale rel : Bool) (ring : BitVec 2) (t : AccTile) (offk sck : BitVec 5)
    (s : State) : Answer :=
  .next (s.tileOp g afmt rel ring t offk (afmt == 0 && (relu || scale)) 2 fun s l off pitch =>
    .casts afmt.toNat relu scale (8 * t.row0.toNat) (16 * t.col0.toNat) (tileRows t) (tileCols t) off pitch
      ((s.kOf sck.toNat l).toNat % 256))

/-- CALDS (R282, R283, R409): the tile's elements are read at issue, as rows of words. -/
def execCalds (g : Guard) (afmt : BitVec 3) (rel : Bool) (ring : BitVec 2) (t : AccTile) (offk : BitVec 5) (s : State) :
    Answer :=
  .next (s.tileOp g afmt rel ring t offk (afmt == 1 || afmt == 4 || afmt == 5 || afmt == 6) 1 fun _ _ off pitch =>
    .calds afmt.toNat (8 * t.row0.toNat) (16 * t.col0.toNat) (tileRows t) (tileCols t) off pitch)

/-- CAZERO, mask form (R284). -/
def execCazeroMask (g : Guard) (mk : BitVec 5) (s : State) : Answer :=
  match s.actG g with
  | [] => .next s
  | l :: _ =>
    let r := s.cubeIssue .cbc [] [l] 1 none
    .next (r.2.reach r.1 (.zeroMask (s.kOf mk.toNat l)))

/-- CAZERO, tile form (R284, R442). -/
def execCazeroTile (g : Guard) (t : AccTile) (s : State) : Answer :=
  match s.actG g with
  | [] => .next s
  | l :: _ =>
    let s := if tileOver t then s.pennant flagCubefb else s
    let r := s.cubeIssue .cbc [] [l] 1 none
    .next (r.2.reach r.1 (if tileOver t then noMove else .zeroTile (8 * t.row0.toNat) (16 * t.col0.toNat) (tileRows t) (tileCols t)))

/-! ### Moves (R272) -/

/-- Cycles for which a move occupies the accumulator port. -/
def CubeJob.moveCycles : CubeJob → Nat
  | .casts _ _ _ _ _ rows cols _ _ _ => rows / 8 * (cols / 16)
  | .calds _ _ _ rows cols _ _ => rows / 8 * (cols / 16)
  | .zeroTile _ _ rows cols => rows / 8 * (cols / 16)
  | .zeroMask m => if m = 0 then 1 else 16 * bitsBelow m.toNat 32
  | _ => 1

/-- The move that may begin now. -/
def State.nextMove (s : State) (core : Nat) : Option CubeOp :=
  let c := s.core core
  if c.portFree ≤ s.cycle then
    c.cube.find? fun o => o.job.isMove && o.ends.isNone && decide (o.reached + 2 ≤ s.cycle) && c.moveFree o
  else none

/-- ACC_MOVE_BEGIN (R272). -/
def execAccMoveBegin (core : Nat) (s : State) : Answer :=
  match s.nextMove core with
  | none => .next s
  | some o =>
    let m := o.job.moveCycles
    .next (s.onCore core fun c => { c with
      cube := c.cube.map fun (x : CubeOp) => if x.seq = o.seq then { x with ends := some (s.cycle + m + 7) } else x
      portFree := s.cycle + m })

/-- Keys of the cells of a rectangle, row by row. -/
def rectCells (row0 col0 rows cols : Nat) : List (Nat × Nat × Nat) :=
  (List.range rows).flatMap fun r => (List.range cols).map fun c => (r, c, 256 * (row0 + r) + col0 + c)

/-- Words that hold a run of codes, `c` to a word (R79). -/
def packCodes (c : Nat) (xs : List Nat) : List Word :=
  (List.range (ceilDiv xs.length c)).map fun i =>
    BitVec.ofNat 32 ((List.range c).foldl (fun n j => n + xs.getD (c * i + j) 0 % 2 ^ (32 / c) * 2 ^ (32 / c * j)) 0)

/-- Element `j` of a run of words, `c` to a word. -/
def unpackCode (c : Nat) (ws : List Word) (j : Nat) : Nat :=
  (ws.getD (j / c) 0).toNat / 2 ^ (32 / c * (j % c)) % 2 ^ (32 / c)

/-- Cells a move reads. -/
def CubeJob.readCells : CubeJob → List Nat
  | .card _ _ _ row0 col0 _ lanes oct _ =>
    ((List.range 8).filter fun i => lanes.getLsbD i).flatMap fun i =>
      (List.range 16).map fun j => 256 * (row0 + 8 * oct + i) + col0 + j
  | .casts _ _ _ row0 col0 rows cols _ _ _ => (rectCells row0 col0 rows cols).map fun t => t.2.2
  | _ => []

/-- What a move writes (R281, R283, R284). -/
def State.moveWrite (s : State) (core : Nat) (o : CubeOp) : State :=
  let c := s.core core
  match o.job with
  | .card afmt relu scale row0 col0 d lanes oct scales =>
    let ws := ((List.range 8).filter fun i => lanes.getLsbD i).flatMap fun i =>
      let codes := (List.range 16).map fun j =>
        cellOut afmt relu scale (scaleOf (scales.getD i 0)) (c.acc.get (256 * (row0 + 8 * oct + i) + col0 + j))
      (packCodes (cellsPer afmt) codes).zipIdx.map fun w => (8 * oct + i, d + w.2, w.1, false)
    s.mapWave o.wave fun w => w.writeRegs (regWrites ws)
  | .cawr afmt row0 col0 lanes oct rows =>
    let xs := ((List.range 8).filter fun i => lanes.getLsbD i).flatMap fun i => (List.range 16).map fun j =>
      (256 * (row0 + 8 * oct + i) + col0 + j, cellIn afmt (unpackCode (cellsPer afmt) (rows.getD i []) j))
    s.onCells core fun u => xs.foldl (fun (u : Core) x => u.setCell x.1 x.2) u
  | .casts afmt relu scale row0 col0 rows cols off pitch sc =>
    let e := cellBytes afmt
    let xs := (rectCells row0 col0 rows cols).map fun t =>
      (off + t.1 * pitch + t.2.1 * e, leBytes e (cellOut afmt relu scale (scaleOf sc) (c.acc.get t.2.2)))
    s.mapWg o.wg fun g => { g with scratch := xs.foldl (fun (m : Cells Byte) x => m.write x.1 x.2) g.scratch }
  | .calds afmt row0 col0 rows cols off pitch =>
    let e := cellBytes afmt
    let g := s.wgOf o.wg
    let xs := (rectCells row0 col0 rows cols).map fun t =>
      (t.2.2, cellIn afmt (leValue (g.scratch.read (off + t.1 * pitch + t.2.1 * e) e)))
    s.onCells core fun u => xs.foldl (fun (u : Core) x => u.setCell x.1 x.2) u
  | .zeroTile row0 col0 rows cols =>
    s.onCells core fun u => (rectCells row0 col0 rows cols).foldl (fun (u : Core) t => u.setCell t.2.2 0) u
  | .zeroMask m =>
    s.onCells core fun u =>
      let keep := fun (k : Nat) => !m.getLsbD (k / 256 / 32 * 4 + k % 256 / 64)
      { u with acc := u.acc.filter fun (x : Nat × Word) => keep x.1, accBad := u.accBad.filter keep }
  | _ => s

/-- The move that is due to be written. -/
def State.dueMove (s : State) (core : Nat) : Option CubeOp :=
  (s.core core).cube.find? fun o => o.job.isMove && (match o.ends with
    | some e => decide (e ≤ s.cycle)
    | none => false)

/-- ACC_MOVE_WRITE (R272, R281, R283, R284, R444). -/
def execAccMoveWrite (core : Nat) (s : State) : Answer :=
  match s.dueMove core with
  | none => .next s
  | some o =>
    if o.job.readCells.any (fun k => (s.core core).accBad.contains k) then .next (s.accKill core o.wg)
    else .next ((s.moveWrite core o).endCube core o)

/-! ### The cube events that are enabled -/

/-- The enabled events of a core's cube unit, in a fixed order (DESIGN CHOICE, unsafe; log entry 3). -/
def State.cubeEvents (s : State) (core : Nat) : List Instr :=
  (if s.duePass core != [] then [Instr.cubePassWrite core] else [])
    ++ (if (s.dueMove core).isSome then [Instr.accMoveWrite core] else [])
    ++ (if (s.core core).cube.any (fun o => o.assisted) then [Instr.cubeAssistComplete core] else [])
    ++ (if (s.core core).readyLoads != [] then [Instr.weightSlotFill core] else [])
    ++ (((List.range 64).filter fun n => (s.refillDue core n).isSome).map fun n => Instr.lazyRefill core n)
    ++ (if s.passEnabled core then [Instr.cubePassBegin core] else [])
    ++ (if (s.nextMove core).isSome then [Instr.accMoveBegin core] else [])

end Sys2Proof.Machine
end

