-- ==== Sys2Proof/Machine/Queues.lean ====
section
/-!
DEFINITION. Machine/Queues.lean: host queues: loading and serving them, and the command blocks GRID, COPY, SIGNAL, WAIT,
UMXLOAD, BARRIER and TIMESTAMP (R322 to R328, R332, R365 to R367, R393, R449, R456).
-/

namespace Sys2Proof.Machine

/-! ### Loading a queue (R322 to R324, R393) -/

/-- The shadow half of a queue record as read (Table 16.2). -/
def State.shadowHalf (s : State) (pa : Nat) : List Byte := s.readPhys pa 64

/-- Does the ring lie in its limits: a power of two from 4 KiB to 16 MiB, aligned, within [RINGLO, RINGHI) (R323)? -/
def ringGood (user shadow : List Byte) : Bool :=
  let base := fieldAt user 0 8
  let size := fieldAt user 8 4
  ((List.range 13).any fun k => size == 2 ^ (12 + k)) && base % max 1 size == 0
    && decide (fieldAt shadow 36 8 ≤ base) && decide (base + size ≤ fieldAt shadow 44 8)

/-- Do the other fields of the shadow half lie in their ranges, with every reserved bit zero (R323)? -/
def shadowGood (h : List Byte) : Bool :=
  decide (fieldAt h 61 2 ≤ 2047) && decide (10 ≤ fieldAt h 60 1) && decide (fieldAt h 60 1 ≤ 24)
    && decide (1 ≤ fieldAt h 58 2) && decide (fieldAt h 58 2 ≤ 256) && decide (fieldAt h 57 1 < 32)
    && decide (fieldAt h 56 1 ≤ 7) && decide (fieldAt h 63 1 < 2)
    && decide (6 ≤ fieldAt h 16 8 % 32) && decide (fieldAt h 16 8 % 32 ≤ 16) && natBits 5 7 (fieldAt h 16 8) == 0
    && fieldAt h 0 8 % 2 ^ 14 == 0 && decide (fieldAt h 0 8 < 2 ^ 52)

/-- Do the context fields of a shadow half hold the context's values (R324)? -/
def Ctx.agrees (c : Ctx) (h : List Byte) : Bool :=
  fieldAt h 0 8 == c.ptroot && fieldAt h 8 8 == c.codebase && fieldAt h 16 8 / 4096 * 4096 == c.faultq
    && fieldAt h 16 8 % 32 == c.faultLog && fieldAt h 24 8 == c.shpool && fieldAt h 32 4 == c.shpooln
    && fieldAt h 52 2 == c.asid && fieldAt h 54 2 == c.id

/-- The code with which a load halts, in the order of R323; 0 when it is accepted. -/
def loadCode (c : Ctx) (user shadow : List Byte) : Nat :=
  if fieldAt shadow 63 1 % 2 = 0 then 1
  else if !ringGood user shadow then 2
  else if !shadowGood shadow then 9
  else if !c.agrees shadow then 7
  else 0

/-- A queue's own vector, as a shadow half gives it: the one in force stays where the field is out of its range (R324, R393).
-/
def Queue.vector (v : Queue) (shadow : List Byte) : Queue :=
  if fieldAt shadow 61 2 ≤ 2047 then { v with msix := fieldAt shadow 61 2 } else v

/-- Load a queue: both halves are read and merged, or the queue halts on its own vector (R323, R324, R393). A user half that
no leaf maps gives no ring. (DESIGN CHOICE, unsafe; log entry 47.) -/
def State.loadQueue (s : State) (q : Nat) : State :=
  let v := s.queues.get q
  let user := (s.ctxRead v.ctx v.user 32).getD (List.replicate 32 0)
  let h := s.shadowHalf v.shadow
  let s := s.ctxTouchRange v.ctx v.user 32 false
  let s := { s with queues := s.queues.upd q fun v => v.vector h }
  match loadCode (s.ctx v.ctx) user h with
  | 0 => { s with queues := s.queues.upd q fun v => { v with
      loaded := true, halt := 0
      prio := min (fieldAt user 20 1) (fieldAt h 56 1), ringbase := fieldAt user 0 8, ringsize := fieldAt user 8 4
      writeidx := fieldAt user 12 4, readidx := fieldAt user 16 4, irqdone := (fieldAt user 21 1).testBit 0, deadline := fieldAt h 60 1
      maxspan := fieldAt h 58 2, engmask := BitVec.ofNat 5 (fieldAt h 57 1), maxprio := fieldAt h 56 1
      msix := fieldAt h 61 2 } }
  | code => s.haltQueue q code

/-! ### Reading command blocks (R325) -/

/-- Address of a 16-byte unit of the ring, counted from READIDX (R325). -/
def Queue.unit (v : Queue) (i : Nat) : Nat := (v.ringbase + (v.readidx + i) * 16 % max 1 v.ringsize) % 2 ^ 64

/-- Units written and not yet taken (R322). -/
def Queue.waiting (v : Queue) : Nat := (v.writeidx + 2 ^ 32 - v.readidx) % 2 ^ 32

/-- How the checks of the first `n` units of the next block end (R326). -/
def State.unitsCheck (s : State) (v : Queue) (n : Nat) : FwEnd :=
  (List.range n).foldl (fun e i =>
    match e with
    | .ok pa => match s.fwCheck v.ctx (v.unit i) needRead with
      | .ok _ => .ok pa
      | e => e
    | e => e) (.ok 0)

/-- The first `n` units of the next block. -/
def State.units (s : State) (v : Queue) (n : Nat) : List Byte :=
  (List.range n).flatMap fun i => (s.ctxRead v.ctx (v.unit i) 16).getD []

/-- The next block of a queue: none wholly written, a command with its SIZE, a malformed block, an access that fails. -/
inductive RingBlock where
  | none
  | cmd (i : Instr) (size : Nat)
  | bad
  | stop (e : FwEnd)
  deriving DecidableEq, Repr

/-- Is everything beyond the fields of a block zero (R325)? -/
def restZero (b : List Byte) (n : Nat) : Bool := decide (n ≤ b.length) && (b.drop n).all (· == 0)

/-- The command of a block's bytes: its fields in range, reserved and trailing bytes zero, addresses aligned (R325). -/
def parseBlock (q : Nat) (b : List Byte) : Option Instr :=
  let type := fieldAt b 0 2
  let version := fieldAt b 2 1
  let w4 := fieldAt b 4 4
  let a := fieldAt b 8 8
  let v := fieldAt b 16 8
  let check := fun (c : Bool) (i : Instr) => if c then some i else none
  match type, version with
  | 1, 1 => check (restZero b 16 && w4 == 0 && a % 128 == 0) (.grid q 1 a 0 0)
  | 1, 2 => check (restZero b 32 && w4 == 0 && a % 128 == 0 && fieldAt b 28 4 == 0) (.grid q 2 a v (fieldAt b 24 4))
  | 2, 1 => check (restZero b 44 && decide (w4 < 6)) (.copy q w4 a v ((List.range 5).map fun i =>
      BitVec.ofNat 32 (fieldAt b (24 + 4 * i) 4)))
  | 3, 1 => check (restZero b 24 && decide (w4 < 2) && a % 8 == 0) (.signal q (w4 == 1) a v)
  | 4, 1 => check (restZero b 24 && decide (w4 < 3) && a % 8 == 0) (.wait q w4 a v)
  | 5, 1 => check (restZero b 24 && w4 == 0 && a % 64 == 0) (.umxload q a v)
  | 6, 1 => check (restZero b 16 && w4 == 0 && a == 0) (.barrier q)
  | 7, 1 => check (restZero b 16 && w4 == 0 && a % 8 == 0) (.timestamp q a)
  | _, _ => none

/-- The next block of a queue (R325). (DESIGN CHOICE, unsafe; log entry 47.) -/
def State.block (s : State) (q : Nat) : RingBlock :=
  let v := s.queues.get q
  if v.waiting = 0 then .none
  else match s.unitsCheck v 1 with
    | .ok _ =>
      let size := fieldAt (s.units v 1) 3 1
      if size = 0 then .bad
      else if v.waiting < size then .none
      else match s.unitsCheck v size with
        | .ok _ => match parseBlock q (s.units v size) with
          | some i => .cmd i size
          | none => .bad
        | e => .stop e
    | e => .stop e

/-! ### Serving the queues (R323, R326) -/

/-- A 64-bit word read for a command; in a poisoned sector, where the manual states no value, a free one (DESIGN
CHOICE, safe; log entry 1). -/
def State.cmdWord (s : State) (pa : Nat) : Nat :=
  if s.poisoned pa 8 then (Config.freeWord s.fresh).toNat + 2 ^ 32 * (Config.freeWord (s.fresh + 1)).toNat else s.readNat pa 8

/-- The condition of a WAIT (Table 16.3). -/
def condMet (cond x value : Nat) : Bool :=
  match cond with
  | 0 => decide (value ≤ x)
  | 1 => x == value
  | _ => x != value

/-- The section whose copy engine serves a host COPY that starts now (R326; DESIGN CHOICE, safe; log entry 11). -/
def State.hostSect (s : State) : Nat := Config.hostEngine (s.names + 1) % 128

/-- Is a queue in service: loaded, neither halted nor draining, and with no access of its own parked? -/
def Queue.inService (v : Queue) : Bool :=
  v.installed && v.loaded && v.halt == 0 && v.draining.isNone && v.parked.isNone && v.umx.isNone

/-- Can the next block of a queue be taken now, or halt or park the queue (R325, R326)? -/
def State.queueReady (s : State) (q : Nat) : Bool :=
  let v := s.queues.get q
  v.inService && match s.block q with
      | .none => false
      | .cmd i _ => (match i with
        | .signal .. | .barrier .. | .timestamp .. => v.taken == []
        | .wait _ cond a value => (match s.fwCheck v.ctx a needRead with
          | .ok pa => condMet cond (s.cmdWord pa) value
          | _ => true)
        | .copy .. => !v.engmask.getLsbD 0 || decide ((s.sect s.hostSect).copyQ.length < 256)
        | _ => true)
      | _ => true

/-- The queue the scheduler core is to serve: the highest effective priority, round-robin among equals (R323). -/
def State.toServe (s : State) : Option Nat :=
  let qs := (s.queues.keys).filter s.queueReady
  let top := qs.foldl (fun p q => max p (s.queues.get q).prio) 0
  let best := qs.filter fun q => (s.queues.get q).prio == top
  match s.fw.serving with
  | none => best.head?
  | some (c, took) =>
    if !took && best.contains c then some c
    else match best.find? fun q => decide (c < q) with
      | some q => some q
      | none => best.head?

/-- Is a queue the one being served, with nothing better to serve (R323)? -/
def State.serves (s : State) (q : Nat) : Bool :=
  s.toServe == some q && (match s.fw.serving with
    | some (c, _) => c == q
    | none => false)

/-- Is a command the next one the scheduler core takes, and its SIZE. -/
def State.due (s : State) (q : Nat) (i : Instr) : Option Nat :=
  if s.serves q then
    match s.block q with
    | .cmd j n => if j = i then some n else none
    | _ => none
  else none

/-- The A bits that reading the first `n` units of the next block sets (R105, R326). -/
def State.touchUnits (s : State) (q n : Nat) : State :=
  let v := s.queues.get q
  (List.range n).foldl (fun s i => s.ctxTouch v.ctx (v.unit i) false) s

/-- A block is taken: READIDX advances over it (R326). -/
def State.takeBlock (s : State) (q n : Nat) : State :=
  let v := s.queues.get q
  let s := s.touchUnits q n
  let r := (v.readidx + n) % 2 ^ 32
  ({ s with
    queues := s.queues.upd q fun v => { v with readidx := r }
    fw := { s.fw with serving := some (q, true) } }).ctxWrite v.ctx (v.user + 16) (leBytes 4 r)

/-- A block halts its queue (R325, R393). -/
def State.haltAt (s : State) (q code : Nat) : State :=
  { s with fw := { s.fw with serving := some (q, true) } }.haltQueue q code

/-- KIND of the page fault of a command's access: engine, with read and write (R326, Table 6.4). -/
def kindOf (n : Need) : Nat := 8 + (if n.r then 1 else 0) + (if n.w then 2 else 0)

/-- A command's own access fails: it parks the queue, halts it with code 8, or its walk reads poison (R326). -/
def State.cmdFail (s : State) (q : Nat) (e : FwEnd) (n : Need) : State :=
  let v := s.queues.get q
  match e with
  | .absent va level pte =>
    let r := s.waitFor 0 v.ctx va level (kindOf n) pte 0
    { r.2 with queues := r.2.queues.upd q fun v => { v with parked := r.1.map Prod.snd } }
  | .poison a => s.walkPoison v.ctx a 0
  | _ => s.haltAt q 8

/-- The scheduler core reads the next block of a queue in service, and the word of a WAIT, whether or not it takes the block
(R105, R326). -/
def State.pollQueue (s : State) (q : Nat) : State :=
  let v := s.queues.get q
  if !v.inService then s
  else match s.block q with
    | .cmd i n =>
      let t := s.touchUnits q n
      match i with
      | .wait _ _ a _ => (match s.fwCheck v.ctx a needRead with
        | .ok _ => t.fwTouch v.ctx a needRead
        | _ => t)
      | _ => t
    | .bad => s.touchUnits q 1
    | .none => if v.waiting = 0 ∨ s.unitsCheck v 1 ≠ .ok 0 then s else s.touchUnits q 1
    | .stop _ => s

/-- The same for every queue, once a cycle. -/
def State.pollQueues (s : State) : State := s.queues.keys.foldl State.pollQueue s

/-- QUEUE_LOAD: the scheduler core returns to a queue after serving another, and loads it (R323). -/
def execQueueLoad (q : Nat) (s : State) : Answer :=
  .next (s.when (s.toServe == some q && !s.serves q) fun s =>
    { s with fw := { s.fw with serving := some (q, false) } }.loadQueue q)

/-- UNKNOWN_COMMAND_TYPE: a block that is malformed halts the queue with code 3; a block that cannot be read parks the
queue or halts it with code 8 (R325, R326, R393). -/
def execUnknownCommandType (q : Nat) (s : State) : Answer :=
  .next (s.when (s.serves q) fun s =>
    match s.block q with
    | .bad => (s.touchUnits q 1).haltAt q 3
    | .stop e => s.cmdFail q e needRead
    | _ => s)

/-! ### GRID and COPY (R325 to R328, R332, R449) -/

/-- What the module holds of a grid of its own as it takes the GRID (R326, R328, R329). -/
def ownGrid (v : Queue) (q addr tag : Nat) (l : LaunchRec) (nodes : List Node) : Grid :=
  { (default : Grid) with
    ctx := v.ctx, queue := q, launch := l.lower v.maxprio, addr := addr
    tag := tag, nodes := nodes, dealing := true, begun := true, span := [0]
    undealt := if l.units = 0 then [] else [⟨0, l.units, 0⟩] }

/-- GRID: the dispatcher reads the launch record and the node table, and takes the grid; a record with a span halts the
queue with code 5, and one that breaks a limit completes at once with ERR 6 (R326, R328, R332, R364, R449). -/
def execGrid (q version record param tag : Nat) (s : State) : Answer :=
  .next (match s.due q (.grid q version record param tag) with
    | none => s
    | some n =>
      let v := s.queues.get q
      match s.fwRange v.ctx record 128 with
      | .ok _ =>
        let s := s.ctxTouchRange v.ctx record 128 false
        let r := s.fwBytes v.ctx record 128
        let l := launchOf r
        let l := if param = 0 then l else { l with param := param }
        if l.span ≠ 0 then (s.touchUnits q n).haltAt q 5
        else
          let refuse := fun (s : State) =>
            let x := (s.takeBlock q n).addGrid (ownGrid v q record tag l [])
            x.2.rejectGrid (x.2.gridOf x.1)
          if !launchGood r then refuse s
          else match s.nodeTable v.ctx l.nodetab with
            | .ok nodes =>
              let x := ((s.touchNodes v.ctx l.nodetab).takeBlock q n).addGrid (ownGrid v q record tag l nodes)
              { x.2 with queues := x.2.queues.upd q fun v => { v with taken := v.taken ++ [(true, x.1)] } }
            | .bad => refuse (s.touchNodes v.ctx l.nodetab)
            | .absent va level pte => s.cmdFail q (.absent va level pte) needRead
            | .poison a => s.walkPoison v.ctx a 0
      | e => s.cmdFail q e needRead)

/-- COPY: the command goes to a copy engine of the module; without the copy engine in ENGMASK the queue halts with
code 4 (R325, R326). -/
def execCopy (q scope record dst : Nat) (crd : List Word) (s : State) : Answer :=
  .next (match s.due q (.copy q scope record dst crd) with
    | none => s
    | some n =>
      let v := s.queues.get q
      if !v.engmask.getLsbD 0 then (s.touchUnits q n).haltAt q 4
      else
        let sect := s.hostSect
        let id := s.names + 1
        let c : Cmd := { (default : Cmd) with id := id, job := .host q scope record dst crd, ctx := v.ctx }
        let s := ({ s with names := id }.takeBlock q n).onSect sect fun t => putCopy t c
        { s with queues := s.queues.upd q fun v => { v with taken := v.taken ++ [(false, id)] } })

/-! ### SIGNAL, WAIT, BARRIER, TIMESTAMP (R325, R326) -/

/-- SIGNAL: one 64-bit step at the home slice; an add to a poisoned sector is not applied (R325, R326). -/
def execSignal (q : Nat) (add : Bool) (addr value : Nat) (s : State) : Answer :=
  .next (match s.due q (.signal q add addr value) with
    | none => s
    | some n =>
      let v := s.queues.get q
      match s.fwCheck v.ctx addr needBoth with
      | .ok pa =>
        let s := (s.takeBlock q n).fwTouch v.ctx addr needBoth
        if !add then s.ctxPut v.ctx addr pa (leBytes 8 value)
        else if s.poisoned pa 8 then s.consumed pa 3 v.ctx 0
        else s.ctxPut v.ctx addr pa (leBytes 8 (s.readNat pa 8 + value))
      | e => s.cmdFail q e needBoth)

/-- WAIT is taken by the read that meets its condition; a read that does not leaves it, and later commands, untaken
(R325, R326). -/
def execWait (q cond addr value : Nat) (s : State) : Answer :=
  .next (match s.due q (.wait q cond addr value) with
    | none => s
    | some n =>
      let v := s.queues.get q
      match s.fwCheck v.ctx addr needRead with
      | .ok _ => { (s.takeBlock q n).fwTouch v.ctx addr needRead with fresh := s.fresh + 2 }
      | e => s.cmdFail q e needRead)

/-- BARRIER is taken once every earlier command has completed (R325). -/
def execBarrier (q : Nat) (s : State) : Answer :=
  .next (match s.due q (.barrier q) with
    | none => s
    | some n => s.takeBlock q n)

/-- TIMESTAMP writes the 64-bit cycle count once every earlier command has completed (R71, R325, R326). -/
def execTimestamp (q addr : Nat) (s : State) : Answer :=
  .next (match s.due q (.timestamp q addr) with
    | none => s
    | some n =>
      let v := s.queues.get q
      match s.fwCheck v.ctx addr needWrite with
      | .ok pa => ((s.takeBlock q n).fwTouch v.ctx addr needWrite).ctxPut v.ctx addr pa (leBytes 8 s.clock)
      | e => s.cmdFail q e needWrite)

/-! ### UMXLOAD (R365 to R367, R456) -/

/-- Checks of a range of any alignment, in chunks that stay within a sector. -/
def State.fwSpan (s : State) (ctx va n : Nat) (need : Need) : FwEnd :=
  (chunks va n (List.replicate n 0)).foldl (fun e c =>
    match e with
    | .ok pa => match s.fwCheck ctx c.1 need with
      | .ok _ => .ok pa
      | e => e
    | e => e) (.ok 0)

/-- The bytes of such a range. -/
def State.fwRead (s : State) (ctx va n : Nat) : List Byte :=
  (chunks va n (List.replicate n 0)).flatMap fun c => (s.ctxRead ctx c.1 c.2.length).getD []

/-- Write such a range. -/
def State.fwWrite (s : State) (ctx va : Nat) (bs : List Byte) : State :=
  (chunks va bs.length bs).foldl (fun s c => s.ctxWrite ctx c.1 c.2) s

/-- The first check that fails. -/
def firstFail (l : List FwEnd) : FwEnd :=
  l.foldl (fun e f => match e with
    | .ok _ => f
    | e => e) (.ok 0)

/-- Does a part of a container lie in it? -/
def inside (off n size : Nat) : Bool := decide (off + n ≤ size)

/-- The container header's own rules (R366, Table 18.5c). -/
def containerGood (h : List Byte) : Bool :=
  let size := fieldAt h 56 8
  fieldAt h 0 4 == 0x31584D55 && fieldAt h 4 2 == 1 && decide (1 ≤ fieldAt h 8 4)
    && fieldAt h 16 8 % 64 == 0 && inside (fieldAt h 16 8) (64 * fieldAt h 8 4) size
    && inside (fieldAt h 24 8) (fieldAt h 32 8) size && inside (fieldAt h 40 8) (fieldAt h 48 8) size

/-- Offset and size of a level's body in a function entry (Table 18.5d). -/
def levelBody (f : List Byte) (t : Nat) : Nat × Nat := (fieldAt f (16 + 8 * t) 4, fieldAt f (20 + 8 * t) 4)

/-- Has a function a level (Table 18.5d)? -/
def hasLevel (f : List Byte) (t : Nat) : Bool := (fieldAt f 4 1).testBit t

/-- Do a function entry's offsets lie in its container (R366)? -/
def functionGood (h f : List Byte) : Bool :=
  let size := fieldAt h 56 8
  inside (fieldAt h 24 8 + fieldAt f 0 4) 1 size && decide (fieldAt f 0 4 < max 1 (fieldAt h 32 8))
    && inside (fieldAt f 48 8) (16 * fieldAt f 56 4) size
    && (List.range 4).all fun t => !hasLevel f t || inside (levelBody f t).1 (levelBody f t).2 size

/-- The entry of function `i`. -/
def State.functionEntry (s : State) (ctx container i : Nat) (h : List Byte) : List Byte :=
  s.fwRead ctx (container + fieldAt h 16 8 + 64 * i) 64

/-- Does a NUL end a string before a limit (R366)? -/
def State.stringGood (s : State) (ctx container off limit : Nat) : Bool :=
  (s.fwRead ctx (container + off) (limit - off)).any (· == 0)

/-- Does a function's name end in the string table (R366, Table 18.5d)? -/
def State.nameGood (s : State) (ctx container : Nat) (h f : List Byte) : Bool :=
  s.stringGood ctx container (fieldAt h 24 8 + fieldAt f 0 4) (fieldAt h 24 8 + fieldAt h 32 8)

/-- The header of a function's native level, when it has one that opens as R363 accepts. -/
def State.nativeHeader (s : State) (ctx container : Nat) (f : List Byte) : Option (List Byte) :=
  let h := s.fwRead ctx (container + (levelBody f 3).1) 64
  if hasLevel f 3 && decide (64 ≤ (levelBody f 3).2) && fieldAt h 0 4 == 0x41544E31 && fieldAt h 4 2 == 3
      && decide (fieldAt h 6 2 ≤ 2) then some h else none

/-- Do the parts of an accepted native level lie in the container, its kernel's name among them, and has it exactly one
kernel (R363, R364, R366)? A level of none or of several kernels makes its container bad, as a part outside it does
(DEDUCED, unsafe; log entry 85). -/
def State.nativeGood (s : State) (ctx container : Nat) (h f : List Byte) : Bool :=
  match s.nativeHeader ctx container f with
  | none => true
  | some n =>
    let size := fieldAt h 56 8
    let base := (levelBody f 3).1
    inside (base + fieldAt n 8 4) (fieldAt n 12 4) size && inside (base + fieldAt n 16 4) (fieldAt n 20 4) size
      && inside (base + fieldAt n 24 4) (144 * fieldAt n 28 4) size && inside (base + fieldAt n 32 4) (16 * fieldAt n 36 4) size
      && fieldAt n 28 4 == 1
      && s.stringGood ctx container (base + leValue (s.fwRead ctx (container + base + fieldAt n 24 4) 4)) size

/-- Does a body of an intermediate level open with its level and version 1 (R367)? -/
def State.bodyKnown (s : State) (ctx container : Nat) (f : List Byte) (t : Nat) : Bool :=
  let b := levelBody f t
  let h := s.fwRead ctx (container + b.1) 6
  !hasLevel f t || (decide (16 ≤ b.2) && fieldAt h 0 1 == t && fieldAt h 4 2 == 1)

/-- Bytes of a value of a type in the constant pool (Tables 10.7 and 18.5e). -/
def levelTypeBytes (type : Nat) : Nat :=
  if type = 0 ∨ type = 10 ∨ type = 11 then 4
  else if type = 1 ∨ type = 2 ∨ type = 8 ∨ type = 9 then 2
  else if type = 12 ∨ type = 13 ∨ type = 17 then 8
  else 1

/-- Record `i` of an intermediate body (R367, Table 18.5e). -/
def State.levelRecord (s : State) (ctx container : Nat) (f : List Byte) (t i : Nat) : List Byte :=
  s.fwRead ctx (container + (levelBody f t).1 + 16 + 16 * i) 16

/-- Do the records of an intermediate body lie in it, and the constants that they name in the container, aligned (R366,
R367)? -/
def State.recordsGood (s : State) (ctx container : Nat) (h f : List Byte) (t : Nat) : Bool :=
  let n := leValue (s.fwRead ctx (container + (levelBody f t).1 + 8) 4)
  !hasLevel f t || (decide (16 + 16 * n ≤ (levelBody f t).2) && (List.range n).all fun i =>
    let r := s.levelRecord ctx container f t i
    fieldAt r 0 2 != 1 || (inside (fieldAt h 40 8 + fieldAt r 8 4) (levelTypeBytes (fieldAt r 2 1)) (fieldAt h 56 8)
      && fieldAt r 8 4 % levelTypeBytes (fieldAt r 2 1) == 0))

/-- Does a function of a container keep the rules of R366 and R367? -/
def State.functionKnown (s : State) (ctx container : Nat) (h f : List Byte) : Bool :=
  functionGood h f && s.nameGood ctx container h f && s.nativeGood ctx container h f
    && (List.range 3).all fun t => s.bodyKnown ctx container f t && s.recordsGood ctx container h f t

/-- Packets that the code heap holds: ten to a line (R134). -/
def Ctx.packets (c : Ctx) : Nat := 128 * c.heapSize * 10

/-- The words of a packet go to its place in the code heap; words the packet lacks are NOPs (R134, R365). -/
def State.placePacket (s : State) (ctx p : Nat) (ws : List Word) : State :=
  s.fwWrite ctx (((s.ctx ctx).codebase + codeOffset (3 * p)) % 2 ^ 64)
    ((ws ++ List.replicate (3 - ws.length) 0).flatMap fun (w : Word) => leBytes 4 w.toNat)

/-- An entry stub: `brl body, 0` in slots 0 and 1, a NOP in slot 2 (R365). -/
def stubWords (p target : Nat) : List Word :=
  encode (.brl Guard.always (BitVec.ofInt 24 ((target : Int) - (3 * p : Nat))) 0) ++ [0]

/-- The result record of a UMXLOAD: completion word, counts and the list of untranslated functions (R365, R456). -/
def State.umxResult (s : State) (ctx result err done : Nat) (left : List Nat) : State :=
  let s := s.fwWrite ctx (result + 32) (left.flatMap (leBytes 4))
  s.fwWrite ctx result (leBytes 8 (completionWord err 0 0) ++ leBytes 4 done ++ leBytes 4 left.length
    ++ leBytes 8 (if left = [] then 0 else result + 32))

/-- UMXLOAD: the container is examined, and a stub is placed for every function before any body; a container that is bad
ends with ERR 9, and a heap without room for the stubs with ERR 8 (R365 to R367, R456). -/
def execUmxload (q container result : Nat) (s : State) : Answer :=
  .next (match s.due q (.umxload q container result) with
    | none => s
    | some n =>
      let v := s.queues.get q
      let ctx := v.ctx
      let h := s.fwRead ctx container 64
      let nf := fieldAt h 8 4
      let table := container + fieldAt h 16 8
      let fs := (List.range nf).map fun i => s.functionEntry ctx container i h
      if !v.engmask.getLsbD 4 then s.haltAt q 4
      else match firstFail [s.fwSpan ctx container 64 needRead, s.fwSpan ctx result 32 needWrite] with
        | .ok _ =>
          let s := s.ctxTouchRange ctx container 64 false
          if !containerGood h then (s.takeBlock q n).umxResult ctx result 9 0 []
          else match firstFail [s.fwSpan ctx table (64 * nf) needBoth, s.fwSpan ctx container (fieldAt h 56 8) needRead,
              s.fwSpan ctx (result + 32) (4 * nf) needWrite] with
            | .ok _ =>
              let s := (s.takeBlock q n).ctxTouchRange ctx container (fieldAt h 56 8) false
              if !fs.all (s.functionKnown ctx container h) then s.umxResult ctx result 9 0 []
              else if (s.ctx ctx).packets < (s.ctx ctx).heapNext + nf then s.umxResult ctx result 8 0 (List.range nf)
              else
                let first := (s.ctx ctx).heapNext
                let s := s.onCtx ctx fun c => { c with heapNext := first + nf }
                let s := (List.range nf).foldl (fun s i =>
                  (s.placePacket ctx (first + i) (stubWords (first + i) 0)).fwWrite ctx (table + 64 * i + 60)
                    (leBytes 4 (3 * (first + i)))) s
                { s with queues := s.queues.upd q fun v => { v with
                  umx := some (container, result, (List.range nf).map fun i => first + i) } }
            | e => s.cmdFail q e needBoth
        | e => s.cmdFail q e needBoth)

/-- The native level of a function, when it is accepted: its code image's lines and its kernel's index in them (R363,
R366). -/
def State.nativeImage (s : State) (ctx container : Nat) (f : List Byte) : Option (List Byte × Nat) :=
  (s.nativeHeader ctx container f).map fun h =>
    let base := container + (levelBody f 3).1
    let code := s.fwRead ctx (base + fieldAt h 8 4) (fieldAt h 12 4 / 128 * 128)
    let kernel := s.fwRead ctx (base + fieldAt h 24 4) 8
    (code, fieldAt kernel 4 4)

/-- Can a stub name an index: its BRL's offset has 24 bits? -/
def reaches (p target : Nat) : Bool :=
  let d : Int := (target : Int) - (3 * p : Nat)
  decide (-(2 : Int) ^ 23 ≤ d) && decide (d < (2 : Int) ^ 23)

/-- Place the body of a function, as it stands for an accepted native level, as the translator gives it otherwise; the
packet after it, and none where it does not fit (R363, R365, R456). A function with no level but a native one of a version or
magic that is not accepted is placed like a translated one, since no rule says what UMXLOAD does with it (DESIGN CHOICE, unsafe;
log entry 86). -/
def State.placeBody (s : State) (ctx container stub : Nat) (f : List Byte) (b : TranslatedBody) : Option State :=
  let next := (s.ctx ctx).heapNext
  match s.nativeImage ctx container f with
  | some (code, entry) =>
    let line := ceilDiv next 10
    let finish := line * 10 + code.length / 128 * 10
    let target := line * 30 + entry
    if (s.ctx ctx).packets < finish || !reaches stub target then none
    else
      let s := s.fwWrite ctx (((s.ctx ctx).codebase + 128 * line) % 2 ^ 64) code
      some ((s.placePacket ctx stub (stubWords stub target)).onCtx ctx fun c => { c with heapNext := finish })
  | none =>
    let n := ceilDiv b.words.length 3
    if !b.fits || (s.ctx ctx).packets < next + n || !reaches stub (3 * next) then none
    else
      let s := (List.range n).foldl (fun s i => s.placePacket ctx (next + i) ((b.words.drop (3 * i)).take 3)) s
      some ((s.placePacket ctx stub (stubWords stub (3 * next))).onCtx ctx fun c => { c with heapNext := next + n })

/-- Place bodies in table order until one does not fit: how many were placed (R456). -/
def State.placeBodies (s : State) (ctx container : Nat) (h : List Byte) : List (Nat × Nat) → List TranslatedBody → Nat × State
  | [], _ => (0, s)
  | (i, stub) :: rest, bs =>
    match s.placeBody ctx container stub (s.functionEntry ctx container i h) (bs.headD ⟨false, []⟩) with
    | none => (0, s)
    | some s => let r := s.placeBodies ctx container h rest (bs.drop 1); (r.1 + 1, r.2)

/-- UMXLOAD_FINISH: the translator has the bodies; they are placed in table order, the stubs name them, and the result
record is written (R365, R456). -/
def execUmxloadFinish (q : Nat) (bodies : List TranslatedBody) (s : State) : Answer :=
  let v := s.queues.get q
  .next (match v.umx with
    | none => s
    | some (container, result, stubs) =>
      let h := s.fwRead v.ctx container 64
      let r := s.placeBodies v.ctx container h (numbered stubs) bodies
      let left := (List.range stubs.length).drop r.1
      let s := r.2.umxResult v.ctx result (if left = [] then 0 else 8) r.1 left
      { s with queues := s.queues.upd q fun v => { v with umx := none } })

/-- The enabled event of the scheduler core (DESIGN CHOICE, unsafe; log entry 3). UMXLOAD_FINISH comes from outside,
with the translator's words (DESIGN CHOICE, safe; log entry 86). -/
def State.queueEvents (s : State) : List Instr :=
  match s.toServe with
  | none => []
  | some q =>
    if s.serves q then
      match s.block q with
      | .cmd i _ => [i]
      | _ => [.unknownCommandType q]
    else [.queueLoad q]

end Sys2Proof.Machine
end

