-- ==== Sys2Proof/Machine/Preempt.lean ====
section
/-!
DEFINITION. Machine/Preempt.lean: yield requests and deadlines, the saving of clusters and their images, resumes, and the
hang watchdog (R341 to R355, R453, R454, R462).
-/

namespace Sys2Proof.Machine

/-! ### Requests and deadlines (R341, R342, R346) -/

/-- The workgroups of a context that are resident. -/
def State.wgsOf (s : State) (ctx : Nat) : List WG := s.allWgs.filter fun g => g.ctx == ctx

/-- The waves of a workgroup that are resident. -/
def State.wavesOf (s : State) (wg : Nat) : List Wave := s.allWaves.filter fun w => w.wg == wg

/-- YIELD_REQUEST: `SR_YIELDREQ` reads 1, deadline counters start, and every SLEEP of the context ends (R191, R341,
R342). -/
def execYieldRequest (ctx : Nat) (s : State) : Answer :=
  let c := s.ctx ctx
  .next (s.when (c.installed && !c.killed && !c.yieldReq) fun s =>
    let mine := (s.wgsOf ctx).map WG.id
    let s := s.onCtx ctx fun c => { c with yieldReq := true }
    let start := fun (g : WG) =>
      if g.ctx = ctx then { g with deadline := some (deadlineOf (s.queueOf g.grid) (s.gridOf g.grid).launch) } else g
    let awaken := fun (p : Part) => match p.hold with
      | .sleep _ => { p with hold := .none }
      | _ => p
    (s.mapWgs start).mapWaves fun w => if mine.contains w.wg then { w with parts := w.parts.map awaken } else w)

/-- A request clears once every workgroup of its context that is resident has exited (R341). -/
def State.clearYields (s : State) : State :=
  (s.ctxs.filter fun c => c.2.yieldReq && (s.wgsOf c.1).all fun g => g.live == []).foldl (fun s c =>
    s.onCtx c.1 fun c => { c with yieldReq := false }) s

/-- The members of a cluster that have not wholly exited, rank 0 first (R343, R344). -/
def State.membersOf (s : State) (cluster : Nat) : List WG :=
  (List.range 16).flatMap fun r => s.allWgs.filter fun g =>
    g.cluster == cluster && g.rank == r && (s.wavesOf g.id).any fun w => w.live != 0

/-- Is the cluster of a workgroup to be forced: its deadline has passed, its save has not begun, and a member has not wholly
exited (R343, R346)? -/
def State.forces (s : State) (g : WG) : Bool :=
  g.id != 0 && g.deadline == some 0 && !(s.saving.any fun v => v.cluster == g.cluster) && s.membersOf g.cluster != []

/-- DEADLINE_EXPIRE, in the cycle after the counter reached 0 and before any part issues: the cluster is forced (R345, R346).
-/
def execDeadlineExpire (wg : Nat) (s : State) : Answer :=
  let g := s.wgOf wg
  .next (s.when (s.forces g) fun s => { s with saving := s.saving ++ [⟨g.cluster, true, 0⟩] })

/-! ### What a save needs (R343, R344, R347) -/

/-- Is a part stopped at a YIELD (R343)? -/
def Part.yields (p : Part) : Bool :=
  match p.hold with
  | .yielded _ => true
  | _ => false

/-- Is a workgroup quiescent: every quad that has not exited belongs to a part stopped at YIELD, and no wave is stopped
(R343, R415)? -/
def State.quiescent (s : State) (g : WG) : Bool :=
  (s.wavesOf g.id).all fun w => w.live == 0 || (w.stop.isNone && w.parts.all Part.yields)

/-- The live mask of a workgroup (R343, R346). -/
def State.liveMask (s : State) (g : WG) (forced : Bool) : Word :=
  if forced then 0xFFFFFFFF
  else (s.wavesOf g.id).foldl (fun m w => w.parts.foldl (fun m p => match p.hold with
    | .yielded x => m ||| x
    | _ => m) m) 0

/-- Clusters of a context that a request finds quiescent begin their saves (R344). -/
def State.beginSaves (s : State) : State :=
  let ready := (distinct ((s.allWgs.filter fun g => (s.ctx g.ctx).yieldReq).map WG.cluster)).filter fun c =>
    s.membersOf c != [] && (s.membersOf c).all s.quiescent && !s.saving.any fun v => v.cluster == c
  { s with saving := s.saving ++ ready.map fun c => ⟨c, false, 0⟩ }

/-- The engine command of a number, wherever it waits. -/
def State.anyCmd (s : State) (id : Nat) : Option (Nat × Bool × Cmd) :=
  s.sects.findSome? fun t =>
    match t.2.copyQ.find? fun c => c.id == id with
    | some c => some (t.1, false, c)
    | none => (t.2.splatQ.find? fun c => c.id == id).map fun c => (t.1, true, c)

/-- May an outstanding operation of a wave stand while its image is written (Table 17.1)? -/
def State.opSettled (s : State) (core : Nat) (w : Wave) (o : Op) : Bool :=
  o.done || (match o.kind with
    | .engine _ id => (match s.anyCmd id with
      | some (_, _, c) => c.job.pauses || (match c.job with
        | .coll .. => true
        | _ => false)
      | none => false)
    | .cube _ => ((s.core core).cube.filter fun x => x.wave == w.id && x.op == o.id).all fun x =>
        x.ends.isNone && x.job.fills.isSome
    | .none => w.parts.any fun p => (p.fws == .parked || p.starved) && (o.quads &&& ~~~p.members) == 0
    | _ => false)

/-- An operation of a parked instruction leaves its counter; the faults of its lanes that completed stay for the reissue (R418,
Table 17.1). -/
def Op.uncount (o : Op) : Option Op :=
  if o.done || o.kind != .none then some o
  else if o.faults = [] then none
  else some { o with cls := .uncounted, regs := [] }

/-- The instructions of parked parts leave their counters; they count again when they reissue (Table 17.1). -/
def State.uncountParked (s : State) (waves : List Nat) : State :=
  waves.foldl (fun s id => (s.mapWave id fun w => { w with ops := w.ops.filterMap Op.uncount }).retire id) s

/-- Has everything of a cluster that completes completed (R347)? (DEDUCED, unsafe; log entry 55.) -/
def State.settled (s : State) (cluster : Nat) : Bool :=
  (s.membersOf cluster).all fun g => (s.wavesOf g.id).all fun w =>
    (w.ops.all fun o => s.opSettled g.core w o) && (List.range w.quadCount).all fun q => (w.quads.get q).moves == 0

/-- Is assist work of a cluster's octets outstanding (R454)? -/
def State.assisting (s : State) (cluster : Nat) : Bool :=
  (s.membersOf cluster).any fun g => (s.core g.core).cube.any fun o => o.wg == g.id && o.assisted

/-! ### The image (R350, R352) -/

/-- The region of a cell of the accumulator store (R263). -/
def regionOfCell (k : Nat) : Nat := k / 256 / 32 * 4 + k % 256 / 64

/-- Bytes that the manual places and does not lay out (DESIGN CHOICE, safe; log entry 1). -/
def State.freeBytes (s : State) (off n : Nat) : List Byte := (List.range n).map fun i => Config.freeByte s.fresh (off + i)

/-- A quad record: the registers of lanes 0 to 3 in turn, k0 to k31, and 64 bytes (Table 17.3, R414; DESIGN CHOICE,
safe; log entry 21). -/
def quadRecord (w : Wave) (q : Nat) : List Byte :=
  let lane := fun i => w.rf.lanes.get (4 * q + i)
  let preds := (List.range 4).foldl (fun (m : Nat) i => m + (lane i).p.toNat * 2 ^ (7 * i)) 0
  let d := w.quads.get q
  let tail := Config.packQuad (BitVec.ofNat 28 preds) d.resumed d.clockHi
  ((List.range 4).flatMap fun i => (List.range 96).flatMap fun r => leBytes 4 ((lane i).v.get r).toNat)
    ++ ((List.range 32).flatMap fun r => leBytes 4 ((w.rf.quads.get q).k.get r).toNat)
    ++ (tail ++ List.replicate 64 0).take 64

/-- Install a quad record: registers, predicates and `SR_RESUMED`; the registers written lose their poison marks
(R414, R424; DESIGN CHOICE, safe; log entry 21). -/
def Wave.installQuad (w : Wave) (q : Nat) (b : List Byte) : Wave :=
  let word := fun off => BitVec.ofNat 32 (fieldAt b off 4)
  let tail := (b.drop 1664).take 64
  let preds := (Config.quadPreds tail).toNat
  let rf := (List.range 4).foldl (fun (rf : RegFile) i =>
    let lane : Lane := ⟨Cells.write [] 0 ((List.range 96).map fun r => word (384 * i + 4 * r)),
      BitVec.ofNat 7 (preds / 2 ^ (7 * i)), 0⟩
    { rf with lanes := rf.lanes.set (4 * q + i) lane }) w.rf
  let k : QuadRegs := ⟨Cells.write [] 0 ((List.range 32).map fun r => word (1536 + 4 * r)), 0, []⟩
  { w with
    rf := { rf with quads := rf.quads.set q k }
    quads := w.quads.upd q fun d => { d with resumed := Config.quadResumed tail } }

/-- The size of a workgroup image (Table 17.3). -/
def imageSize (l : LaunchRec) (regions slots cmds : Nat) : Nat :=
  64 + 1600 * l.waves + 1728 * (l.waves * (l.width / 4)) + 256 + 4096 * l.scratch + 8192 * regions + 1024
    + 10240 * slots + 256 * cmds

/-- A CLDB's slot and the header it would have at the end of its fill, recorded as a pending fill from its source (Table
17.1). -/
def pendingHeader (g : WG) (o : CubeOp) : Option (Nat × Slot) :=
  match o.job with
  | .load f src => some (f.slot.toNat,
      ⟨true, f.fmt.toNat, spnCount f.spn, 16 * (f.kext.toNat + 1), f.space, src, [], true, g.ctx⟩)
  | _ => none

/-- Scratch-sourced slots that an image holds whole (Table 17.2). -/
def storedSlots (slots : Cells Slot) : Nat := (slots.filter fun t => t.2.valid && t.2.fromScratch && !t.2.refill).length

/-- Set bits of a word. -/
def bitCount (m : Nat) : Nat := ((List.range 32).filter fun i => m.testBit i).length

/-- The parts of a member's image, as it is saved (R347 to R350). (DEDUCED, unsafe; log entry 55.) -/
def State.capture (s : State) (g : WG) (forced : Bool) : SavedWg :=
  let g := s.wgOf g.id
  let ws := s.wavesOf g.id
  let live := s.liveMask g forced
  let c := s.core g.core
  let keep := fun (t : Slot) => if t.valid && !t.fromScratch then { t with image := [], refill := true } else t
  let mine := fun (q : List Cmd) => q.filter fun d => d.wg == g.id && d.job.pauses
  let cmds := s.sects.flatMap fun t =>
    ((mine t.2.copyQ).map fun d => (false, { d with paused := true }))
      ++ (mine t.2.splatQ).map fun d => (true, { d with paused := true })
  let fills := ((c.pendingFills ++ c.cube).filter fun o => o.wg == g.id && o.job.fills.isSome).map fun o =>
    { o with seq := 0, parked := none }
  let slots := (fills.filterMap (pendingHeader g)).foldl (fun t e => Cells.set t e.1 e.2) (c.slots.mapV keep)
  let stored := storedSlots slots
  { wg := { g with deadline := none }, waves := ws, live := live
    acc := c.acc.filter fun e => live.getLsbD (regionOfCell e.1), slots := slots, cmds := cmds, fills := fills
    image := 0, size := imageSize g.launch (bitCount live.toNat) stored cmds.length, forced := forced }

/-- The header of a workgroup image (Table 17.2). -/
def State.imageHeader (s : State) (m : SavedWg) (incomplete : Bool) : List Byte :=
  let g := m.wg
  let parked := m.waves.any fun w => w.parts.any fun p => p.fws == .parked
  let stored := storedSlots m.slots
  leBytes 4 0x00C117A0 ++ leBytes 4 1
    ++ leBytes 1 ((if m.forced then 1 else 0) + (if incomplete then 2 else 0) + (if parked then 4 else 0))
    ++ leBytes 1 (g.launch.waves % 64) ++ leBytes 1 g.rank ++ leBytes 1 (g.launch.cw - 1 + 16 * (g.launch.ch - 1))
    ++ leBytes 8 (s.gridOf g.grid).addr ++ leBytes 4 g.index ++ leBytes 4 stored ++ leBytes 4 m.live.toNat
    ++ leBytes 4 (4096 * g.launch.scratch) ++ leBytes 4 m.cmds.length ++ leBytes 4 m.size ++ leBytes 8 s.clock
    ++ leBytes 4 (coreWord g.core) ++ leBytes 8 0

/-- The sections of an image after its header, with the bytes the manual does not lay out left free (Table 17.3; log
entry 21). -/
def State.imageBody (s : State) (m : SavedWg) : List Byte :=
  let l := m.wg.launch
  let nq := l.width / 4
  let wave := fun n => (m.waves.find? fun w => w.num == n).getD default
  let prios := fun (w : Wave) => (numbered w.parts).foldl (fun (x : Nat) p => x + p.2.prio.toNat * 2 ^ (3 * p.1)) 0
  let regions := (List.range 32).filter fun i => m.live.getLsbD i
  let stored := storedSlots m.slots
  ((List.range l.waves).flatMap fun n => partDump (wave n) ++ leBytes 6 (prios (wave n)) ++ s.freeBytes (1600 * n) 58)
    ++ ((List.range l.waves).flatMap fun n => (List.range nq).flatMap fun q => quadRecord (wave n) q)
    ++ s.freeBytes 51200 256
    ++ m.wg.scratch.read 0 (4096 * l.scratch)
    ++ (regions.flatMap fun i => (List.range 32).flatMap fun r => (List.range 64).flatMap fun c =>
        leBytes 4 (m.acc.get (256 * (32 * (i / 4) + r) + 64 * (i % 4) + c)).toNat)
    ++ s.freeBytes 52224 (1024 + 10240 * stored + 256 * m.cmds.length)

/-- Allocate the images of a cluster's members, all or none (R352). -/
def allocImages (c : Ctx) : List SavedWg → Option (Ctx × List SavedWg)
  | [] => some (c, [])
  | m :: ms =>
    match c.alloc m.size 0 with
    | none => none
    | some (a, c) => match allocImages c ms with
      | none => none
      | some (c, ms) => some (c, { m with image := a } :: ms)

/-! ### Saving a cluster (R346 to R352) -/

/-- Resident workgroups leave their cores with their paused commands and abandoned fills, which the image holds (R347,
R349, R351); the fills' references to pages go (R105). -/
def State.vacate (s : State) (ids : List Nat) : State :=
  let keep := fun (q : List Cmd) => q.filter fun d => !(ids.contains d.wg && d.job.pauses)
  { s with
    sects := s.sects.mapV fun t => { t with copyQ := keep t.copyQ, splatQ := keep t.splatQ }
    cores := s.cores.mapV fun c => { c with
      cube := c.cube.filter fun o => !ids.contains o.wg, pendingFills := c.pendingFills.filter fun o => !ids.contains o.wg }
    waves := s.waves.filter fun w => !ids.contains w.wg
    wgs := s.wgs.filter fun g => !ids.contains g.id
    wave := if ids.contains s.wave.wg then default else s.wave
    wg := if ids.contains s.wg.id then default else s.wg }.settlePins

/-- A member whose saved regions hold a poisoned cell, which the image would read (R350, Table 24.9). -/
def State.poisonedMember (s : State) (gs : List WG) (forced : Bool) : Option WG :=
  gs.find? fun g => (s.core g.core).accBad.any fun k => (s.liveMask g forced).getLsbD (regionOfCell k)

/-- CLUSTER_SAVE: once everything that completes has completed and the save pool holds the images, the stores on their way to
the members' windows are applied (Table 17.4), the images are written and the cluster's resources are freed; a poisoned cell
that the image reads kills the context (R344, R347, R350 to R352, R454). -/
def execClusterSave (cluster : Nat) (s : State) : Answer :=
  .next (match s.saving.find? fun v => v.cluster == cluster with
    | none => s
    | some v =>
      let gs := s.membersOf cluster
      match gs with
      | [] => { s with saving := s.saving.filter fun v => v.cluster != cluster }
      | g :: _ =>
        s.when (s.settled cluster) fun s =>
          let s := (gs.map WG.id).foldl State.flushWindow ((gs.map WG.core).foldl State.flushCore s)
          let s := s.uncountParked (gs.flatMap fun g => (s.wavesOf g.id).map Wave.id)
          match s.poisonedMember gs v.forced, allocImages (s.ctx g.ctx) (gs.map fun g => s.capture g v.forced) with
          | some h, _ => s.accKill h.core h.id
          | none, none => s
          | none, some (c, ms) =>
            let s := s.onCtx g.ctx fun _ => { c with quiet := 0 }
            let s := ms.foldl (fun s m => s.writePhys m.image (s.imageHeader m false ++ s.imageBody m)) s
            let s := s.vacate (gs.map WG.id)
            { s with
              fresh := s.fresh + 1
              saving := s.saving.filter fun v => v.cluster != cluster
              saved := s.saved ++ [⟨cluster, g.ctx, ms⟩] })

/-- SAVE_TIMEOUT: the settling has lasted 50 µs: the images of its members are marked INCOMPLETE, and the context is killed, its
grids with ERR 7 (R352, R454). -/
def execSaveTimeout (cluster : Nat) (s : State) : Answer :=
  .next (match s.saving.find? fun v => v.cluster == cluster with
    | none => s
    | some v =>
      match s.membersOf cluster with
      | [] => { s with saving := s.saving.filter fun v => v.cluster != cluster }
      | g :: _ =>
        s.when (decide (micros 50 ≤ v.clock)) fun s =>
          let s := match allocImages (s.ctx g.ctx) ((s.membersOf cluster).map fun g => s.capture g v.forced) with
            | some (_, ms) => ms.foldl (fun (s : State) (m : SavedWg) => s.writePhys m.image (s.imageHeader m true)) s
            | none => s
          s.killCtx g.ctx 7 ⟨3, 8, 0, 0, 0x82 * 2 ^ 56, 0, 0, 0⟩)

/-! ### Resume (R353, R354, R462) -/

/-- The core of a member in a rectangle from an origin (R27). -/
def memberCore (l : LaunchRec) (origin rank : Nat) : Nat := origin + rank % l.cw + 16 * (rank / l.cw)

/-- The partition a restored wave takes: its number's (R21), or for a descendant the lowest that fits (R338). -/
def State.newPartition (s : State) (core : Nat) (g : WG) (w : Wave) : Nat :=
  if g.descendant then ((List.range 4).find? fun p => decide (w.quadCount ≤ s.freeQuads core p)).getD 0 else w.num % 4

/-- Can a core take a saved member (R22, R331)? -/
def State.memberFits (s : State) (core : Nat) (m : SavedWg) : Bool :=
  let g := m.wg
  if g.descendant then
    s.coreTakes core g.ctx && (List.range 4).any fun p => decide (g.launch.width / 4 ≤ s.freeQuads core p)
  else s.coreFits core g.ctx g.launch

/-- May a saved cluster be placed at an origin (R28, R353)? -/
def State.resumeFits (s : State) (v : Saved) (origin : Nat) : Bool :=
  let l := ((v.members.head?.map SavedWg.wg).getD default).launch
  decide (origin < 2048) && decide (origin % 16 + l.cw ≤ 16) && decide (origin % 256 / 16 + l.ch ≤ 16)
    && !(s.ctx v.ctx).yieldReq && v.members.all fun m => s.memberFits (memberCore l origin m.wg.rank) m

/-- A restored part: after its YIELD, woken by a replay, or at its program counter in its wait state (R348, R354). -/
def Part.restored (p : Part) : Part :=
  let p := { p with starved := false }
  match p.hold with
  | .yielded _ => { p with pc := p.after.getD p.pc, after := none, hold := .none, delay := 2 }
  | _ =>
    if p.replayed && p.fws == .parked then { p with fws := .run, waitId := 0, token := 0, replayed := false, delay := 2 }
    else { p with delay := 2 }

/-- Parts take a fresh age and free entries of their new partition, in order (R44, R46, R354). -/
def placeParts (age : Nat) (free : List Nat) : List Part → List Part
  | [] => []
  | p :: ps => { p with age := age, entry := free.headD 0 } :: placeParts age (free.drop 1) ps

/-- Restore one wave of a member (R72, R354). -/
def State.restoreWave (s : State) (g : WG) (w : Wave) : State :=
  let part := s.newPartition g.core g w
  let used := (s.allWaves.filter fun v => v.partition == part && (s.wgOf v.wg).core == g.core).flatMap fun v =>
    v.parts.map Part.entry
  let parts := placeParts ((s.core g.core).ages.get part) (freeEntries used w.parts.length) (w.parts.map Part.restored)
  let kinds := fun (o : Op) => match o.kind with
    | .engine sect id => if (s.sect sect).copyQ.any fun c => c.id == id then o else { o with kind := .engine (sectOf g.core) id }
    | _ => o
  let quads := (List.range w.quadCount).foldl (fun (t : Cells Quad) q => t.upd q fun d => { d with resumed := true }) w.quads
  let s := s.onCore g.core fun c => { c with ages := c.ages.upd part (· + 1) }
  { s with waves := { w with partition := part, parts := parts, ops := w.ops.map kinds, quads := quads } :: s.waves }

/-- The cells of a saved accumulator store go back to their regions (R354). -/
def Core.restoreAcc (c : Core) (live : Word) (acc : Cells Word) : Core :=
  let inLive := fun (k : Nat) => live.getLsbD (regionOfCell k)
  { c with
    acc := acc.foldl (fun t e => Cells.set t e.1 e.2) (c.acc.filter fun e => !inLive e.1)
    accBad := c.accBad.filter fun k => !inLive k }

/-- A pending fill of an image, on a core where the slots `open'` were invalid: one from the window is made now, one from global
memory waits for the refill of its slot. One whose header is not installed has nothing to fill and retires; so does one that a
later fill of the slot follows, and the slot stays that one's (R261, R354; DEDUCED, unsafe; log entry 55). -/
def State.restoreFill (s : State) (core : Nat) (o : CubeOp) (open' : List Nat) (last : Bool) : State :=
  match o.job with
  | .load f src =>
    if !open'.contains f.slot.toNat then s.cubeDone o.wave o.op
    else if f.space || fillBad f src then
      let t := s.fillSlot core o f src
      if last then t else t.setSlot core f.slot.toNat ((s.core core).slots.get f.slot.toNat)
    else if last then s.onCore core fun c => { c with pendingFills := c.pendingFills ++ [o] }
    else s.cubeDone o.wave o.op
  | _ => s

/-- The pending fills of an image, in the order of R261. -/
def State.restoreFills (s : State) (core : Nat) (open' : List Nat) : List CubeOp → State
  | [] => s
  | o :: os => State.restoreFills (s.restoreFill core o open' (os.all fun x => x.job.fills != o.job.fills)) core open' os

/-- Restore a member on a core (R354). -/
def State.restoreMember (s : State) (core : Nat) (m : SavedWg) : State :=
  let g := { m.wg with core := core }
  let s := (s.passCore core g.ctx).invalidateL1 core
  let s := { s with wgs := g :: s.wgs }
  let s := s.trimL1 core
  let s := m.waves.foldl (fun s w => s.restoreWave g w) s
  let open' := (List.range 64).filter fun n => !((s.core core).slots.get n).valid
  let slots := fun (c : Core) => m.slots.foldl (fun t e => if open'.contains e.1 then Cells.set t e.1 e.2 else t) c.slots
  let s := s.onCells core fun c => { c.restoreAcc m.live m.acc with slots := slots c }
  let s := m.cmds.foldl (fun s d =>
    let c := { d.2 with paused := false, core := core }
    s.onSect (sectOf core) fun t => if d.1 then { t with splatQ := t.splatQ ++ [c] } else putCopy t c) s
  let s := s.restoreFills core open' m.fills
  s.onCtx g.ctx fun c => c.free m.image

/-- CLUSTER_RESUME: a saved cluster is placed at an origin of the device's choice and restored (R353, R354). -/
def execClusterResume (cluster core : Nat) (s : State) : Answer :=
  .next (match s.saved.find? fun v => v.cluster == cluster with
    | none => s
    | some v => s.when (s.resumeFits v core) fun s =>
      let l := ((v.members.head?.map SavedWg.wg).getD default).launch
      let s := { s with saved := s.saved.filter fun v => v.cluster != cluster }
      v.members.foldl (fun s m => s.restoreMember (memberCore l core m.wg.rank) m) s)

/-! ### The hang watchdog (R453 to R455) -/

/-- Has a context's watchdog expired: 100 ms of resident work without progress, and no COMMIT in progress? One that expires
while a cluster of the context settles waits for the end of the save, which drops it or kills the context (R453 to R455;
DEDUCED, unsafe; log entry 51). -/
def State.hangs (s : State) (ctx : Nat) : Bool :=
  let c := s.ctx ctx
  c.installed && !c.killed && s.wgsOf ctx != [] && decide (micros 100000 ≤ c.quiet) && s.fw.committing.isNone
    && !s.saving.any fun v => (s.membersOf v.cluster).any fun g => g.ctx == ctx

/-- HANG_WATCHDOG: the context is killed (R453). -/
def execHangWatchdog (ctx : Nat) (s : State) : Answer :=
  .next (s.when (s.hangs ctx) fun s => s.killCtx ctx 3 ⟨3, 8, 0, 0, 0x81 * 2 ^ 56, 0, 0, 0⟩)

/-- The workgroups whose deadline counters have expired in the cycle before, which are forced now (R346). -/
def State.deadlines (s : State) : List Instr :=
  (s.allWgs.filter s.forces).map fun g => Instr.deadlineExpire g.id

/-- The saves that fall due in a cycle: of clusters that have settled, and then those whose bound passes, which fail unless
they have just been made (R347, R352, R454, Table 27.5). -/
def State.savesDue (s : State) : List Instr :=
  (s.saving.filter fun v => s.settled v.cluster).map (fun v => Instr.clusterSave v.cluster)
    ++ (s.saving.filter fun v => decide (micros 50 ≤ v.clock)).map fun v => Instr.saveTimeout v.cluster

/-- The watchdogs that expire in a cycle, before an instruction of that cycle can start them afresh (R453, Table 27.5). -/
def State.hangsDue (s : State) : List Instr := (s.ctxs.keys.filter s.hangs).map Instr.hangWatchdog

/-- The enabled events of pre-emption: resumes, at the first place that fits (DESIGN CHOICE, unsafe; log entry 3). -/
def State.preemptEvents (s : State) : List Instr :=
  s.saved.flatMap fun v => (((List.range 2048).find? fun o => s.resumeFits v o).map fun o =>
    Instr.clusterResume v.cluster o).toList

end Sys2Proof.Machine
end

