-- ==== Sys2Proof/Machine/Mailbox.lean ====
section
/-!
DEFINITION. Machine/Mailbox.lean: the mailbox registers, the messages and their completions, replays, evictions,
attestation, hand-over and configuration (R106, R112, R131, R132, R323, R324, R356 to R360, R369 to R371, R389, R393,
R427 to R429, R432, R455).
-/

namespace Sys2Proof.Machine

/-! ### Completions (R357 to R359) -/

/-- The mailbox of a function. -/
def State.box (s : State) (fn : Nat) : Mailbox := s.mailbox.get fn

/-- Change the mailbox of a function. -/
def State.onBox (s : State) (fn : Nat) (f : Mailbox → Mailbox) : State := { s with mailbox := s.mailbox.upd fn f }

/-- The vector of a function's completions: MBCTL's, or its block's first (R357). -/
def Mailbox.vector (b : Mailbox) : Nat :=
  let v := natBits 1 11 b.mbctl
  if b.vecFirst ≤ v ∧ v < b.vecFirst + b.vecCount then v else b.vecFirst

/-- A write to host memory by DMA, held while the PCI Express link is down, and discarded once it has been down for 1
s (R356, R458). (DESIGN CHOICE, unsafe; log entry 25.) (DEDUCED, unsafe; log entry 49.) -/
def State.hostWrite (s : State) (bus : Nat) (bs : List Byte) : State :=
  if s.fw.linkUp then { s with host := s.host.write bus bs }
  else if s.fw.downLong then { s with fw := { s.fw with lostHost := s.fw.lostHost + 1 } }
  else { s with fw := { s.fw with heldHost := s.fw.heldHost ++ [(bus, bs)] } }

/-- Has boot ended? Before it has, and where it has stopped, the module presents configuration space alone (R368,
R457). -/
def State.booted (s : State) : Bool := decide (11 ≤ s.fw.step)

/-- Write one completion entry and advance CQTAIL; the vector is raised when it is armed (R357, R359). -/
def State.writeCompletion (s : State) (fn : Nat) (e : List Byte) : State :=
  let b := s.box fn
  let s := s.hostWrite (b.cqbase + 16 * (b.cqtail % 2 ^ b.cqsize)) e
  let s := s.onBox fn fun b => { b with cqtail := (b.cqtail + 1) % 2 ^ 32 }
  if b.unarmed || b.vecCount == 0 then s else (s.raise b.vector).onBox fn fun b => { b with unarmed := true }

/-- Write the entries owed, in order, up to one whose REMOVE still drains, while the completion ring has room (R359). -/
def State.payOwed (s : State) (fn : Nat) : Nat → State
  | 0 => s
  | n + 1 =>
    let b := s.box fn
    match b.owed with
    | (0, e) :: rest =>
      if (b.cqtail + 2 ^ 32 - b.cqhead) % 2 ^ 32 < 2 ^ b.cqsize then
        State.payOwed ((s.onBox fn fun b => { b with owed := rest }).writeCompletion fn e) fn n
      else s
    | _ => s

/-- A completion entry: TAG of a version 2 message, TYPE, STATUS, VALUE (R358, R359). -/
def completion (tag type status value : Nat) : List Byte :=
  leBytes 2 tag ++ leBytes 1 type ++ leBytes 1 status ++ leBytes 4 0 ++ leBytes 8 value

/-- TAG as a completion echoes it (R358). -/
def echoTag (h : MsgHead) : Nat := if h.version = 2 then h.tag else 0

/-- Owe a completion entry to a function; `q` names a queue plus 1 whose REMOVE it waits for, or 0 (R359). -/
def State.owe (s : State) (fn q : Nat) (e : List Byte) : State :=
  let s := s.onBox fn fun b => { b with owed := b.owed ++ [(q, e)] }
  s.payOwed fn (s.box fn).owed.length

/-- Answer a message (R359). -/
def State.answerMsg (s : State) (h : MsgHead) (type status value : Nat) : State :=
  s.owe h.fn 0 (completion (echoTag h) type status value)

/-! ### Registers (Table 18.1) -/

/-- CQHEAD_WRITE re-arms the vector (R357). -/
def execCqheadWrite (fn head : Nat) (s : State) : Answer :=
  .next (s.when (decide (fn ≤ 32) && s.booted) fun s =>
    let s := s.onBox fn fun b => { b with cqhead := head % 2 ^ 32, unarmed := false }
    s.payOwed fn (s.box fn).owed.length)

/-- Messages that a write of SQTAIL makes the engine fetch (R357). -/
def Mailbox.toFetch (b : Mailbox) (tail : Nat) : Nat :=
  if b.mbctl % 2 = 0 then 0 else (tail % 2 ^ b.sqsize + 2 ^ b.sqsize - b.sqhead % 2 ^ b.sqsize) % 2 ^ b.sqsize

/-- SQTAIL_WRITE: the engine fetches the messages by DMA; `fetched` is what host memory held (R357). (DESIGN CHOICE,
unsafe; log entry 25.) -/
def execSqtailWrite (fn tail : Nat) (fetched : List Byte) (s : State) : Answer :=
  let n := (s.box fn).toFetch tail
  .next (s.when (decide (fn ≤ 32) && s.booted && fetched.length == 64 * n) fun s =>
    let msgs := (List.range n).map fun i => (fetched.drop (64 * i)).take 64
    s.onBox fn fun b => { b with
      sqtail := tail % 2 ^ 32, pending := b.pending ++ msgs
      sqhead := if b.mbctl % 2 = 0 then b.sqhead else tail % 2 ^ b.sqsize })

/-- MAILBOX_REG_WRITE: a write to a register that the host writes; the others keep what the device wrote (Table 18.1).
-/
def execMailboxRegWrite (fn offset value : Nat) (s : State) : Answer :=
  .next (s.when (decide (fn ≤ 32) && s.booted) fun s => s.onBox fn fun b =>
    match offset with
    | 0x00 => { b with sqbase := value % 2 ^ 64 }
    | 0x08 => { b with sqsize := value % 2 ^ 32 }
    | 0x18 => { b with cqbase := value % 2 ^ 64 }
    | 0x20 => { b with cqsize := value % 2 ^ 32 }
    | 0x2C => { b with mbctl := value % 2 ^ 12 }
    | _ => b)

/-! ### Messages (R358) -/

/-- The header of a message (Table 18.2). -/
def headOf (fn : Nat) (b : List Byte) : MsgHead :=
  ⟨fn, fieldAt b 1 1, fieldAt b 6 2, fieldAt b 4 2, fieldAt b 3 1, fieldAt b 2 1, fieldAt b 8 8⟩

/-- The message of 64 bytes, as a row of the table; one of a TYPE or OPT that is reserved is RESERVED_MESSAGE_TYPE
(Table 18.3). The image of a STAGE comes from host memory. -/
def messageOf (fn : Nat) (b : List Byte) : Instr :=
  let h := headOf fn b
  let type := fieldAt b 0 1
  let part := fun off n => (b.drop off).take n
  match type, h.opt with
  | 1, 0 => .write h (part 16 h.len)
  | 2, 0 => .queuePut h (fieldAt b 16 2)
  | 2, 1 => .install h (fieldAt b 16 2) (fieldAt b 24 8) (fieldAt b 32 8) (fieldAt b 40 4) (fieldAt b 44 4)
      ((fieldAt b 48 1).testBit 0) (BitVec.ofNat 32 (fieldAt b 52 4))
  | 2, 2 => .remove h (fieldAt b 16 2)
  | 3, 0 => .replayByPage h (fieldAt b 18 1)
  | 3, 1 => .replayByToken h (fieldAt b 16 2) (fieldAt b 18 1)
  | 4, 0 => .fenceOrder h
  | 4, 1 => .inval h (fieldAt b 16 8)
  | 4, 2 => .evict h
  | 5, 0 => .read h (fieldAt b 16 8) (fieldAt b 24 2)
  | 6, 0 => .report h (part 16 32) (fieldAt b 48 8)
  | 6, 1 => .extend h (fieldAt b 16 1) (part 17 47)
  | 7, 0 => .stage h (fieldAt b 16 8) (fieldAt b 24 4) []
  | 7, 1 => .commit h
  | 8, 0 => .vfasid h (fieldAt b 16 1) (fieldAt b 18 2) (fieldAt b 20 2)
  | 8, 1 => .vfmsix h (fieldAt b 16 1) (fieldAt b 18 2) (fieldAt b 20 2)
  | 8, 2 => .power h (fieldAt b 16 4)
  | t, _ => .reservedMessageType h t

/-- Bytes of 16 to 63 that a message names: first byte and count (Table 18.3, R360). -/
def namedBytes : Instr → List (Nat × Nat)
  | .write h _ => [(16, h.len)]
  | .queuePut .. => [(16, 2)]
  | .install .. => [(16, 2), (24, 25), (52, 4)]
  | .remove .. => [(16, 2)]
  | .replayByToken .. => [(16, 3)]
  | .replayByPage .. => [(16, 3)]
  | .inval .. => [(16, 8)]
  | .read .. => [(16, 10)]
  | .report .. => [(16, 40)]
  | .extend .. => [(16, 48)]
  | .stage .. => [(16, 12)]
  | .vfasid .. => [(16, 1), (18, 4)]
  | .vfmsix .. => [(16, 1), (18, 4)]
  | .power .. => [(16, 4)]
  | _ => []

/-- Version, TAG and reserved fields as R358 and R360 ask. (DEDUCED, unsafe; log entry 48.) -/
def messageGood (b : List Byte) (i : Instr) : Bool :=
  let h := headOf 0 b
  let type := fieldAt b 0 1
  (h.version == 2 || (h.version == 1 && h.tag == 0)) && (type == 1 || h.len == 0)
    && (decide (type < 6) || h.addr == 0) && (type != 8 || h.asid == 0)
    && ((List.range 48).all fun k => b.getD (16 + k) 0 == 0 ||
      (namedBytes i).any fun r => decide (r.1 ≤ 16 + k) && decide (16 + k < r.1 + r.2))
    && (match i with
      | .install .. => decide (fieldAt b 48 1 < 2)
      | .reservedMessageType .. => false
      | _ => true)

/-- May only the physical function send a message (R358)? -/
def privileged : Instr → Bool
  | .install .. | .remove .. | .extend .. | .stage .. | .commit .. | .vfasid .. | .vfmsix .. | .power .. => true
  | _ => false

/-- May a function name an ASID (R358, R360)? -/
def State.owns (s : State) (fn asid : Nat) : Bool :=
  let has := fun (b : Mailbox) => decide (b.asidBase ≤ asid) && decide (asid < b.asidBase + b.asidCount)
  if fn = 0 then !(s.mailbox.any fun b => b.1 != 0 && has b.2) else has (s.box fn)

/-- Does a message name the ASID of its header? -/
def namesAsid : Instr → Bool
  | .write .. | .read .. | .replayByToken .. | .replayByPage .. | .inval .. | .evict .. => true
  | _ => false

/-- The first messages of the functions, round-robin from the one whose turn it is (R359). -/
def State.heads (s : State) : List (Nat × List Byte) :=
  ((List.range 33).map fun i => (s.fw.turn + i) % 33).filterMap fun fn => ((s.box fn).pending.head?).map fun b => (fn, b)

/-- Is a message a REPORT, or a COMMIT? -/
def isReport (b : List Byte) : Bool := fieldAt b 0 1 == 6 && fieldAt b 3 1 == 0
def isCommit (b : List Byte) : Bool := fieldAt b 0 1 == 7 && fieldAt b 3 1 == 1

/-- The message that the engine applies next: round-robin among the functions, none during a COMMIT, and a REPORT before a
COMMIT that it meets (R359, R371, R373). -/
def State.nextMessage (s : State) : Option (Nat × List Byte) :=
  if s.fw.committing.isSome then none
  else match s.heads with
    | [] => none
    | x :: xs => if isCommit x.2 then some ((xs.find? fun y => isReport y.2).getD x) else some x

/-- Is a message the one fetched? The image of a STAGE is what the DMA brings, of the size named. -/
def sameMessage (i j : Instr) : Bool :=
  match i, j with
  | .stage h bus size image, .stage h' bus' size' _ =>
    decide (h = h') && bus == bus' && size == size' && image.length == size
  | _, _ => decide (i = j)

/-- Apply a message that is next: BADMSG, DENIED, or its act, which answers STATUS and VALUE, or later (R358, R359,
Table 24.8). (DEDUCED, unsafe; log entry 48.) -/
def State.message (s : State) (i : Instr) (h : MsgHead) (type : Nat) (act : State → Option (Nat × Nat) × State) : State :=
  match s.nextMessage with
  | none => s
  | some (fn, b) =>
    if !sameMessage i (messageOf fn b) then s
    else
      let s := { s.onBox fn fun m => { m with pending := m.pending.drop 1 } with fw := { s.fw with turn := (fn + 1) % 33 } }
      if !messageGood b i then s.answerMsg h type 2 0
      else if privileged i && fn != 0 then s.answerMsg h type 3 0
      else if namesAsid i && !s.owns fn h.asid then s.answerMsg h type 3 0
      else
        match act s with
        | (some (status, value), s) => s.answerMsg h type status value
        | (none, s) => s

/-- RESERVED_MESSAGE_TYPE: taken, and completes BADMSG (R358). -/
def execReservedMessageType (h : MsgHead) (type : Nat) (s : State) : Answer :=
  .next (s.message (.reservedMessageType h type) h type fun s => (some (2, 0), s))

/-! ### WRITE and READ (R131, R132, R389, R394, R423, R424) -/

/-- A range cut at page bounds. -/
def pageRuns (va : Nat) : Nat → Nat → List (Nat × Nat)
  | 0, _ => []
  | k + 1, n =>
    let m := min n (2 ^ 14 - va % 2 ^ 14)
    if n = 0 then [] else (va, m) :: pageRuns (va + m) k (n - m)

/-- Do the runs of a range pass the checks of a message (Table 24.8, ACCESS)? -/
def State.runsGood (s : State) (ctx : Nat) (rs : List (Nat × Nat)) (n : Need) : Bool :=
  rs.all fun r => match s.fwCheck ctx r.1 n with
    | .ok _ => true
    | _ => false

/-- The walk of a range of a message that reads poison: where (R424). -/
def State.runsPoison (s : State) (ctx : Nat) (rs : List (Nat × Nat)) (n : Need) : Option Nat :=
  rs.findSome? fun r => match s.fwCheck ctx r.1 n with
    | .poison a => some a
    | _ => none

/-- A range that does not pass: ACCESS, and the death of a context whose walk reads poison (R424, Table 24.8). -/
def State.refuseRuns (s : State) (ctx : Nat) (rs : List (Nat × Nat)) (n : Need) : Option (Nat × Nat) × State :=
  (some (6, 0), match s.runsPoison ctx rs n with
    | some a => s.walkPoison ctx a 0
    | none => s)

/-- Records that the driver has consumed free their dumps, the vector is re-armed, and held records are written while
there is room (R352, R389, R397). -/
def State.rdidxWritten (s : State) (ctx : Nat) : State :=
  match s.ctxPa ctx (s.ctx ctx).faultq with
  | none => s
  | some cb =>
    let rd := s.readNat (cb + 4) 4
    let past := fun (u : Nat × Nat × Nat) =>
      u.2.2 != 0 && decide ((rd + 2 ^ 32 - (u.2.2 - 1)) % 2 ^ 32 - 1 < 2 ^ 31) && decide ((u.2.2 - 1) % 2 ^ 32 ≠ rd)
    let s := s.onCtx ctx fun c => { c with armed := true, poolUse := c.poolUse.filter fun u => !past u }
    (s.ctxTouch ctx (s.ctx ctx).faultq false).drainHeld ctx (s.ctx ctx).held.length

/-- FAULTQ_RDIDX_WRITE: the driver advances RDIDX (R389, R397). -/
def execFaultqRdidxWrite (ctx value : Nat) (s : State) : Answer :=
  let c := s.ctx ctx
  .next (s.when c.installed fun s => (s.ctxWrite ctx (c.faultq + 4) (leBytes 4 value)).rdidxWritten ctx)

/-- MACHINE_CHECK_LOG_RDIDX_WRITE: the physical function advances the log's RDIDX (R394, R397). -/
def execMachineCheckLogRdidxWrite (value : Nat) (s : State) : Answer :=
  let s := { s with mclog := { s.mclog with rdidx := value % 2 ^ 32 } }
  .next (s.drainLog s.mclog.waiting.length)

/-- Does a physical range overlap another? -/
def meets (a n b m : Nat) : Bool := decide (a < b + m) && decide (b < a + n)

/-- A write of the debug command block's byte 0: the command is in progress; a reserved OP is refused (R413, R414). -/
def State.debugWritten (s : State) : State :=
  let op := (s.debugBlk.get 0).toNat
  { s with debugBlk := s.debugBlk.set 1 (if 1 ≤ op ∧ op ≤ 5 then 1 else 2) }

/-- What a WRITE of a physical range sets off: fault queues reread RDIDX, and in this module's register space the log's RDIDX
writes held records, and the debug command block takes a command (R362, R389, R394, R413). -/
def State.afterWrite (s : State) (pa n : Nat) : State :=
  let off := regOffset pa
  if isRegSpace pa then
    s.when (s.local pa) fun s =>
    let s := if meets off n 0x10004 4 then s.drainLog s.mclog.waiting.length else s
    if off ≤ 0x20000 ∧ 0x20000 < off + n then s.debugWritten else s
  else
    (s.ctxs.keys.filter fun c => match s.ctxPa c (s.ctx c).faultq with
      | some cb => (s.ctx c).installed && meets pa n (cb + 4) 4
      | none => false).foldl State.rdidxWritten s

/-- WRITE: the bytes are performed at their home slices, or nothing is (R131, R358). -/
def execWrite (h : MsgHead) (data : List Byte) (s : State) : Answer :=
  .next (s.message (.write h data) h 1 fun s =>
    let rs := pageRuns h.addr 2 data.length
    if data.length = 0 ∨ 48 < h.len then (some (2, 0), s)
    else match s.ctxOfAsid h.asid with
      | none => (some (6, 0), s)
      | some c =>
        if !s.runsGood c rs needWrite then s.refuseRuns c rs needWrite
        else
          let go := fun (s : State) (r : Nat × Nat) =>
            match s.ctxPa c r.1 with
            | none => s
            | some pa => ((s.fwTouch c r.1 needWrite).ctxPut c r.1 pa ((data.drop (r.1 - h.addr)).take r.2)).afterWrite pa r.2
          (some (0, 0), rs.foldl go s))

/-- Bytes at a physical range as a READ delivers them: a poisoned sector as zeros, logged with event code 3 (R424). -/
def State.deliver (s : State) (pa : Nat) : Nat → Nat → List Byte × State
  | 0, _ => ([], s)
  | k + 1, n =>
    let m := min n (32 - pa % 32)
    if n = 0 then ([], s)
    else
      let bad := s.poisoned pa m
      let bytes := if bad then List.replicate m 0 else s.readPhys pa m
      let r := State.deliver (if bad then s.consumedByHost pa else s) (pa + m) k (n - m)
      (bytes ++ r.1, r.2)

/-- READ: the data go to host memory by DMA before the completion (R132, R358). -/
def execRead (h : MsgHead) (bus count : Nat) (s : State) : Answer :=
  .next (s.message (.read h bus count) h 5 fun s =>
    let rs := pageRuns h.addr 2 count
    if count = 0 ∨ 4096 < count then (some (2, 0), s)
    else match s.ctxOfAsid h.asid with
      | none => (some (6, 0), s)
      | some c =>
        if !s.runsGood c rs needRead then s.refuseRuns c rs needRead
        else
          let r := rs.foldl (fun (acc : List Byte × State) r =>
            let s := acc.2.ctxUse c r.1 r.2 false
            match s.ctxPa c r.1 with
            | none => (acc.1, s)
            | some pa => let d := s.deliver pa 130 r.2; (acc.1 ++ d.1, d.2)) ([], s)
          (some (0, count), r.2.hostWrite bus r.1))

/-! ### QUEUE-PUT (R323, R324, R358, R393) -/

/-- A put of a halted queue: nothing until QSTATUS has been cleared, and code 6 cannot be (R393). -/
def State.mayLoad (s : State) (q : Nat) : Bool :=
  let v := s.queues.get q
  v.halt == 0 || (v.halt != 6 && (s.ctxRead v.ctx (v.user + 24) 8).getD [] == List.replicate 8 0)

/-- The read of the QSTATUS of a halted queue (R105, R393). -/
def State.readStatus (s : State) (q : Nat) : State :=
  let v := s.queues.get q
  if v.halt = 0 ∨ v.halt = 6 then s else s.ctxTouch v.ctx (v.user + 24) false

/-- QUEUE_PUT: PUT loads a queue (R323, R393). -/
def execQueuePut (h : MsgHead) (queue : Nat) (s : State) : Answer :=
  .next (s.message (.queuePut h queue) h 2 fun s =>
    let v := s.queues.get queue
    if !v.installed then (some (2, 0), s)
    else if h.fn ≠ 0 ∧ s.owns h.fn (s.ctx v.ctx).asid = false then (some (3, 0), s)
    else if v.draining.isSome || !s.mayLoad queue then (some (0, 0), s.readStatus queue)
    else
      let s := (s.readStatus queue).loadQueue queue
      (some (0, 0), if s.fw.serving = none then { s with fw := { s.fw with serving := some (queue, false) } } else s))

/-- The frames of a shadow pool (Table 16.2). -/
def State.poolFrames (s : State) (pa n : Nat) : List Nat := (List.range n).map fun i => s.readNat (pa + 8 * i) 8

/-- The context that an INSTALL fixes (R324). -/
def State.newCtx (s : State) (h : List Byte) (pool poolSize heapSize : Nat) (debug : Bool) (capbase : Word) : Ctx :=
  { (default : Ctx) with
    id := fieldAt h 54 2, installed := true, ptroot := fieldAt h 0 8, asid := fieldAt h 52 2
    faultq := fieldAt h 16 8 / 4096 * 4096, faultLog := fieldAt h 16 8 % 32, codebase := fieldAt h 8 8
    shpool := fieldAt h 24 8, shpooln := fieldAt h 32 4, msix := fieldAt h 61 2, pool := pool, poolSize := poolSize
    heapSize := heapSize, debug := debug, capbase := capbase
    frames := s.poolFrames (fieldAt h 24 8) (fieldAt h 32 4), heapNext := 10, armed := true }

/-- Does an INSTALL give the values that its context has (R324)? -/
def Ctx.same (c : Ctx) (h : List Byte) (pool poolSize heapSize : Nat) (debug : Bool) (capbase : Word) : Bool :=
  c.agrees h && c.pool == pool && c.poolSize == poolSize && c.heapSize == heapSize
    && c.debug == debug && c.capbase == capbase

/-- INSTALL: the halves of a free queue number with its vector, and the context's state with the first queue; onto a killed
context the queue halts with code 6 (R322, R324, R391, R393). -/
def execInstall (h : MsgHead) (queue shadow pool poolSize heapSize : Nat) (debug : Bool) (capbase : Word) (s : State) :
    Answer :=
  .next (s.message (.install h queue shadow pool poolSize heapSize debug capbase) h 2 fun s =>
    let half := s.shadowHalf shadow
    let id := fieldAt half 54 2
    let c := s.ctx id
    if 1024 ≤ queue then (some (2, 0), s)
    else if (s.queues.get queue).installed then (some (8, 0), s)
    else if c.installed && !c.same half pool poolSize heapSize debug capbase then (some (8, 0), s)
    else
      let s := if c.installed then s
        else
          let n := s.newCtx half pool poolSize heapSize debug capbase
          { s.onCtx id fun _ => n with
            fw := { s.fw with killedAsids := s.fw.killedAsids.filter fun a => a != n.asid } }
      let v := ({ (default : Queue) with installed := true, ctx := id, user := h.addr, shadow := shadow } : Queue).vector half
      let s := { s with queues := s.queues.set queue v }
      (some (0, 0), if c.killed then s.haltQueue queue 6 else s))

/-- Has the last command of a queue that drains completed? -/
def State.removeDone (s : State) (queue : Nat) : Bool :=
  let v := s.queues.get queue
  v.draining.isSome && v.taken == [] && v.umx.isNone

/-- The queue number is free, REMOVE completes, and a context without a queue is released: its cores then pass to whichever
context comes next (R264, R324, R358). -/
def State.endRemove (s : State) (queue : Nat) : State :=
  let v := s.queues.get queue
  let s := { s with
    queues := s.queues.set queue default
    fw := { s.fw with serving := match s.fw.serving with
      | some (q, t) => if q = queue then none else some (q, t)
      | none => none } }
  let s := if s.queues.any fun x => x.2.ctx == v.ctx then s
    else { s.onCtx v.ctx fun _ => default with
      cores := s.cores.mapV fun c => if c.ctx = some v.ctx then { c with ctx := none } else c }
  match v.draining with
  | none => s
  | some (fn, _) =>
    let s := s.onBox fn fun b => { b with owed := b.owed.map fun o => if o.1 = queue + 1 then (0, o.2) else o }
    s.payOwed fn (s.box fn).owed.length

/-- REMOVE: no more commands are taken; the message completes when those taken have, at once where there are none
(R358). -/
def execRemove (h : MsgHead) (queue : Nat) (s : State) : Answer :=
  .next (s.message (.remove h queue) h 2 fun s =>
    let v := s.queues.get queue
    if !v.installed || v.draining.isSome then (some (2, 0), s)
    else
      let s := { s with queues := s.queues.upd queue fun v => { v with draining := some (h.fn, (echoTag h)), parked := none } }
      let s := s.owe h.fn (queue + 1) (completion (echoTag h) 2 0 0)
      (none, if s.removeDone queue then s.endRemove queue else s))

/-- REMOVE_DRAIN_END: the last command of a queue that drains has completed (R358). -/
def execRemoveDrainEnd (queue : Nat) (s : State) : Answer :=
  .next (s.when (s.removeDone queue) fun s => s.endRemove queue)

/-! ### REPLAY (R57, R109, R112, R348, R427 to R429, R462) -/

/-- Does a part wait under a token: parked with it, and no replay that marked it replayed or failed has come (R109, R348, R429)?
The entry of a part so marked is free for another request, which may have its token. -/
def Part.under (tok : Nat) (p : Part) : Bool := p.fws == .parked && p.token.toNat == tok && !p.replayed && !p.failed

/-- A part that a successful replay of a token wakes (R57, R112). -/
def Part.woken (tok : Nat) (p : Part) : Part :=
  if p.under tok then { p with fws := .run, waitId := 0, token := 0, delay := 2 } else p

/-- A part, saved or being saved, that a successful replay of a token marks replayed (R348). -/
def Part.marked (tok : Nat) (p : Part) : Part :=
  if p.under tok then { p with replayed := true } else p

/-- A saved part that a failed replay of a token marks failed (R429). -/
def Part.markedFailed (tok : Nat) (p : Part) : Part :=
  if p.under tok then { p with failed := true } else p

/-- Everything that waits under a token goes on; what a failed replay meets is set by `fail` (R112, R348, R462). -/
def State.wake (s : State) (tok : Nat) (fail : Bool) : State :=
  let cmd := fun (c : Cmd) =>
    if c.parked = some tok then
      if fail then { c with parked := none, taken := true, err := 5 } else { c with parked := none }
    else c
  let cube := fun (o : CubeOp) => if o.parked = some tok then { o with parked := none } else o
  let parent := fun (p : ParentRead) => if p.parked = some tok then { p with parked := none } else p
  let queue := fun (q : Queue) => if q.parked = some tok then { q with parked := none } else q
  let s := s.mapWaves fun w => { w with
    parts := w.parts.map (if s.frozen w.id then Part.marked tok else Part.woken tok)
    ops := w.ops.map fun o => match o.kind with
      | .launch a n => if n = tok + 1 then { o with kind := .launch a 0 } else o
      | _ => o }
  { s with
    saved := s.saved.map fun v => { v with members := v.members.map fun m => { m with
      waves := m.waves.map fun w => { w with
        parts := w.parts.map (if fail then Part.markedFailed tok else Part.marked tok) }
      cmds := m.cmds.map fun c => (c.1, cmd c.2) } }
    sects := s.sects.mapV fun t => { t with copyQ := t.copyQ.map cmd, splatQ := t.splatQ.map cmd }
    cores := s.cores.mapV fun c => { c with cube := c.cube.map cube, pendingFills := c.pendingFills.map cube }
    dies := s.dies.mapV fun d => { d with parents := d.parents.map parent }
    queues := s.queues.mapV queue }

/-- Resident parts parked under a token, with their waves, in order of age in each wave (R390, R427). -/
def State.parkedUnder (s : State) (tok : Nat) : List (Nat × Nat) :=
  s.allWaves.flatMap fun w =>
    ((byAge w.parts).filter (Part.under tok)).map fun p => (w.id, p.entry)

/-- A parked part traps REPLAYFAIL at its instruction, which it reissues for the lanes not done if the debugger
resumes it (R390, R414, R427). -/
def State.failPart (s : State) (wave entry extra : Nat) : State :=
  if !s.hasWave wave then s
  else
    let s := s.aim wave entry
    let words := match s.fetchPart with
      | .chain (x :: _) => (x.2.word0, x.2.word1)
      | _ => (0, 0)
    let mine := s.part.members
    let s := { s with iss := { s.iss with word0 := words.1, word1 := words.2 } }
    let s := (s.onPart fun p => { p with fws := .run, waitId := 0, token := 0 }).mapWave wave fun w => { w with
      ops := w.ops.map fun o => if o.kind = .none ∧ (o.quads &&& ~~~mine) = 0 then { o with done := true } else o }
    let s := s.retire wave
    s.stopWave wave (s.trapInfo 0x26 0 extra 0) s.debugOn 2

/-- Every parked part of a list traps; their grids take their course at the end of the cycle (R390, R427). -/
def State.failParts (s : State) (extra : Nat) (l : List (Nat × Nat)) : State :=
  l.foldl (fun s x => s.failPart x.1 x.2 extra) s

/-- The words of the instruction at a saved part's index (R390). -/
def State.savedWords (s : State) (m : SavedWg) (p : Part) : Word × Word :=
  match s.fetch m.wg.core m.wg.ctx p.pc.toNat p.came.toNat with
  | .chain (x :: _) => (x.2.word0, x.2.word1)
  | _ => (0, 0)

/-- Saved parts parked under a token: their records, with the address of the wave record in the image, and their grids are
cancelled at once, whether or not the records have found room (R429). -/
def State.failSaved (s : State) (tok extra : Nat) : State :=
  let hits := s.saved.flatMap fun v => v.members.flatMap fun m => m.waves.flatMap fun w =>
    (w.parts.filter (Part.under tok)).map fun p => (m, w, p)
  let s := hits.foldl (fun s x =>
    let (m, w, p) := x
    let words := s.savedWords m p
    s.stopless m.wg.ctx m.wg.grid
      ⟨0x26, 0, p.word, p.pc.toNat, words.1.toNat, words.2.toNat, coreWord m.wg.core, 0, extra,
        if m.wg.descendant then 0 else m.wg.index⟩
      (m.image + 64 + 1600 * w.num) 2) s
  (distinct (hits.map fun x => x.1.wg.grid)).foldl (fun s g => s.cancelGrid g true 0) s

/-- A failed replay's other requests: a fill or refill leaves its slot invalid with CUBEFB (R443), a queue halts with
code 8, a parent read is PARENTFAULT, and a GLAUNCH is refused. -/
def State.failOthers (s : State) (tok : Nat) : State :=
  let fills := s.cores.flatMap fun c =>
    ((c.2.cube ++ c.2.pendingFills).filter fun o => o.parked == some tok).map fun o => (c.1, o)
  let s := fills.foldl (fun s x =>
    let (core, o) := x
    match o.job.fills with
    | some n => if o.seq = 0 then ((s.setSlot core n default).dropPins core n).endPending core n true
      else s.endFill core o n default true
    | none =>
      match o.job.slots.find? fun n => ((s.core core).slots.get n).valid && ((s.core core).slots.get n).refill with
      | some n => (((s.setSlot core n default).flagOp o.wave o.op flagCubefb).dropPins core n).endPending core n true
      | none => s) s
  let qs := (s.queues.filter fun q => q.2.parked == some tok).map Prod.fst
  let s := qs.foldl (fun s q => s.haltQueue q 8) s
  let ps := s.dies.flatMap fun d => d.2.parents.filter fun p => p.parked == some tok
  let s := { s with dies := s.dies.mapV fun d => { d with parents := d.parents.filter fun p => p.parked != some tok } }
  let s := ps.foldl (fun s p =>
    s.stopless p.ctx p.grid ⟨0x42, 8, 0, 0, 0, 0, coreWord p.core, p.addr, p.addr, 0⟩ 0 1) s
  let ls := s.allWaves.flatMap fun w => (w.ops.filter fun o => match o.kind with
    | .launch _ n => n == tok + 1
    | _ => false).map fun o => (w.id, o)
  ls.foldl (fun s x =>
    (s.mapWave x.1 fun w => w.writeRegs ((lanesOf x.2.lanes).take 1 |>.map fun l =>
      regWrite l (x.2.regs.headD 0) 0 false)).complete x.1 x.2.id) s

/-- What waits under a token goes on, or fails (R112, R427). -/
def State.answerToken (s : State) (tok result : Nat) (bypage : Bool) : State :=
  if result = 0 then s.wake tok false
  else
    let extra := tok + (if bypage then 2 ^ 16 else 0) + result * 2 ^ 24
    let ps := s.parkedUnder tok
    (((s.failOthers tok).failParts extra ps).failSaved tok extra).wake tok true

/-- A replay applies to an entry of a section, which is freed; while its page-fault record is held, what waits under it stays
parked, and the answer waits with it (R112, R389, R427). -/
def State.applyReplay (s : State) (result : Nat) (bypage : Bool) (x : Nat × Nat) : State :=
  let w := (s.sect x.1).waits.get x.2
  let s := s.freeWait x.1 x.2
  if w.held then s.onSect x.1 fun t => { t with waits := t.waits.upd x.2 fun w => { w with answer := some (result, bypage) } }
  else s.answerToken (tokenOf x.1 x.2 w) result bypage

/-- Replays that waited for a page-fault record take effect once it is written (R389). -/
def State.takeAnswers (s : State) : State :=
  let due := s.sects.flatMap fun t => t.2.waits.filterMap fun e =>
    if e.2.held then none else e.2.answer.map fun a => (t.1, e.1, a, tokenOf t.1 e.1 e.2)
  due.foldl (fun s x =>
    (s.onSect x.1 fun t => { t with waits := t.waits.upd x.2.1 fun w => { w with answer := none } }).answerToken
      x.2.2.2 x.2.2.1.1 x.2.2.1.2) s

/-- A replay of some entries: STALE for a killed context, NOMATCH for none (R427, R428). -/
def State.replay (s : State) (asid result : Nat) (bypage : Bool) (es : List (Nat × Nat)) : Option (Nat × Nat) × State :=
  if 1 < result then (some (2, 0), s)
  else if s.fw.killedAsids.contains asid then
    (some (5, 0), { s with fw := { s.fw with stalecnt := (s.fw.stalecnt + 1) % 2 ^ 32 } })
  else match es with
    | [] => (some (4, 0), s)
    | es => (some (0, 0), es.foldl (fun s x => s.applyReplay result bypage x) s)

/-- REPLAY_BY_TOKEN: the one entry whose token matches, generation bit included (R112). (DEDUCED, unsafe; log entry
56.) -/
def execReplayByToken (h : MsgHead) (token result : Nat) (s : State) : Answer :=
  .next (s.message (.replayByToken h token result) h 3 fun s =>
    let sect := token / 2 ^ 8 % 128
    let w := (s.sect sect).waits.get (token % 256)
    let hit := w.used && tokenOf sect (token % 256) w == token
    s.replay h.asid result false (if hit then [(sect, token % 256)] else []))

/-- REPLAY_BY_PAGE: every entry of the ASID whose page holds the 16 KiB page of ADDR (R112). (DEDUCED, unsafe; log
entry 56.) -/
def execReplayByPage (h : MsgHead) (result : Nat) (s : State) : Answer :=
  .next (s.message (.replayByPage h result) h 3 fun s =>
    let hit := fun (w : WaitEntry) =>
      w.used && w.asid == h.asid && h.addr / pageSize w.level == w.page / pageSize w.level
    s.replay h.asid result true (s.sects.flatMap fun t => (t.2.waits.filter fun e => hit e.2).map fun e => (t.1, e.1)))

/-! ### FENCE (R106, R358, R432) -/

/-- FENCE_ORDER completes once every earlier message has been applied (R358). -/
def execFenceOrder (h : MsgHead) (s : State) : Answer :=
  .next (s.message (.fenceOrder h) h 4 fun s => (some (0, 0), s))

/-- INVAL: translations and lines of a range of an ASID are removed (R106). -/
def execInval (h : MsgHead) (length : Nat) (s : State) : Answer :=
  .next (s.message (.inval h length) h 4 fun s => (some (0, 0), s.flushAll.invalRange h.asid h.addr length))

/-- EVICT: NP is set in the leaf unless it is pinned, and the page is invalidated (R106, Table 26.6). -/
def execEvict (h : MsgHead) (s : State) : Answer :=
  .next (s.message (.evict h) h 4 fun s =>
    match s.ctxOfAsid h.asid with
    | none => (some (6, 0), s)
    | some c =>
      if !canonical h.addr then (some (6, 0), s)
      else match s.walk c h.addr with
        | .np .. => (some (0, 0), s)
        | .leaf pte a level =>
          if ptePin pte || pteEpin pte || pteShd pte then (some (1, 0), s)
          else
            let s := s.flushAll.writePhys a (leBytes 8 (BitVec.ofNat 64 (s.readNat a 8) ||| 0x1000#64).toNat)
            (some (0, 0), s.invalRange h.asid (h.addr / pageSize level * pageSize level) (pageSize level))
        | .poison a => (some (6, 0), s.walkPoison c a 0)
        | _ => (some (6, 0), s))

/-! ### ATTEST and HANDOVER (R369 to R371, R455) -/

/-- A digest of 64 bytes. -/
def digest (b : List Byte) : List Byte := (Config.sha3 b ++ List.replicate 64 0).take 64

/-- Extend a measurement (R369). -/
def Firmware.extend (f : Firmware) (i : Nat) (v : List Byte) : Firmware :=
  { f with measures := f.measures.set i (digest (f.m i ++ v)) }

/-- Bytes 0 to 631 of a report (Table 18.7). -/
def State.reportBody (s : State) (nonce : List Byte) : List Byte :=
  leBytes 4 0x52455031 ++ leBytes 4 1 ++ leBytes 8 (if s.fw.staged.isSome then 1 else 0) ++ nonce
    ++ ((List.range 8).flatMap fun i => s.fw.m i)
    ++ (match s.fw.staged with
      | some image => digest image
      | none => List.replicate 64 0)
    ++ leBytes 8 s.clock

/-- REPORT (R370). -/
def execReport (h : MsgHead) (nonce : List Byte) (bus : Nat) (s : State) : Answer :=
  .next (s.message (.report h nonce bus) h 6 fun s =>
    let body := s.reportBody nonce
    let sig := (Config.sign (digest body) ++ List.replicate 4627 0).take 4627
    (some (0, 0), s.hostWrite bus (body ++ sig ++ List.replicate 117 0)))

/-- EXTEND: one of M4 to M7 (R369). -/
def execExtend (h : MsgHead) (index : Nat) (value : List Byte) (s : State) : Answer :=
  .next (s.message (.extend h index value) h 6 fun s =>
    if index < 4 ∨ 7 < index then (some (2, 0), s) else (some (0, 0), { s with fw := s.fw.extend index value }))

/-- STAGE: the image is fetched and verified (R371, R455). -/
def execStage (h : MsgHead) (bus size : Nat) (image : List Byte) (s : State) : Answer :=
  .next (s.message (.stage h bus size image) h 7 fun s =>
    if Config.verifies image then (some (0, 0), { s with fw := { s.fw with staged := some image } }) else (some (7, 0), s))

/-- Is a UMXLOAD unfinished (R371)? -/
def State.translating (s : State) : Bool := s.queues.any fun q => q.2.umx.isSome

/-- COMMIT waits until every UMXLOAD has finished, then passes state to the staged firmware; without one it completes
HANDOVER (R371, R455). -/
def execCommit (h : MsgHead) (s : State) : Answer :=
  .next (s.when (!s.translating) fun s => s.message (.commit h) h 7 fun s =>
    match s.fw.staged with
    | none => (some (7, 0), s)
    | some _ => (none, { s with fw := { s.fw with committing := some (h.fn, h.tag, h.version, s.time) } }))

/-- Answer a COMMIT that has ended. -/
def State.endCommit (s : State) (c : Nat × Nat × Nat × Nat) (status : Nat) : State :=
  { s with fw := { s.fw with staged := none, committing := none } }.answerMsg
    ⟨c.1, c.2.2.1, c.2.1, 0, 1, 0, 0⟩ 7 status 0

/-- STAGED_FIRMWARE_READY: M3 is extended by the old M0, M0 becomes the new digest, COMMIT completes (R371, R455). -/
def execStagedFirmwareReady (s : State) : Answer :=
  .next (match s.fw.committing, s.fw.staged with
    | some c, some image =>
      let f := s.fw.extend 3 (s.fw.m 0)
      { s with fw := { f with measures := f.measures.set 0 (digest image) } }.endCommit c 0
    | _, _ => s)

/-- HANDOVER_TIMEOUT: 10 ms without ready: the outgoing firmware resumes, and COMMIT completes HANDOVER (R455). -/
def execHandoverTimeout (s : State) : Answer :=
  .next (match s.fw.committing with
    | some c => s.when (decide (c.2.2.2 + micros 10000 ≤ s.time)) fun s => s.endCommit c 7
    | none => s)

/-! ### CONFIG (R360) -/

/-- Do two ranges overlap? An empty one overlaps nothing. -/
def rangesMeet (a n b m : Nat) : Bool := decide (0 < n) && decide (0 < m) && meets a n b m

/-- VFASID: the ASIDs a virtual function may name (R360). -/
def execVfasid (h : MsgHead) (vf base count : Nat) (s : State) : Answer :=
  .next (s.message (.vfasid h vf base count) h 8 fun s =>
    let old := s.box vf
    let inOld := fun a => decide (old.asidBase ≤ a) && decide (a < old.asidBase + old.asidCount)
    let inNew := fun a => decide (base ≤ a) && decide (a < base + count)
    if vf = 0 ∨ 32 < vf ∨ 2 ^ 16 < base + count then (some (2, 0), s)
    else if (s.mailbox.any fun b => b.1 != vf && b.1 != 0 && rangesMeet base count b.2.asidBase b.2.asidCount)
        || (s.queues.any fun q => q.2.installed && inOld (s.ctx q.2.ctx).asid && !inNew (s.ctx q.2.ctx).asid) then
      (some (8, 0), s)
    else (some (0, 0), s.onBox vf fun b => { b with asidBase := base, asidCount := count }))

/-- VFMSIX: the block of vectors of a function (R360). -/
def execVfmsix (h : MsgHead) (fn first count : Nat) (s : State) : Answer :=
  .next (s.message (.vfmsix h fn first count) h 8 fun s =>
    let old := s.box fn
    let inOld := fun v => decide (old.vecFirst ≤ v) && decide (v < old.vecFirst + old.vecCount)
    let lost := fun v => inOld v && !(decide (first ≤ v) && decide (v < first + count))
    if 32 < fn ∨ 2047 < first ∨ 2048 < first + count then (some (2, 0), s)
    else if (s.mailbox.any fun b => b.1 != fn && rangesMeet first count b.2.vecFirst b.2.vecCount)
        || lost (natBits 1 11 old.mbctl)
        || (s.queues.any fun q => q.2.installed && s.owns fn (s.ctx q.2.ctx).asid && lost q.2.msix) then
      (some (8, 0), s)
    else (some (0, 0), s.onBox fn fun b => { b with vecFirst := first, vecCount := count }))

/-- POWER: the package limit, 4,000 to 10,000 W (R360). -/
def execPower (h : MsgHead) (watts : Nat) (s : State) : Answer :=
  .next (s.message (.power h watts) h 8 fun s =>
    if watts < 4000 ∨ 10000 < watts then (some (2, 0), s)
    else (some (0, 0), { s with fw := { s.fw with limit := watts } }))

/-- The enabled event of the mailbox engine (DESIGN CHOICE, unsafe; log entry 3). What a STAGE fetches comes from
outside. -/
def State.mailEvents (s : State) : List Instr :=
  (match s.nextMessage with
    | none => []
    | some (fn, b) => match messageOf fn b with
      | .stage .. => []
      | .commit h => if s.translating then [] else [.commit h]
      | i => [i])
    ++ (s.queues.keys.filter s.removeDone).map Instr.removeDrainEnd

/-- The bound of a hand-over passes (R455). -/
def State.handoverDue (s : State) : List Instr :=
  match s.fw.committing with
  | some c => if c.2.2.2 + micros 10000 ≤ s.time then [.handoverTimeout] else []
  | none => []

end Sys2Proof.Machine
end

