-- ==== Sys2Proof/Machine/Boot.lean ====
section
/-!
DEFINITION. Machine/Boot.lean: boot, the DVFS points, and the links (R17, R71, R356, R362, R368, R369, R372, R457, R458).
-/

namespace Sys2Proof.Machine

/-! ### Boot (R368, R369, R457) -/

/-- The record a boot step leaves (R368, R457): 1 passed, 2 failed, 3 skipped, 4 degraded. A step that degrades has
failed once (R457). (DEDUCED, unsafe; log entry 52.) -/
def Firmware.record (f : Firmware) (r : BootOutcome) (status : Nat) : Firmware :=
  let n := if status = 4 then max 2 (f.tries + 1) else f.tries + 1
  { f with boot := f.boot.set f.step ⟨status, n, r.micros, r.detail⟩ }

/-- May the PCI Express link train at a speed, 5, 6 or 7, and a width (R356)? -/
def linkGood (speed width : Nat) : Bool :=
  (speed == 7 && width == 16) || ((speed == 6 || speed == 5) && (width == 16 || width == 8 || width == 4))

/-- What a step that passes gives the machine (R17, R362, R368, R369, R457). (DEDUCED, unsafe; log entry 52.) -/
def Firmware.stepDone (f : Firmware) (r : BootOutcome) : Firmware :=
  let f := match f.step with
    | 4 => { f with
        badChannels := distinct (r.badChannels.filter fun c => decide (c < 512))
        slowChannels := distinct (r.slowChannels.filter fun c => decide (c < 512)) }
    | 6 => { f with
        ports := r.ports
        podNumber := r.podNumber % 256
        podSize := max 1 (min r.podSize 256) }
    | 7 => { f with linkUp := true, linkSpeed := r.linkSpeed, linkWidth := r.linkWidth }
    | 8 => (List.range 3).foldl (fun (f : Firmware) i => f.extend i (digest (r.images.getD i []))) f
    | _ => f
  { f with step := f.step + 1, tries := 0 }

/-- Did a step degrade: a GDDR7 channel runs at 40 Gb/s or is mapped out (R457)? -/
def bootDegraded (r : BootOutcome) (step : Nat) : Bool := step == 4 && (r.slowChannels != [] || r.badChannels != [])

/-- Does a step pass? Step 6 trains a port, step 7 trains the link as R356 allows, and step 8 verifies the signature of the firmware (R368). -/
def bootPasses (step : Nat) (r : BootOutcome) : Bool :=
  r.passed && (step != 6 || r.ports != 0) && (step != 7 || linkGood r.linkSpeed r.linkWidth) && (step != 8 || Config.verifies (r.images.getD 0 []))

/-- BOOT_STEP: a step passes, or fails and is tried once more; the optional step is then skipped, and a required one
stops boot (R368, R457). The cycle count starts when step 10 completes (R71, R368). -/
def execBootStep (r : BootOutcome) (s : State) : Answer :=
  let f := s.fw
  .next (s.when (!f.stuck && decide (1 ≤ f.step) && decide (f.step ≤ 10)) fun s =>
    if bootPasses f.step r then
      let s := { s with fw := (f.record r (if bootDegraded r f.step then 4 else 1)).stepDone r }
      if f.step = 10 then { s with clock0 := some s.cycle } else s
    else if f.tries = 0 then { s with fw := { f.record r 2 with tries := 1 } }
    else if f.step = 6 then
      { s with fw := { f.record r 3 with step := 7, tries := 0, ports := 0, podNumber := 0, podSize := 1 } }
    else { s with fw := { f.record r 2 with tries := 2, stuck := true } })

/-! ### Power (R372) -/

/-- DVFS_CHANGE: the dies change point together, and the move is counted by its cause: to a lower point for 0 power, 1
junction, 2 rail; back to a higher one for 3, once the cause has been clear for 1 ms (R372). (DESIGN CHOICE, unsafe; log
entry 28.) (DEDUCED, unsafe; log entry 53.) -/
def execDvfsChange (point cause : BitVec 2) (s : State) : Answer :=
  let f := s.fw
  let lower := decide (f.dvfs.toNat < point.toNat)
  let higher := decide (point.toNat < f.dvfs.toNat) && decide (f.throttledAt + micros 1000 ≤ s.time)
  .next (s.when (if cause = 3 then higher else lower) fun s =>
    { s with fw := { f with
        dvfs := point, throttles := f.throttles.upd cause.toNat (· + 1)
        throttledAt := if cause = 3 then f.throttledAt else s.time } })

/-! ### Links (R458) -/

/-- RILRAK_FLIT_ERROR: the flit is sent again; a port beyond the rate drops to two lanes, and one that fails again is
disabled. Its routes move, which no software sees (R362); with no port left, every other module is lost (R451, R458;
`State.reportsDue`). -/
def execRilrakFlitError (port : BitVec 5) (retrain : Bool) (s : State) : Answer :=
  let f := s.fw
  let bit := BitVec.twoPow 32 port.toNat
  .next (s.when (f.ports.getLsbD port.toNat) fun s =>
    let f := { f with retrans := f.retrans + 1 }
    { s with fw :=
        if !retrain then f
        else if f.narrow.getLsbD port.toNat then { f with ports := f.ports &&& ~~~bit, narrow := f.narrow &&& ~~~bit }
        else { f with narrow := f.narrow ||| bit } })

/-- PCIE_LINK_DOWN, an uncorrectable error or a link-down: writes to host memory are held from here on; grids keep running
(R458). -/
def execPcieLinkDown (s : State) : Answer :=
  .next (s.when s.fw.linkUp fun s => { s with fw := { s.fw with linkUp := false, downSince := s.time, downLong := false } })

/-- PCIE_LINK_TRAINED at a speed and width that R356 allows: the held writes go to host memory in order (R458). -/
def execPcieLinkTrained (speed width : Nat) (s : State) : Answer :=
  let f := s.fw
  .next (s.when (linkGood speed width && decide (7 < f.step)) fun s => { s with
    host := f.heldHost.foldl (fun h w => h.write w.1 w.2) s.host
    fw := { f with linkUp := true, linkSpeed := speed, linkWidth := width, heldHost := [], downLong := false } })

/-- PCIE_RETRAIN_TIMEOUT: 1 s without training: the held writes are discarded and counted, and the next hot reset is a
warm reset (R458). -/
def execPcieRetrainTimeout (s : State) : Answer :=
  let f := s.fw
  .next (s.when (!f.linkUp && !f.downLong && s.booted && decide (f.downSince + micros 1000000 ≤ s.time)) fun s =>
    { s with fw := { f with heldHost := [], lostHost := f.lostHost + f.heldHost.length, downLong := true } })

/-- PCIE_CORRECTABLE_ERROR is counted in LINK (R458). -/
def execPcieCorrectableError (s : State) : Answer :=
  .next { s with fw := { s.fw with linkErrors := s.fw.linkErrors + 1 } }

/-- The bound of a link's training passes (R458); boot's outcomes and the links' own errors come from outside. -/
def State.linkDue (s : State) : List Instr :=
  if !s.fw.linkUp && !s.fw.downLong && s.booted && decide (s.fw.downSince + micros 1000000 ≤ s.time) then
    [.pcieRetrainTimeout]
  else []

end Sys2Proof.Machine
end

