-- ==== Sys2Proof/Machine/Debug.lean ====
section
/-!
DEFINITION. Machine/Debug.lean: the debug command block: RESUME, STEP, KILL, READREGS, WRITEREGS (R62, R413 to R416).
-/

namespace Sys2Proof.Machine

/-- What a command finds of the wave it names (R414). -/
inductive Target where
  | stopped (wave : Nat)
  | running
  | saved
  | missing
  deriving DecidableEq, Repr

/-- Is a wave stopped for the debugger, its latest record the one of a DUMPADDR (R413, R414)? -/
def Wave.stoppedAt (w : Wave) (dump : Nat) : Bool :=
  match w.stop with
  | some t => t.debug && t.dump == dump
  | none => false

/-- Find the wave: by context and latest record, with WAVE and CTXID matching (R414). -/
def State.target (s : State) (ctx wave dump : Nat) : Target :=
  let ctxOf := fun (w : Wave) => (s.wgOf w.wg).ctx
  let word := fun (w : Wave) => waveWord (s.wgOf w.wg).core w
  match s.allWaves.find? fun w => ctxOf w == ctx && w.stoppedAt dump with
  | some w => if word w = wave then .stopped w.id else .missing
  | none =>
    if s.saved.any fun v => v.ctx == ctx && v.members.any fun m => m.waves.any fun w => w.stoppedAt dump then .saved
    else if s.allWaves.any fun w => ctxOf w == ctx && word w == wave && w.stop.isNone then .running
    else .missing

/-- STATUS of the debug command block (Table 25.4). -/
def State.debugStatus (s : State) (x : Byte) : State := { s with debugBlk := s.debugBlk.set 1 x }

/-- The debug command block holds a command in progress with these fields (R413). -/
def State.debugAsks (s : State) (op ctx wave dump : Nat) : Bool :=
  let b := Cells.read s.debugBlk 0 64
  fieldAt b 0 1 == op && fieldAt b 1 1 == 1 && fieldAt b 2 2 == ctx && fieldAt b 4 4 == wave && fieldAt b 16 8 == dump

/-- Must a command on a stopped wave wait: its cluster is being saved, or its record is held (R389, R414)? -/
def State.debugWaits (s : State) (wave : Nat) : Bool :=
  s.frozen wave || (((s.waveOf wave).stop.map Stop.held).getD false)

/-- Perform a debug command on the stopped wave it names, or refuse it; while the wave is saved, its cluster is being saved or
its record is held, the command waits (R389, R414). -/
def State.debugCommand (s : State) (op ctx wave dump : Nat) (act : Nat → State → State) : State :=
  s.when (s.debugAsks op ctx wave dump) fun s =>
    match s.target ctx wave dump with
    | .stopped w => if s.debugWaits w then s else act w s
    | .running => s.debugStatus 2
    | .saved => s
    | .missing => s.debugStatus 3

/-- DEBUG_RESUME (R414). -/
def execDebugResume (ctx wave dump : Nat) (s : State) : Answer :=
  .next (s.debugCommand 1 ctx wave dump fun w s => (s.resumeWave w).debugStatus 0)

/-- Does a part of a stopped wave wait, at a FUSE, a forced fuse or a SLEEP whose clock a step advances (R414)? -/
def Part.stepClock (p : Part) : Part :=
  { p with
    clock := if p.fws = .fuse ∨ p.fws = .forced then min (p.clock + 1) (2 ^ 24) else p.clock
    hold := match p.hold with
      | .sleep n => if n ≤ 1 then .none else .sleep (n - 1)
      | h => h }

/-- The parts that a single step issues: those ready but for the registers they wait for, the oldest first (R62,
R414). -/
def stepEntries (w : Wave) : List Nat := ((byAge w.parts).filter { w with stop := none }.awake).map Part.entry

/-- The partial fuses that a step's clocks bring about (R54, R414). -/
def State.stepFuses (s : State) : State :=
  let due := s.wave.parts.filter fun p => p.fws == .fuse && fuseDue s.wg.launch { s.wave with stop := none } p.pc
  due.foldl (fun s p =>
    s.mergeWhere (fun q => q.fws == .fuse && q.pc == p.pc) (p.after.getD (p.pc + 1)) true) s

/-- DEBUG_STEP: the clocks of the waiting parts advance, and each ready part is to issue one chain; the step ends with
its partial fuses and its record (R54, R62, R414; State.endStep). -/
def execDebugStep (ctx wave dump : Nat) (s : State) : Answer :=
  .next (s.debugCommand 2 ctx wave dump fun w s => s.when (((s.waveOf w).stop.bind Stop.stepping).isNone) fun s =>
    let s := s.focus w
    let s := s.onWave fun v => { v with parts := v.parts.map fun p => { p.resume with delay := 0 } }
    let es := stepEntries s.wave
    s.onWave fun v => { v with
      parts := v.parts.map Part.stepClock
      stop := v.stop.map fun t => { t with stepping := some es } })

/-- The end of a single step: the partial fuses whose clocks it has run out, which take in what reached them in the step (R54),
and one debug-stop record with CODE 0 and FLAGS DEBUG and STEP, and a new dump; the record
names the wave's oldest part (R414). (DEDUCED, unsafe; log entry 50.) -/
def State.endStep (s : State) (wave : Nat) : State :=
  let s := (s.focus wave).stepFuses
  let w := s.waveOf wave
  let g := s.wgOf w.wg
  let p := (byAge w.parts).headD default
  let t : TrapInfo := ⟨0, 3, p.word, p.pc.toNat, 0, 0, waveWord g.core w, 0, 0, if g.descendant then 0 else g.index⟩
  let s := s.mapWave wave fun w => { w with stop := w.stop.map fun t => { t with stepping := none } }
  (s.stopWave wave t true 0).debugStatus 0

/-- DEBUG_KILL: the wave's grid takes the course of a trap without a debugger (R390, R414). -/
def execDebugKill (ctx wave dump : Nat) (s : State) : Answer :=
  .next (s.debugCommand 3 ctx wave dump fun w s =>
    (s.cancelGrid (s.wgOf (s.waveOf w).wg).grid true 1).debugStatus 0)

/-- May firmware use the range of a register command: aligned, and mapped for it (Table 25.4)? (DEDUCED, unsafe; log
entry 50.) -/
def State.debugRange (s : State) (ctx addr n : Nat) (need : Need) : Bool :=
  addr % 8 == 0 && (match s.fwSpan ctx addr n need with
    | .ok _ => true
    | _ => false)

/-- ADDR of the debug command block (Table 25.4). -/
def State.debugAddr (s : State) : Nat := leValue (Cells.read s.debugBlk 8 8)

/-- READREGS: the wave's quad records, in quad order, go to ADDR (R414). -/
def execReadregs (ctx wave dump addr : Nat) (s : State) : Answer :=
  .next (s.when (s.debugAddr == addr) fun s => s.debugCommand 4 ctx wave dump fun w s =>
    let v := s.waveOf w
    let bytes := (List.range v.quadCount).flatMap (quadRecord v)
    if s.debugRange ctx addr bytes.length needWrite then (s.fwWrite ctx addr bytes).debugStatus 0 else s.debugStatus 2)

/-- WRITEREGS: the wave's quad records are read from ADDR and installed (R414). -/
def execWriteregs (ctx wave dump addr : Nat) (s : State) : Answer :=
  .next (s.when (s.debugAddr == addr) fun s => s.debugCommand 5 ctx wave dump fun w s =>
    let n := (s.waveOf w).quadCount
    if s.debugRange ctx addr (1728 * n) needRead then
      let bytes := s.fwRead ctx addr (1728 * n)
      let s := s.ctxTouchRange ctx addr (1728 * n) false
      let install := fun (v : Wave) =>
        (List.range n).foldl (fun v q => v.installQuad q ((bytes.drop (1728 * q)).take 1728)) v
      (s.mapWave w install).debugStatus 0
    else s.debugStatus 2)

/-- The enabled debug command, unless it waits (DESIGN CHOICE, unsafe; log entry 3). -/
def State.debugEvents (s : State) : List Instr :=
  let b := Cells.read s.debugBlk 0 64
  let ctx := fieldAt b 2 2
  let wave := fieldAt b 4 4
  let dump := fieldAt b 16 8
  let waits := match s.target ctx wave dump with
    | .stopped w => s.debugWaits w || (((s.waveOf w).stop.bind Stop.stepping).isSome)
    | .saved => true
    | _ => false
  if fieldAt b 1 1 != 1 || waits then []
  else match fieldAt b 0 1 with
    | 1 => [.debugResume ctx wave dump]
    | 2 => [.debugStep ctx wave dump]
    | 3 => [.debugKill ctx wave dump]
    | 4 => [.readregs ctx wave dump s.debugAddr]
    | 5 => [.writeregs ctx wave dump s.debugAddr]
    | _ => []

end Sys2Proof.Machine
end

