-- ==== Sys2Proof/Machine/Rays.lean ====
section
/-!
DEFINITION. Machine/Rays.lean: the ray unit and the texture unit (R14, R288 to R302, R418, R424, R445). Both read memory as the
instruction issues, which R296 allows, and write their registers with RT_COMPLETE.
-/

namespace Sys2Proof.Machine

/-! ### Reading memory (R296, R418) -/

/-- What a unit's read or evaluation gives: a value, or the fate that ends the lane at an address, and whether its ray has met
a malformed record before (R396). -/
inductive RtGot (α : Type) where
  | ok (a : α) (s : State)
  | stop (va : Nat) (f : Fate) (inv : Bool) (s : State)

/-- Continue with the value. -/
def RtGot.bind {α β : Type} (x : RtGot α) (f : α → State → RtGot β) : RtGot β :=
  match x with
  | .ok a s => f a s
  | .stop va e inv s => .stop va e inv s

/-- Read `n` bytes with R, a sector at a time, as relaxed loads of the lane, through its core's L1 (R92, R117, R296); a
poisoned sector is logged and marks the result (R424). -/
def State.rtSectors (s : State) (core ctx grid : Nat) : Nat → Nat → Nat → RtGot (List Byte × Bool)
  | 0, _, _ => .ok ([], false) s
  | fuel + 1, va, n =>
    if n = 0 then .ok ([], false) s
    else
      let m := min n (32 - va % 32)
      let load := fun (_ : Unit) =>
        let r := s.loadVa core ctx grid va m 0 false
        (State.rtSectors r.2 core ctx grid fuel ((va + m) % 2 ^ 64) (n - m)).bind fun t s =>
          .ok (r.1.bytes ++ t.1, r.1.bad || t.2) s
      match s.checkLoad core ctx va 1 false with
      | .ok .. => load ()
      | .hit => load ()
      | f => .stop va f false s

/-- Read `n` bytes for a lane (R296). -/
def State.rtRead (s : State) (core ctx grid va n : Nat) : RtGot (List Byte × Bool) :=
  s.rtSectors core ctx grid (n / 32 + 2) va n

/-! ### The hierarchy (Tables 14.1 to 14.4) -/

/-- The frame of a ray: the world, or an instance's with what its hits report (R291). -/
structure Frame where
  o : List XVal
  d : List XVal
  inst : Option (Nat × Bool)
  deriving DecidableEq, Repr

/-- A hit: exact t, primitive, D + 2, exact u and v (R290, Table 14.6). -/
structure Hit where
  t : XVal
  prim : Nat
  key : Nat
  u : XVal
  v : XVal
  deriving DecidableEq, Repr

/-- What a trace carries (R292): the best hit, RAYINV, poison read, the fate that ended it. -/
structure Tracing where
  s : State
  best : Option Hit
  inv : Bool
  bad : Bool
  fate : Option (Nat × Fate)

/-- The constants of a trace. -/
structure RayCfg where
  core : Nat
  ctx : Nat
  grid : Nat
  first : Bool
  cullb : Bool
  cullf : Bool
  mask : Nat
  tmin : XVal
  tmax : XVal
  world : Frame

/-- A child that a segment's box test hit: entry time, type, COUNT, address. -/
structure Child where
  entry : XVal
  kind : Nat
  count : Nat
  addr : Nat
  deriving DecidableEq, Repr

/-- FP32 field of a record. -/
def f32At (bs : List Byte) (off : Nat) : XVal := Fmt.decode .fp32 (fieldAt bs off 4)

/-- Is a value NaN or infinite? -/
def XVal.wild (x : XVal) : Bool := x.isNan || x.isInf

/-- The greater and the lesser of two numbers. -/
def xmax (x y : XVal) : XVal := if XVal.lt x y then y else x
def xmin (x y : XVal) : XVal := if XVal.lt y x then y else x

/-- Exact entry time of a segment into a box, none when it misses (R289, R292). `b` is the node, `q` the child's box. -/
def boxEntry (c : RayCfg) (f : Frame) (b : List Byte) (q : Nat) : Option XVal :=
  if (List.range 3).any fun a => decide (fieldAt b (q + 3 + a) 1 < fieldAt b (q + a) 1) then none
  else
    let span := (List.range 3).foldl (fun (acc : Option (XVal × XVal)) a =>
      match acc with
      | none => none
      | some (e, x) =>
        let edge := fun (off : Nat) (mode : Rounding) =>
          Fmt.decode .fp32 (Fmt.round .fp32 mode .none (XVal.add .rne (f32At b (4 * a))
            (XVal.scaled false (fieldAt b off 1) ((fieldAt b (12 + a) 1 : Int) - 127))))
        let lo := edge (q + a) .rm
        let hi := edge (q + 3 + a) .rp
        let o := f.o.getD a (XVal.zero false)
        let d := f.d.getD a (XVal.zero false)
        if d.isZero then (if XVal.le lo o && XVal.le o hi then some (e, x) else none)
        else
          let t1 := XVal.div (XVal.sub .rne lo o) d
          let t2 := XVal.div (XVal.sub .rne hi o) d
          some (xmax e (xmin t1 t2), xmin x (xmax t1 t2))) (some (c.tmin, c.tmax))
    match span with
    | some (e, x) => if XVal.le e x && e != .inf false && x != .inf true then some e else none
    | none => none

/-- Insert a child by entry time, after those of its own time that stand in lower slots (R292). -/
def insertChild (x : Child) : List Child → List Child
  | [] => [x]
  | y :: ys => if XVal.lt y.entry x.entry then y :: insertChild x ys else x :: y :: ys

/-- The children of a node's bytes that the box tests and references allow, in slot order, and RAYINV (R289, R445).
(DEDUCED, unsafe; log entry 44.) -/
def childrenOf (c : RayCfg) (f : Frame) (node : Nat) (b : List Byte) : List Child × Bool :=
  if (List.range 3).any fun a => fieldAt b (12 + a) 1 == 0xFF || (f32At b (4 * a)).wild then ([], true)
  else (List.range 4).foldl (fun (acc : List Child × Bool) i =>
    let r := fieldAt b (40 + 6 * i) 6
    let kind := r / 2 ^ 46
    let addr := wrapNat 64 ((node : Int) + 16 * signedNat 43 r)
    if kind = 0 then acc
    else if (kind = 3 ∧ f.inst.isSome = true) ∨ addr % (if kind = 2 then 16 else 64) ≠ 0 then (acc.1, true)
    else match boxEntry c f b (16 + 6 * i) with
      | some e => (acc.1 ++ [⟨e, kind, r / 2 ^ 43 % 8, addr⟩], acc.2)
      | none => acc) ([], false)

/-- Hits(N) of a node's bytes (R292). -/
def hitsOf (c : RayCfg) (f : Frame) (node : Nat) (b : List Byte) : List Child × Bool :=
  let r := childrenOf c f node b
  (r.1.foldr insertChild [], r.2)

/-- tbest() (R292). -/
def Tracing.tbest (t : Tracing) (c : RayCfg) : XVal :=
  match t.best with
  | some h => h.t
  | none => c.tmax

/-- Read a record in a trace. -/
def Tracing.read (t : Tracing) (c : RayCfg) (va n : Nat) (k : Tracing → List Byte → Tracing) : Tracing :=
  match t.s.rtRead c.core c.ctx c.grid va n with
  | .ok r s => k { t with s := s, bad := t.bad || r.2 } r.1
  | .stop va f _ s => { t with s := s, fate := some (va, f) }

/-- Vector arithmetic on exact values. -/
def vsub (a b : List XVal) : List XVal := List.zipWith (XVal.sub .rne) a b
def vdot (a b : List XVal) : XVal := (List.zipWith XVal.mul a b).foldl (XVal.add .rne) (XVal.zero false)
def vcross (a b : List XVal) : List XVal :=
  let g := fun (l : List XVal) i => l.getD i (XVal.zero false)
  let m := fun i j => XVal.sub .rne (XVal.mul (g a i) (g b j)) (XVal.mul (g a j) (g b i))
  [m 1 2, m 2 0, m 0 1]

/-- Exact value with the sign of zero dropped. -/
def plainZero (x : XVal) : XVal := if x.isZero then XVal.zero false else x

/-- Test a triangle leaf's bytes (R290, R292, R445). -/
def Tracing.leaf (t : Tracing) (c : RayCfg) (f : Frame) (b : List Byte) : Tracing :=
  let vs := (List.range 9).map fun i => f32At b (4 * i)
  if vs.any XVal.wild then { t with inv := true }
  else
    let v0 := vs.take 3
    let e1 := vsub ((vs.drop 3).take 3) v0
    let e2 := vsub (vs.drop 6) v0
    let n := vcross e1 e2
    let nn := vdot n n
    let nd := vdot n f.d
    if nn.isZero || nd.isZero then t
    else
      let w0 := vsub f.o v0
      let tt := plainZero ((XVal.div (vdot n w0) nd).neg)
      let w := List.zipWith (fun x d => XVal.add .rne x (XVal.mul tt d)) w0 f.d
      let u := plainZero (XVal.div (vdot (vcross w e2) n) nn)
      let v := plainZero (XVal.div (vdot (vcross e1 w) n) nn)
      let inside := !u.sign && !v.sign && XVal.le (XVal.add .rne u v) (XVal.ofInt 1)
      let nocull := (fieldAt b 40 1).testBit 0 || (match f.inst with
        | some i => i.2
        | none => false)
      let culled := !nocull && ((c.cullb && !nd.sign) || (c.cullf && nd.sign))
      let better := match t.best with
        | some h => XVal.lt tt h.t
        | none => true
      if inside && XVal.le c.tmin tt && XVal.le tt c.tmax && !culled && better then
        { t with best := some ⟨tt, fieldAt b 36 4, (match f.inst with
            | some i => i.1
            | none => 0), u, v⟩ }
      else t

/-- The frame of an instance's bytes: none when its subtree yields no hit (R291, R445); and RAYINV. (DEDUCED, unsafe;
log entry 44.) -/
def instFrame (c : RayCfg) (b : List Byte) : Option (Nat × Frame) × Bool :=
  if (fieldAt b 60 1 &&& c.mask) = 0 then (none, false)
  else
    let m := fun r k => f32At b (16 * r + 4 * k)
    let rnd := fun x => Fmt.decode .fp32 (Fmt.round .fp32 .rne .none x)
    let row := fun r => [m r 0, m r 1, m r 2]
    let o := (List.range 3).map fun r => rnd (XVal.add .rne (vdot (row r) c.world.o) (m r 3))
    let d := (List.range 3).map fun r => rnd (vdot (row r) c.world.d)
    let blas := fieldAt b 48 8
    if blas % 64 != 0 then (none, true)
    else if blas == 0 || (o ++ d).any XVal.wild || d.all XVal.isZero then (none, false)
    else (some (blas, ⟨o, d, some ((fieldAt b 56 4 % 2 ^ 20) * 2 ^ 12 + fieldAt b 62 2 % 2 ^ 12, (fieldAt b 61 1).testBit 0)⟩),
      false)

/-- Leaves of a triangle run, in address order (R292). -/
def Tracing.run (t : Tracing) (c : RayCfg) (f : Frame) : Nat → Nat → Tracing
  | 0, _ => t
  | n + 1, va =>
    if t.fate.isSome then t
    else (t.read c va 48 fun t b => t.leaf c f b).run c f n ((va + 48) % 2 ^ 64)

/-- Expand a node with `left` levels below it still allowed (R292, R293): its children in the order of Hits, the first
entered at once, the others unless pruned or FIRST has its hit. A child below level 31 is not entered (R445). -/
def Tracing.expand (c : RayCfg) : Nat → Tracing → Nat → Frame → Tracing
  | 0, t, _, _ => { t with inv := true }
  | left + 1, t, node, f =>
    t.read c node 64 fun t b =>
      let h := hitsOf c f node b
      let t := { t with inv := t.inv || h.2 }
      let r := h.1.foldl (fun (acc : Tracing × Bool) x =>
        let t := acc.1
        if t.fate.isSome || (acc.2 && ((c.first && t.best.isSome) || XVal.lt (t.tbest c) x.entry)) then (t, true)
        else
          let t' := match x.kind with
            | 1 => Tracing.expand c left t x.addr f
            | 2 => t.run c f (x.count + 1) x.addr
            | _ =>
              t.read c x.addr 128 fun t b =>
                let i := instFrame c b
                let t := { t with inv := t.inv || i.2 }
                match i.1 with
                | some (blas, g) => Tracing.expand c left t blas g
                | none => t
          (t', true)) (t, false)
      r.1

/-! ### RAYT and RAYA (R294 to R297) -/

/-- What one lane's evaluation gives: its words, a poison mark, RAYINV. -/
abbrev LaneOut := List Word × Bool × Bool

/-- The four result words of a trace (Table 14.6). -/
def hitWords : Option Hit → List Word
  | none => [0x7F800000, 0xFFFFFFFF, 0xFFFFFFFF, 0]
  | some h =>
    let f16 := fun x => Fmt.convert .fp16 x .rne .none
    [fword (Fmt.round .fp32 .rne .none h.t), BitVec.ofNat 32 h.prim, BitVec.ofNat 32 h.key,
      BitVec.ofNat 32 (f16 h.v * 2 ^ 16 + f16 h.u)]

/-- Trace one ray (R295): its eight words, its root. A ray with tmin > tmax is a plain miss, whatever its root: R295 gives that,
and R445 RAYINV for a root that is not aligned; the manual orders the two nowhere (DESIGN CHOICE, unsafe; log entry 44). -/
def State.trace (s : State) (core ctx grid : Nat) (first cullb cullf : Bool) (mask : Nat) (ray : List Word) (root : Nat) :
    RtGot LaneOut :=
  let x := ray.map fval
  let o := x.take 3
  let d := (x.drop 3).take 3
  let tmin := x.getD 6 .nan
  let tmax := x.getD 7 .nan
  if (o ++ d).any XVal.wild || d.all XVal.isZero || tmin.isNan || tmax.isNan then
    .ok ([0x7F800000, 0xFFFFFFFF, 0xFFFFFFFF, 1], false, true) s
  else if XVal.lt tmax tmin || root == 0 then .ok (hitWords none, false, false) s
  else if root % 64 != 0 then .ok (hitWords none, false, true) s
  else
    let c : RayCfg := ⟨core, ctx, grid, first, cullb, cullf, mask, tmin, tmax, ⟨o, d, none⟩⟩
    let t := Tracing.expand c 32 ⟨s, none, false, false, none⟩ root c.world
    match t.fate with
    | some (va, f) => .stop va f t.inv t.s
    | none => .ok (hitWords t.best, t.bad, t.inv) t.s

/-- Evaluate the lanes of a ray or texture instruction in ascending order. -/
def State.rtLanes (s : State) (f : State → Nat → RtGot LaneOut) : List Nat → List (Nat × (LaneOut ⊕ (Nat × Fate × Bool))) × State
  | [] => ([], s)
  | l :: ls =>
    match f s l with
    | .ok r s =>
      let t := State.rtLanes s f ls
      ((l, .inl r) :: t.1, t.2)
    | .stop va e inv s =>
      let t := State.rtLanes s f ls
      ((l, .inr (va, e, inv)) :: t.1, t.2)

/-- An instruction enters its partition's queue of the RT port (R14). -/
def State.enterRt (s : State) (op : Nat) (texture : Bool) : State :=
  s.onCore s.wg.core fun c => { c with rtQ := c.rtQ.upd s.wave.partition fun q => q ++ [(s.wave.id, op, texture)] }

/-- The oldest entry of a queue that is texture work, or ray work, leaves it. -/
def takeEntry (texture : Bool) (q : List (Nat × Nat × Bool)) : List (Nat × Nat × Bool) := q.eraseP fun x => x.2.2 == texture

/-- A unit takes from the queues of the four partitions round-robin, one a cycle, and skips those that hold none of its work:
the partition it takes from (R14). -/
def Core.rtPick (c : Core) (texture : Bool) (turn : Nat) : Option Nat :=
  ((List.range 4).map fun i => (turn + i) % 4).find? fun p => (c.rtQ.get p).any fun x => x.2.2 == texture

/-- The ray unit and the texture unit take their next instructions (R14). -/
def Core.takeRt (c : Core) : Core :=
  let c := match c.rtPick false c.rayTurn with
    | some p => { c with rtQ := c.rtQ.upd p (takeEntry false), rayTurn := (p + 1) % 4 }
    | none => c
  match c.rtPick true c.texTurn with
  | some p => { c with rtQ := c.rtQ.upd p (takeEntry true), texTurn := (p + 1) % 4 }
  | none => c

/-- Has its unit taken an operation from its queue (R14)? -/
def State.rtTaken (s : State) (w : Wave) (o : Op) : Bool :=
  !((s.core (s.wgOf w.wg).core).rtQ.get w.partition).any fun x => x.1 == w.id && x.2.1 == o.id

/-- Issue a ray or texture instruction: the lanes that end write their registers on completion, those that met another
fault than NP trap after the last lane (R418), those that met NP park (R57, R296). An instruction takes an entry of its queue
whatever its lanes meet (R14). -/
def State.rtIssue (s : State) (texture : Bool) (traps : List Trap) (ls : List Nat) (d : Reg) (n : Nat)
    (f : State → Nat → RtGot LaneOut) : State :=
  s.run traps fun s =>
    if ls = [] then s
    else
      let all := s.actAll ls
      let r := s.rtLanes f ls
      let s := r.2
      let kill := r.1.findSome? fun x => match x.2 with
        | .inr (_, .poisoned a, _) => some a
        | _ => none
      match kill with
      | some a => s.walkPoison s.wg.ctx a s.wg.grid
      | none =>
        let absent := r.1.filterMap fun x => match x.2 with
          | .inr (va, .absent level pte, _) => some (⟨x.1, va, level, pte⟩ : Absent)
          | _ => none
        let ws := r.1.flatMap fun x => match x.2 with
          | .inl y => y.1.zipIdx.map fun w => (x.1, d.toNat + w.2, w.1, y.2.1)
          | _ => []
        let bad := r.1.filterMap fun x => match x.2 with
          | .inr (va, .trap code detail, _) => some (code, x.1, va, detail.toNat)
          | _ => none
        let inv := r.1.any fun x => match x.2 with
          | .inl y => y.2.2
          | .inr y => y.2.2
        let s := if inv then s.pennant flagRayinv else s
        let done := ls.filter fun l => !absent.any fun a => a.lane == l
        if done = [] then (s.enterRt (s.names + 1) texture).parkOp absent 1 .rtc (runOf d n) none all
        else
          let o := s.issueOp .rtc (runOf d n) done (.rt s.iss.pc s.iss.word0 s.iss.word1 (regWrites ws)) fun o =>
            { o with faults := bad }
          (o.2.enterRt o.1 texture).parkOp absent 1 .rtc (runOf d n) (some o.1) all

/-- A quadruple of v registers (R410). -/
def needV4 (d : Reg) (pos : Nat) : List Trap := require (d.toNat % 4 == 0 && decide (d.toNat ≤ 92)) (badReg d pos)

/-- RAYT (R294, R295). (DEDUCED, unsafe; log entry 35.) -/
def execRayt (g : Guard) (first cullb cullf : Bool) (mask : BitVec 8) (d a root : Reg) (s : State) : Answer :=
  .next (s.rtIssue false (needV4 d 25 ++ require (a.toNat % 8 == 0 && decide (a.toNat ≤ 88)) (badReg a 18) ++ needKPair root 11)
    (s.actG g) d 4 fun t l =>
      t.trace t.wg.core t.wg.ctx t.wg.grid first cullb cullf mask.toNat ((List.range 8).map fun i => s.src.read l (a.toNat + i))
        (s.rd2 root l).toNat)

/-- RAYA (R297). -/
def execRaya (g : Guard) (d a b : Reg) (s : State) : Answer :=
  .next (s.rtIssue false (require (decide (d.toNat ≤ 87)) (badReg d 25) ++ needPair a 18) (s.actG g) d 9 fun t l =>
    let va := ((s.rd2 a l).toNat + 48 * (s.rd b l).toNat) % 2 ^ 64
    if !canonical va then .stop va (.trap 0x20 0) false t
    else if va % 16 != 0 then .stop va (.trap 0x21 0) false t
    else (t.rtRead t.wg.core t.wg.ctx t.wg.grid va 48).bind fun r t => .ok (wordsOf 9 r.1, r.2, false) t)

/-! ### Textures (R298 to R302) -/

/-- A texture descriptor (Table 14.7). -/
structure Texture where
  base : Nat
  w : Nat
  h : Nat
  fmt : Nat
  levels : Nat
  addrU : Nat
  addrV : Nat
  deriving DecidableEq, Repr

/-- Read a descriptor's fields. -/
def textureOf (b : List Byte) : Texture :=
  ⟨fieldAt b 0 8, fieldAt b 8 2 + 1, fieldAt b 10 2 + 1, fieldAt b 16 1 % 8, fieldAt b 17 1 % 16 + 1, fieldAt b 18 1 % 4,
    fieldAt b 18 1 / 4 % 4⟩

/-- Bytes of a texel (Table 14.8). -/
def Texture.bytes (t : Texture) : Nat :=
  match t.fmt with
  | 3 => 8
  | 4 => 16
  | _ => 4

/-- Width and height of a level (R299). -/
def Texture.width (t : Texture) (i : Nat) : Nat := max 1 (t.w / 2 ^ i)
def Texture.height (t : Texture) (i : Nat) : Nat := max 1 (t.h / 2 ^ i)

/-- Row pitch of a level (R299). -/
def Texture.pitch (t : Texture) (i : Nat) : Nat := 16 * ceilDiv (t.width i * t.bytes) 16

/-- Offset of a level (R299). -/
def Texture.levelOff (t : Texture) : Nat → Nat
  | 0 => 0
  | i + 1 => t.levelOff i + 256 * ceilDiv (t.pitch i * t.height i) 256

/-- A coordinate on an axis of size n (R300); mode 3 clamps (R445). -/
def texCoord (mode : Nat) (x : Int) (n : Nat) : Nat :=
  match mode with
  | 0 => (x % (n : Int)).toNat
  | 2 =>
    let j := (x % (2 * (n : Int))).toNat
    if j < n then j else 2 * n - 1 - j
  | _ => (min (max x 0) ((n : Int) - 1)).toNat

/-- Address of a texel (R299). -/
def Texture.texelVa (t : Texture) (l : Nat) (x y : Int) : Nat :=
  (t.base + t.levelOff l + texCoord t.addrV y (t.height l) * t.pitch l + texCoord t.addrU x (t.width l) * t.bytes) % 2 ^ 64

/-- The four channels of a texel's bytes; a constant where the format has none (Table 14.8). -/
def Texture.channels (t : Texture) (b : List Byte) : List XVal :=
  let f := fun i => Fmt.decode .fp32 (fieldAt b (4 * i) 4)
  let h := fun i => Fmt.decode .fp16 (fieldAt b (2 * i) 2)
  match t.fmt with
  | 0 => [f 0, XVal.zero false, XVal.zero false, XVal.ofInt 1]
  | 1 => [h 0, h 1, XVal.zero false, XVal.ofInt 1]
  | 2 => (List.range 4).map fun i => un8 (fieldAt b i 1)
  | 3 => (List.range 4).map h
  | _ => (List.range 4).map f

/-- floor of an exact value. -/
def xfloor : XVal → Int
  | .fin s n d => Int.fdiv (XVal.snum s n) d
  | _ => 0

/-- floor(x * 256) of the fraction above an integer. -/
def frac256 (x : XVal) (i : Int) : Nat := (xfloor (XVal.mul (XVal.sub .rne x (XVal.ofInt i)) (XVal.ofInt 256))).toNat

/-- The texels of a bilinear sample with their weights in units of 2^-16 (R301). -/
def Texture.bilinear (t : Texture) (l : Nat) (u v : XVal) : List (Nat × Nat) :=
  let half' := XVal.fin false 1 2
  let x := XVal.sub .rne (XVal.mul u (XVal.ofInt (t.width l))) half'
  let y := XVal.sub .rne (XVal.mul v (XVal.ofInt (t.height l))) half'
  let i := xfloor x
  let j := xfloor y
  let fu := frac256 x i
  let fv := frac256 y j
  [(t.texelVa l i j, (256 - fu) * (256 - fv)), (t.texelVa l (i + 1) j, fu * (256 - fv)),
    (t.texelVa l i (j + 1), (256 - fu) * fv), (t.texelVa l (i + 1) (j + 1), fu * fv)]

/-- The texel of a nearest sample. -/
def Texture.nearest (t : Texture) (l : Nat) (u v : XVal) : List (Nat × Nat) :=
  [(t.texelVa l (xfloor (XVal.mul u (XVal.ofInt (t.width l)))) (xfloor (XVal.mul v (XVal.ofInt (t.height l)))), 1)]

/-- Clamp an exact value, infinite ones too, between 0 and LEVELS - 1. -/
def Texture.clampLevel (t : Texture) (x : XVal) : XVal :=
  xmin (xmax x (XVal.zero false)) (XVal.ofInt ((t.levels : Int) - 1))

/-- The level of nearest and bilinear sampling: the RNE integer of λ, clamped (R302). -/
def Texture.levelOf (t : Texture) (lod : XVal) : Nat :=
  match lod with
  | .fin s n d => (min (max (roundInt .rne s n d) 0) ((t.levels : Int) - 1)).toNat
  | .inf s => if s then 0 else t.levels - 1
  | .nan => 0

/-- Texels and weights of a sample (R301), weights in one unit; those of weight 0 are not read. -/
def Texture.sample (t : Texture) (filter : Nat) (u v lod : XVal) : List (Nat × Nat) × Nat :=
  match filter with
  | 0 => (t.nearest (t.levelOf lod) u v, 1)
  | 1 => ((t.bilinear (t.levelOf lod) u v).filter fun x => x.2 != 0, 2 ^ 16)
  | _ =>
    let c := t.clampLevel lod
    let l := (xfloor c).toNat
    let lf := frac256 c l
    let scale := fun (k : Nat) (xs : List (Nat × Nat)) => xs.map fun x => (x.1, x.2 * k)
    ((scale (256 - lf) (t.bilinear l u v) ++ (if lf = 0 then [] else scale lf (t.bilinear (l + 1) u v))).filter
      fun x => x.2 != 0, 2 ^ 24)

/-- The words of a texel's channels, as TEXG and TLD deliver them: the bits of an FP32 channel (R302, Table 14.8). -/
def Texture.words (t : Texture) (b : List Byte) : List Word :=
  let raw := fun i => BitVec.ofNat 32 (fieldAt b (4 * i) 4)
  match t.fmt with
  | 0 => [raw 0, 0, 0, 0x3F800000]
  | 4 => (List.range 4).map raw
  | _ => (t.channels b).map fun x => fword (Fmt.round .fp32 .rne .none x)

/-- Read texels: their bytes, and whether poison was read. -/
def State.texels (s : State) (core ctx grid : Nat) (t : Texture) : List Nat → RtGot (List (List Byte) × Bool)
  | [] => .ok ([], false) s
  | va :: vs =>
    (s.rtRead core ctx grid va t.bytes).bind fun r s =>
      (State.texels s core ctx grid t vs).bind fun q s => .ok (r.1 :: q.1, r.2 || q.2) s

/-- Four words of zeros, what a lane receives where nothing is sampled (R302, R445). -/
def zeros4 : LaneOut := ([0, 0, 0, 0], false, false)

/-- The exact weighted sum of a channel (R301). -/
def weighted (den : Nat) : List (Nat × XVal) → XVal
  | [] => XVal.zero false
  | x :: xs => xs.foldl (fun a y => XVal.add .rne a (XVal.mul y.2 (.fin false y.1 den))) (XVal.mul x.2 (.fin false x.1 den))

/-- Read a lane's descriptor; with one that is misaligned or of a reserved form the lane receives zeros (R302, R445). -/
def State.withTexture (s : State) (core ctx grid desc : Nat) (f : Texture → Bool → State → RtGot LaneOut) : RtGot LaneOut :=
  if desc % 32 != 0 then .ok zeros4 s
  else (s.rtRead core ctx grid desc 32).bind fun r s =>
    let t := textureOf r.1
    if 5 ≤ t.fmt ∨ t.base % 256 ≠ 0 then .ok ([0, 0, 0, 0], r.2, false) s else f t r.2 s

/-- Words the manual does not state: those of a sample at an infinite coordinate (DESIGN CHOICE, safe; log entry 1). -/
def State.freeWords (s : State) (n : Nat) : List Word × State :=
  ((List.range n).map fun i => Config.freeWord (s.fresh + i), { s with fresh := s.fresh + n })

/-- The checks of D, A and DESC (R302, R410). -/
def needTex (d a desc : Reg) (n : Nat) : List Trap :=
  needV4 d 25 ++ require (decide (a.toNat + n ≤ 96)) (badReg a 18) ++ needKPair desc 11

/-- The FP32 operands of TEX and TEXG in a lane. -/
def State.texArgs (s : State) (a : Reg) (lodx : Bool) (l : Nat) : XVal × XVal × XVal :=
  let x := fun i => fval (s.src.read l (a.toNat + i))
  (x 0, x 1, if lodx then x 2 else XVal.zero false)

/-- TEX (R301, R302). (DEDUCED, unsafe; log entry 35.) -/
def execTex (g : Guard) (filter : BitVec 2) (lodx : Bool) (d a desc : Reg) (s : State) : Answer :=
  .next (s.rtIssue true (needBelow filter.toNat 3 43 ++ needTex d a desc (if lodx then 3 else 2)) (s.actG g) d 4 fun q l =>
    let (u, v, lod) := s.texArgs a lodx l
    q.withTexture q.wg.core q.wg.ctx q.wg.grid (s.rd2 desc l).toNat fun t bad q =>
      if u.isNan || v.isNan || lod.isNan then .ok ([0, 0, 0, 0], bad, false) q
      else if u.isInf || v.isInf then let r := q.freeWords 4; .ok (r.1, bad, false) r.2
      else
        let smp := t.sample filter.toNat u v lod
        (q.texels q.wg.core q.wg.ctx q.wg.grid t (smp.1.map Prod.fst)).bind fun r q =>
          .ok ((List.range 4).map fun i =>
            if i = 3 ∧ t.fmt < 2 then 0x3F800000
            else fword (Fmt.round .fp32 .rne .none
              (weighted smp.2 (List.zipWith (fun x b => (x.2, (t.channels b).getD i (XVal.zero false))) smp.1 r.1))), bad || r.2, false) q)

/-- TEXG: one channel of the four bilinear texels (R302). -/
def execTexg (g : Guard) (lodx : Bool) (chan : BitVec 2) (d a desc : Reg) (s : State) : Answer :=
  .next (s.rtIssue true (needTex d a desc (if lodx then 3 else 2)) (s.actG g) d 4 fun q l =>
    let (u, v, lod) := s.texArgs a lodx l
    q.withTexture q.wg.core q.wg.ctx q.wg.grid (s.rd2 desc l).toNat fun t bad q =>
      if u.isNan || v.isNan || lod.isNan then .ok ([0, 0, 0, 0], bad, false) q
      else if u.isInf || v.isInf then let r := q.freeWords 4; .ok (r.1, bad, false) r.2
      else
        (q.texels q.wg.core q.wg.ctx q.wg.grid t ((t.bilinear (t.levelOf lod) u v).map Prod.fst)).bind fun r q =>
          .ok (r.1.map fun b => (t.words b).getD chan.toNat 0, bad || r.2, false) q)

/-- TLD: one texel by integer coordinates (R302). -/
def execTld (g : Guard) (lodx : Bool) (d a desc : Reg) (s : State) : Answer :=
  .next (s.rtIssue true (needTex d a desc (if lodx then 3 else 2)) (s.actG g) d 4 fun q l =>
    let x := fun i => s.src.read l (a.toNat + i)
    q.withTexture q.wg.core q.wg.ctx q.wg.grid (s.rd2 desc l).toNat fun t bad q =>
      let lev := if lodx then min (x 2).toNat (t.levels - 1) else 0
      (q.texels q.wg.core q.wg.ctx q.wg.grid t [t.texelVa lev (x 0).toInt (x 1).toInt]).bind fun r q =>
        .ok (t.words (r.1.headD []), bad || r.2, false) q)

/-- TEXQ: the size of a level, LEVELS and FMT (R302). -/
def execTexq (g : Guard) (d a desc : Reg) (s : State) : Answer :=
  .next (s.rtIssue true (needTex d a desc 1) (s.actG g) d 4 fun q l =>
    q.withTexture q.wg.core q.wg.ctx q.wg.grid (s.rd2 desc l).toNat fun t bad q =>
      let lev := min (s.rd a l).toNat (t.levels - 1)
      .ok ([BitVec.ofNat 32 (t.width lev), BitVec.ofNat 32 (t.height lev), BitVec.ofNat 32 t.levels, BitVec.ofNat 32 t.fmt],
        bad, false) q)

/-! ### Completion (R296, R418) -/

/-- The trap that the faults of an instruction's lanes give, raised in the part that holds the quad of the lowest lane
that met the lowest code; none when no part holds it (R418). -/
def State.rtTrap (s : State) (wave : Nat) (pc word0 word1 : Word) (faults : List (Nat × Nat × Nat × Nat)) : State :=
  match faults with
  | [] => s
  | f :: fs =>
    let code := fs.foldl (fun m x => min m x.1) f.1
    let those := faults.filter fun x => x.1 == code
    let lane := those.foldl (fun m x => min m x.2.1) 64
    let w := s.waveOf wave
    let g := s.wgOf w.wg
    match those.find? (fun x => x.2.1 == lane), w.parts.find? (fun p => p.members.getLsbD (lane / 4)) with
    | some x, some p =>
      let extra := if code = 0x25 then x.2.2.2 else (maskOf (those.map fun y => y.2.1)).toNat
      s.stopWave wave
        { code := code, flags := 0, part := p.word, pc := pc.toNat, word0 := word0.toNat, word1 := word1.toNat
          core := waveWord g.core w, va := x.2.2.1, extra := extra, wgindex := if g.descendant then 0 else g.index }
        (s.ctx g.ctx).debug 1
    | _, _ => s

/-- Another operation of the same instruction that has not completed: lanes that parked (R236). -/
def restOfGroup (w : Wave) (o : Op) : Option Op := w.ops.find? fun x => x.group == o.group && x.id != o.id && !x.done

/-- May a ray or texture operation that its unit has taken complete? One whose faults trap waits while its wave is stopped. -/
def rtDue (w : Wave) (o : Op) : Bool :=
  !o.done && (match o.kind with
    | .rt .. => o.faults == [] || w.stop.isNone
    | _ => false)

/-- RT_COMPLETE: the registers are written; the faults of lanes trap with the instruction's last lane (R68, R296,
R418). -/
def execRtComplete (wave op : Nat) (s : State) : Answer :=
  let w := s.waveOf wave
  let o := w.op op
  .next (s.when (s.hasWave wave && o.id != 0 && rtDue w o && s.rtTaken w o) fun s =>
    match o.kind with
    | .rt pc word0 word1 ws =>
      let s := s.mapWave wave fun w => w.writeRegs ws
      match restOfGroup w o with
      | some x =>
        (s.mapWave wave fun w => { w with ops := w.ops.map fun y =>
          if y.id = x.id then { y with faults := o.faults ++ y.faults } else y }).complete wave op
      | none => (s.complete wave op).rtTrap wave pc word0 word1 o.faults
    | _ => s)

/-- The ray and texture completions that are enabled (DESIGN CHOICE, unsafe; log entry 3). -/
def State.rtEvents (s : State) (w : Wave) : List Instr :=
  (w.ops.filter fun o => rtDue w o && s.rtTaken w o).map fun o => Instr.rtComplete w.id o.id

end Sys2Proof.Machine
end

