-- ==== Sys2Proof/Machine/Splats.lean ====
section
/-!
DEFINITION. Machine/Splats.lean: the splat engine: SPLAT.RUN, SPLAT.BWD and their events (15_splat_pipeline, R446, R447).
A command goes on through one tile at a time; a page that is not present parks it at the element it meets.
-/

namespace Sys2Proof.Machine

/-! ### Records (R308, R309) -/

/-- A pass record as read (Table 15.2). -/
structure Pass where
  gauss : Nat
  count : Nat
  flags : Nat
  view : List Word
  fx : Word
  fy : Word
  cx : Word
  cy : Word
  width : Nat
  height : Nat
  near : Word
  far : Word
  tcut : Word
  tileBeg : Nat
  tileCnt : Nat
  bg : Nat
  out : Nat
  tfin : Nat
  ncontrib : Nat
  ordtab : Nat
  ordlist : Nat
  ordcap : Nat
  dout : Nat
  grad : Nat
  rsv : Nat
  deriving DecidableEq, Repr

/-- Read a pass record's fields. -/
def passOf (b : List Byte) : Pass :=
  let w := fun off => BitVec.ofNat 32 (fieldAt b off 4)
  { gauss := fieldAt b 0 8, count := fieldAt b 8 4, flags := fieldAt b 12 4
    view := (List.range 12).map fun i => w (16 + 4 * i)
    fx := w 64, fy := w 68, cx := w 72, cy := w 76, width := fieldAt b 80 2, height := fieldAt b 82 2
    near := w 84, far := w 88, tcut := w 92, tileBeg := fieldAt b 96 4, tileCnt := fieldAt b 100 4
    bg := fieldAt b 104 8, out := fieldAt b 112 8, tfin := fieldAt b 120 8, ncontrib := fieldAt b 128 8
    ordtab := fieldAt b 136 8, ordlist := fieldAt b 144 8, ordcap := fieldAt b 152 4
    dout := fieldAt b 160 8, grad := fieldAt b 168 8, rsv := fieldAt b 156 4 + fieldAt b 176 16 }

/-- OUTF: 16-byte pixels. -/
def Pass.wide (p : Pass) : Bool := p.flags.testBit 0

/-- The tile grid (R309). -/
def Pass.tw (p : Pass) : Nat := ceilDiv p.width 16
def Pass.th (p : Pass) : Nat := ceilDiv p.height 16

/-- The tiles of the command. -/
def Pass.tiles (p : Pass) : List Nat := (List.range p.tileCnt).map fun i => p.tileBeg + i

/-- The error that a record's own fields give, or 0 (R446, Table 27.2). -/
def Pass.err (p : Pass) (bwd : Bool) : Nat :=
  if p.width = 0 ∨ p.height = 0 ∨ 2 ^ 28 < p.count ∨ 1 < p.flags ∨ p.rsv ≠ 0 ∨ p.tileCnt = 0 ∨ p.gauss % 16 ≠ 0 ∨ p.ordlist % 4 ≠ 0
      ∨ p.ordtab % 8 ≠ 0 ∨ p.ncontrib % 4 ≠ 0 ∨ p.tfin % 4 ≠ 0 ∨ p.out % (if p.wide then 16 else 8) ≠ 0 ∨ p.bg % 16 ≠ 0
      ∨ (bwd = true ∧ (p.dout % 16 ≠ 0 ∨ p.grad % 16 ≠ 0)) then 1
  else if p.tw * p.th < p.tileBeg + p.tileCnt then 11
  else 0

/-- A Gaussian's fields as FP32 words, which hold FP16 values exactly (Table 15.1). -/
structure Gaussian where
  mean : List Word
  lscale : List Word
  quat : List Word
  opac : Word
  rgb : List Word
  deriving DecidableEq, Repr

/-- An FP16 code as an FP32 word. -/
def widen16 (c : Nat) : Word := fword (Fmt.convert .fp32 (Fmt.decode .fp16 c) .rne .none)

/-- Read a Gaussian. -/
def gaussianOf (b : List Byte) : Gaussian :=
  let h := fun off n => (List.range n).map fun i => widen16 (fieldAt b (off + 2 * i) 2)
  ⟨wordsOf 3 b, h 12 3, h 18 4, widen16 (fieldAt b 26 2), h 28 3⟩

/-! ### FP32 arithmetic, one rounding each (R311) -/

/-- A word's value is neither NaN nor infinite. -/
def finite32 (x : Word) : Bool := !(fval x).wild

/-- An FP32 word with its sign changed. -/
def neg32 (x : Word) : Word := x ^^^ 0x80000000

/-- Products summed in ascending index. (DEDUCED, unsafe; log entry 46.) -/
def dot32 (a b : List Word) : Word :=
  match List.zipWith fmul32 a b with
  | [] => 0
  | x :: xs => xs.foldl fadd32 x

/-- e^x: exactly 1 at 0, else the device's own bits within 2 ulp (R311; DESIGN CHOICE, safe; log entry 7). -/
def exp32 (x : Word) : Word :=
  match fval x with
  | .nan => fword (Fmt.nan .fp32)
  | .inf s => if s then 0 else 0x7F800000
  | .fin s n d =>
    if n = 0 then 0x3F800000
    else
      let e := expEncl s n d
      e.pick (e.ulps 2) false (Config.splatExp x)

/-- Column `c` of a matrix of rows. -/
def column (m : List (List Word)) (c : Nat) : List Word := m.map fun r => r.getD c 0

/-- Everything that R311 computes of a Gaussian. -/
structure Proj where
  index : Nat
  g : Gaussian
  p : List Word
  n : Word
  q : List Word
  rot : List (List Word)
  sc : List Word
  mx3 : List (List Word)
  sigma : List (List Word)
  tm : List (List Word)
  a : Word
  b : Word
  c : Word
  det : Word
  ca : Word
  cb : Word
  cc : Word
  rad : XVal
  mx : Word
  my : Word
  deriving DecidableEq, Repr

/-- The world-to-camera rotation and translation (R311). -/
def Pass.rows (p : Pass) : List (List Word) := (List.range 3).map fun r => (p.view.drop (4 * r)).take 3
def Pass.trans (p : Pass) : List Word := (List.range 3).map fun r => p.view.getD (4 * r + 3) 0

def one32 : Word := 0x3F800000
def two32 : Word := 0x40000000

/-- The rotation of a normalised quaternion (R311). -/
def rotOf (w x y z : Word) : List (List Word) :=
  let m := fmul32
  let dia := fun a b => fsub32 one32 (m two32 (fadd32 (m a a) (m b b)))
  let sum := fun a b c d => m two32 (fadd32 (m a b) (m c d))
  let dif := fun a b c d => m two32 (fsub32 (m a b) (m c d))
  [[dia y z, dif x y w z, sum x z w y], [sum x y w z, dia x z, dif y z w x], [dif x z w y, sum y z w x, dia x y]]

/-- Product of matrices of rows. -/
def matmul (a b : List (List Word)) : List (List Word) :=
  a.map fun r => (List.range (b.headD []).length).map fun c => dot32 r (column b c)

/-- Transpose of a matrix with three columns. -/
def transpose3 (a : List (List Word)) : List (List Word) := (List.range 3).map fun c => column a c

/-- ceil of an exact value. -/
def xceil (x : XVal) : XVal := (XVal.ofInt (-(xfloor x.neg)))

/-- Project: none when the Gaussian is culled (R311). (DEDUCED, unsafe; log entry 46.) -/
def Pass.project (p : Pass) (index : Nat) (g : Gaussian) : Option Proj :=
  if (g.mean ++ g.lscale ++ g.quat ++ [g.opac] ++ g.rgb).any fun x => !finite32 x then none
  else
    let cam := List.zipWith (fun r t => fadd32 (dot32 r g.mean) t) p.rows p.trans
    let x := cam.getD 0 0
    let y := cam.getD 1 0
    let z := cam.getD 2 0
    if XVal.lt (fval z) (fval p.near) || XVal.lt (fval p.far) (fval z) || !XVal.lt (XVal.zero false) (fval z) then none
    else
      let n := fsqrt32 .rne (dot32 g.quat g.quat)
      if (fval n).isZero then none
      else
        let q := g.quat.map fun c => fdiv32 c n
        let rot := rotOf (q.getD 0 0) (q.getD 1 0) (q.getD 2 0) (q.getD 3 0)
        let sc := g.lscale.map exp32
        let mx3 := rot.map fun r => List.zipWith fmul32 r sc
        let sigma := matmul mx3 (transpose3 mx3)
        let zz := fmul32 z z
        let j := [[fdiv32 p.fx z, 0, fdiv32 (fmul32 (neg32 p.fx) x) zz], [0, fdiv32 p.fy z, fdiv32 (fmul32 (neg32 p.fy) y) zz]]
        let tm := matmul j p.rows
        let s2 := matmul (matmul tm sigma) (transpose3 tm)
        let at' := fun r c => (s2.getD r []).getD c 0
        let a := fadd32 (at' 0 0) 0x3E99999A
        let b := at' 0 1
        let c := fadd32 (at' 1 1) 0x3E99999A
        let det := fsub32 (fmul32 a c) (fmul32 b b)
        if !XVal.lt (XVal.zero false) (fval det) then none
        else
          let ca := fdiv32 c det
          let cb := fdiv32 (neg32 b) det
          let cc := fdiv32 a det
          let mid := fdiv32 (fadd32 a c) two32
          let disc := fsub32 (fmul32 mid mid) det
          let lam := fadd32 mid (fsqrt32 .rne (if XVal.lt (fval disc) (XVal.zero false) then 0 else disc))
          let r3 := fmul32 0x40400000 (fsqrt32 .rne lam)
          let mx := fadd32 (fdiv32 (fmul32 p.fx x) z) p.cx
          let my := fadd32 (fdiv32 (fmul32 p.fy y) z) p.cy
          if [ca, cb, cc, lam, r3, mx, my].any fun v => !finite32 v then none
          else some ⟨index, g, cam, n, q, rot, sc, mx3, sigma, tm, a, b, c, det, ca, cb, cc, xceil (fval r3), mx, my⟩

/-- The tiles a Gaussian covers on an axis of `n` tiles, from a mean and a radius (R312). -/
def coverAxis (m : Word) (rad : XVal) (n : Nat) : List Nat :=
  let edge := fun (x : XVal) => xfloor (XVal.div (fval (fword (Fmt.round .fp32 .rne .none x))) (XVal.ofInt 16))
  let lo := max 0 (edge (XVal.sub .rne (fval m) rad))
  let hi := min ((n : Int) - 1) (edge (XVal.add .rne (fval m) rad))
  (List.range n).filter fun t => decide (lo ≤ (t : Int)) && decide ((t : Int) ≤ hi)

/-- The tiles of the command that a Gaussian covers (R312). -/
def Pass.covers (p : Pass) (g : Proj) : List Nat :=
  let xs := coverAxis g.mx g.rad p.tw
  let ys := coverAxis g.my g.rad p.th
  (ys.flatMap fun y => xs.map fun x => x + p.tw * y).filter fun t =>
    decide (p.tileBeg ≤ t) && decide (t < p.tileBeg + p.tileCnt)

/-! ### Sort (R313, R447) -/

/-- Insert by p.z, after those of equal depth and lower index (R313). -/
def insertDepth (g : Proj) : List Proj → List Proj
  | [] => [g]
  | h :: hs =>
    let k := fun (x : Proj) => ((x.p.getD 2 0).toNat, x.index)
    if (k h).1 < (k g).1 || ((k h).1 == (k g).1 && (k h).2 < (k g).2) then h :: insertDepth g hs else g :: h :: hs

/-- A tile's full list, front to back. -/
def Pass.fullList (p : Pass) (gs : List Proj) (t : Nat) : List Proj :=
  (gs.filter fun g => (p.covers g).contains t).foldr insertDepth []

/-- The largest q with Σ min(k, q) ≤ cap, from a bound down (R447). -/
def largestCut (ks : List Nat) (cap : Nat) : Nat → Nat
  | 0 => 0
  | q + 1 => if (ks.map fun k => min k (q + 1)).foldl (· + ·) 0 ≤ cap then q + 1 else largestCut ks cap q

/-- Room left over, one key at a time to the lists longer than q (R447). -/
def giveRest (q : Nat) : Nat → List Nat → List Nat
  | _, [] => []
  | r, k :: ks => if q < k ∧ 0 < r then (q + 1) :: giveRest q (r - 1) ks else min k q :: giveRest q r ks

/-- Lengths kept of lists of the lengths given (R447). -/
def keptLengths (ks : List Nat) (cap : Nat) : List Nat :=
  if ks.foldl (· + ·) 0 ≤ cap then ks
  else
    let q := largestCut ks cap (ks.foldl max 0)
    giveRest q (cap - (ks.map fun k => min k q).foldl (· + ·) 0) ks

/-- The stored lists of a pass: tile, start, list (R313, R447). -/
def placeLists : Nat → List (Nat × List Proj) → List (Nat × Nat × List Proj)
  | _, [] => []
  | at', (t, l) :: ls => (t, at', l) :: placeLists (at' + l.length) ls

/-- Lists, TRUNC and NVIS of a pass (R313, R318, R447). -/
def Pass.lists (p : Pass) (gs : List Proj) : List (Nat × Nat × List Proj) × Bool × Nat :=
  let full := p.tiles.map fun t => (t, p.fullList gs t)
  let ks := full.map fun x => x.2.length
  let kept := List.zipWith (fun (x : Nat × List Proj) n => (x.1, x.2.take n)) full (keptLengths ks p.ordcap)
  (placeLists 0 kept, decide (p.ordcap < ks.foldl (· + ·) 0), (gs.filter fun g => p.covers g != []).length)

/-! ### Blend (R314) -/

def alphaMin : Word := 0x3B808081
def alphaMax : Word := 0x3F7D70A4

/-- dx, dy and pw of a Gaussian at a pixel. -/
def Proj.power (g : Proj) (i j : Nat) : Word × Word × Word :=
  let mid := fun (k : Nat) => fadd32 (fword (Fmt.round .fp32 .rne .none (XVal.ofInt k))) 0x3F000000
  let dx := fsub32 (mid i) g.mx
  let dy := fsub32 (mid j) g.my
  let e := fmul32 0xBF000000 (fadd32 (fmul32 g.ca (fmul32 dx dx)) (fmul32 g.cc (fmul32 dy dy)))
  (dx, dy, fsub32 e (fmul32 (fmul32 g.cb dx) dy))

/-- exp(pw) and α of a Gaussian at a pixel; none when it is skipped. -/
def Proj.alpha (g : Proj) (i j : Nat) : Option (Word × Word × Bool) :=
  let pw := (g.power i j).2.2
  if XVal.le (fval pw) (XVal.zero false) then
    let e := exp32 pw
    let x := fmul32 g.g.opac e
    let clamped := XVal.lt (fval alphaMax) (fval x)
    let al := if clamped then alphaMax else x
    if XVal.le (fval alphaMin) (fval al) then some (e, al, clamped) else none
  else none

/-- C + w × colour, fused. -/
def fuse32 (c w x : Word) : Word := fword (Fmt.round .fp32 .rne .none (XVal.add .rne (fval c) (XVal.mul (fval w) (fval x))))

/-- The walk of a pixel's list: T, C, n (R314). -/
def blendWalk (tcut : Word) (i j : Nat) : List Proj → Word × List Word × Nat → Word × List Word × Nat
  | [], a => a
  | g :: gs, (t, c, n) =>
    match g.alpha i j with
    | none => blendWalk tcut i j gs (t, c, n + 1)
    | some (_, al, _) =>
      let tn := fmul32 t (fsub32 one32 al)
      if XVal.lt (fval tn) (fval tcut) then (t, c, n)
      else
        let w := fmul32 al t
        let rgb := List.zipWith (fun x y => fuse32 x w y) (c.take 3) g.g.rgb
        blendWalk tcut i j gs (tn, rgb ++ [fadd32 (c.getD 3 0) w], n + 1)

/-- The bytes of OUT for a pixel (R314). -/
def Pass.outBytes (p : Pass) (t : Word) (c bg : List Word) : List Byte :=
  (List.range 4).flatMap fun ch =>
    let x := XVal.add .rne (fval (c.getD ch 0)) (XVal.mul (fval t) (fval (bg.getD ch 0)))
    if p.wide then leBytes 4 (Fmt.convert .fp32 x .rne .none) else leBytes 2 (Fmt.convert .fp16 x .rne .none)

/-- The pixels of a tile that lie in the image. -/
def Pass.pixels (p : Pass) (t : Nat) : List (Nat × Nat) :=
  ((List.range 256).map fun k => (16 * (t % max 1 p.tw) + k % 16, 16 * (t / max 1 p.tw) + k / 16)).filter fun x =>
    decide (x.1 < p.width) && decide (x.2 < p.height)

/-- Element of a pixel in a per-pixel buffer (R309). -/
def Pass.elem (p : Pass) (i j : Nat) : Nat := j * p.width + i

/-- Address `n` bytes on, modulo 2^64. -/
def va64 (a n : Nat) : Nat := (a + n) % 2 ^ 64

/-! ### Backward pass (R315, R316) -/

/-- A value rounded to `b` significant bits. -/
def XVal.toBits (b : Nat) (x : XVal) : XVal :=
  match x with
  | .fin s n d =>
    if n = 0 then x
    else
      let q := floorLog2 n d - (b - 1 : Nat)
      let u := inUnits n d q
      let m := u.1 / u.2
      XVal.scaled s (if roundsUp .rne s m (restOf (u.1 % u.2) u.2) then m + 1 else m) q
  | x => x

/-- An intermediate value of a gradient as the engine holds it: in FP32, or in a wider format (R315). `k` names the command and
pixel, `tag` the operation. -/
def hold (k tag : Nat) (x : XVal) : XVal :=
  match x with
  | .fin _ n d =>
    match Config.gradWidth k tag n d with
    | 0 => fval (fword (Fmt.round .fp32 .rne .none x))
    | w => x.toBits (24 + w)
  | x => x

/-- An order of `n` things that the engine chooses (R315, R316). -/
def gradOrder (k n : Nat) : List Nat :=
  let o := Config.gradOrder k n
  if o.length = n ∧ distinct o = List.range n then o else List.range n

/-- The arithmetic of the gradients, each result held as the engine chooses, a sum in the order it chooses (R315). -/
def gAdd (k : Nat) (x y : XVal) : XVal := hold k 0 (XVal.add .rne x y)
def gSub (k : Nat) (x y : XVal) : XVal := hold k 1 (XVal.sub .rne x y)
def gMul (k : Nat) (x y : XVal) : XVal := hold k 2 (XVal.mul x y)
def gDiv (k : Nat) (x y : XVal) : XVal := hold k 3 (XVal.div x y)
def gSum (k : Nat) (l : List XVal) : XVal :=
  match (gradOrder k l.length).map fun i => l.getD i (XVal.zero false) with
  | [] => XVal.zero false
  | x :: xs => xs.foldl (gAdd k) x

/-- Entry of a matrix of words as an exact value. -/
def mat (m : List (List Word)) (r c : Nat) : XVal := fval ((m.getD r []).getD c 0)

/-- Gradients of a mean and conic carried back to LSCALE, QUAT and MEAN: 3, 4 and 3 values (R315). -/
def Proj.back (g : Proj) (p : Pass) (k : Nat) (dmx dmy dca dcb dcc : XVal) : List XVal × List XVal × List XVal :=
  let xa := gAdd k
  let xs := gSub k
  let xm := gMul k
  let xd := gDiv k
  let xsum := gSum k
  let two := XVal.ofInt 2
  let idx := List.range 3
  let a := fval g.a
  let b := fval g.b
  let c := fval g.c
  let det := fval g.det
  let gdet := xd (xs (xs (xm dcb b) (xm dca c)) (xm dcc a)) (xm det det)
  let ga := xa (xd dcc det) (xm gdet c)
  let gb := xs ((xd dcb det).neg) (xm two (xm b gdet))
  let gc := xa (xd dca det) (xm gdet a)
  let t := mat g.tm
  let gSig := fun i j => xsum [xm ga (xm (t 0 i) (t 0 j)), xm gb (xm (t 0 i) (t 1 j)), xm gc (xm (t 1 i) (t 1 j))]
  let sg := mat g.sigma
  let gT0 := fun i => xsum (idx.map fun j => xa (xm ga (xm (xa (sg i j) (sg j i)) (t 0 j))) (xm gb (xm (sg i j) (t 1 j))))
  let gT1 := fun i => xsum (idx.map fun j => xa (xm gc (xm (xa (sg i j) (sg j i)) (t 1 j))) (xm gb (xm (sg j i) (t 0 j))))
  let gM := fun i k => xsum (idx.map fun j => xm (xa (gSig i j) (gSig j i)) (mat g.mx3 j k))
  let sc := fun k => fval (g.sc.getD k 0)
  let gls := idx.map fun k => xsum (idx.map fun i => xm (gM i k) (xm (mat g.rot i k) (sc k)))
  let r := fun i k => xm (gM i k) (sc k)
  let q := fun i => fval (g.q.getD i 0)
  let w := q 0
  let x := q 1
  let y := q 2
  let z := q 3
  let gq := [
    xm two (xsum [(xm z (r 0 1)).neg, xm y (r 0 2), xm z (r 1 0), (xm x (r 1 2)).neg, (xm y (r 2 0)).neg, xm x (r 2 1)]),
    xm two (xsum [xm y (r 0 1), xm z (r 0 2), xm y (r 1 0), (xm two (xm x (r 1 1))).neg, (xm w (r 1 2)).neg, xm z (r 2 0),
      xm w (r 2 1), (xm two (xm x (r 2 2))).neg]),
    xm two (xsum [(xm two (xm y (r 0 0))).neg, xm x (r 0 1), xm w (r 0 2), xm x (r 1 0), xm z (r 1 2), (xm w (r 2 0)).neg,
      xm z (r 2 1), (xm two (xm y (r 2 2))).neg]),
    xm two (xsum [(xm two (xm z (r 0 0))).neg, (xm w (r 0 1)).neg, xm x (r 0 2), xm w (r 1 0), (xm two (xm z (r 1 1))).neg,
      xm y (r 1 2), xm x (r 2 0), xm y (r 2 1)])]
  let along := xsum (List.zipWith xm gq [w, x, y, z])
  let gquat := List.zipWith (fun v u => xd (xs v (xm u along)) (fval g.n)) gq [w, x, y, z]
  let W := mat p.rows
  let gJ := fun (gT : Nat → XVal) k => xsum (idx.map fun c => xm (gT c) (W k c))
  let fx := fval p.fx
  let fy := fval p.fy
  let px := fval (g.p.getD 0 0)
  let py := fval (g.p.getD 1 0)
  let pz := fval (g.p.getD 2 0)
  let z2 := xm pz pz
  let z3 := xm z2 pz
  let gx := xs (xd (xm dmx fx) pz) (xd (xm (gJ gT0 2) fx) z2)
  let gy := xs (xd (xm dmy fy) pz) (xd (xm (gJ gT1 2) fy) z2)
  let gz := xsum [(xd (xm (gJ gT0 0) fx) z2).neg, xd (xm two (xm (gJ gT0 2) (xm fx px))) z3,
    (xd (xm (gJ gT1 1) fy) z2).neg, xd (xm two (xm (gJ gT1 2) (xm fy py))) z3,
    (xd (xm dmx (xm fx px)) z2).neg, (xd (xm dmy (xm fy py)) z2).neg]
  let gp := [gx, gy, gz]
  (gls, gquat, idx.map fun c => xsum (idx.map fun k => xm (gp.getD k (XVal.zero false)) (W k c)))

/-- The 19 contributions of one blended Gaussian at a pixel, in the order of Table 15.3, from g = DOUT, T_i and B_i. -/
def Proj.grads (g : Proj) (p : Pass) (k i j : Nat) (e al : Word) (clamped : Bool) (gd bi : List XVal) (ti : XVal) : List Word :=
  let xa := gAdd k
  let xs := gSub k
  let xm := gMul k
  let xd := gDiv k
  let xsum := gSum k
  let z := XVal.zero false
  let w := xm (fval al) ti
  let colour := (g.g.rgb.map fval) ++ [XVal.ofInt 1]
  let ch := List.range 4
  let dal := xsum (ch.map fun c => xm (gd.getD c z)
    (xs (xm ti (colour.getD c z)) (xd (bi.getD c z) (xs (XVal.ofInt 1) (fval al)))))
  let dal' := if clamped then z else dal
  let pw := g.power i j
  let dx := fval pw.1
  let dy := fval pw.2.1
  let dpw := xm dal' (fval al)
  let ca := fval g.ca
  let cb := fval g.cb
  let cc := fval g.cc
  let dmx := xm dpw (xa (xm ca dx) (xm cb dy))
  let dmy := xm dpw (xa (xm cb dx) (xm cc dy))
  let h := XVal.fin true 1 2
  let dca := xm dpw (xm h (xm dx dx))
  let dcb := xm dpw (xm dx dy).neg
  let dcc := xm dpw (xm h (xm dy dy))
  let bk := g.back p k dmx dmy dca dcb dcc
  (bk.2.2 ++ bk.1 ++ bk.2.1 ++ [xm dal' (fval e)] ++ ((List.range 3).map fun c => xm w (gd.getD c z))
    ++ [dmx, dmy, dca, dcb, dcc]).map fun x => fword (Fmt.round .fp32 .rne .none (plainZero x))

/-- The contributions of a pixel, the last blended entry first (R315): Gaussian and 19 words. -/
def replay (p : Pass) (k i j : Nat) (gd : List XVal) : List Proj → XVal → List XVal → List (Nat × List Word)
  | [], _, _ => []
  | g :: gs, t, bi =>
    match g.alpha i j with
    | none => replay p k i j gd gs t bi
    | some (e, al, clamped) =>
      let k' := k * 2 ^ 28 + g.index
      let ti := gDiv k' t (gSub k' (XVal.ofInt 1) (fval al))
      let w := gMul k' (fval al) ti
      let colour := (g.g.rgb.map fval) ++ [XVal.ofInt 1]
      (g.index, g.grads p k' i j e al clamped gd bi ti)
        :: replay p k i j gd gs ti (List.zipWith (fun b c => gAdd k' b (gMul k' w c)) bi colour)

/-- An atomic FP32 add of an engine at a home slice (R316); in an open region it acts on the shadow frame (R246). -/
def State.engAdd (s : State) (sect ctx grid va : Nat) (x : Word) : EngRes State :=
  match s.checkVa sect ctx va 4 ⟨true, true, false, true⟩ with
  | .trap .. => .stop (.err 4) s
  | .absent level pte => .stop (.park va level 11 pte) s
  | .poisoned a => .stop (.kill a) s
  | _ => (s.engPlace sect ctx grid va).bind fun r =>
    if r.2.2.poisoned r.1 4 then .stop (.err 6) (r.2.2.consumed r.1 3 ctx grid)
    else
      let bs := leBytes 4 (applyAtomic 10 1 (r.2.2.readNat r.1 4) x.toNat 0)
      .ok ((r.2.2.writeUncached r.1 bs).l2Lines r.1 4 r.2.1)

/-- Put a contribution behind those to be added: with those to its word, where the engine combines them (R316). -/
def combineInto (k : Nat) (l : List (Nat × Word)) (x : Nat × Word) : List (Nat × Word) :=
  if Config.gradCombine k x.1 && l.any fun y => y.1 == x.1 then l.map fun y => if y.1 = x.1 then (y.1, fadd32 y.2 x.2) else y
  else l ++ [x]

/-- The adds that the engine makes of a tile's contributions: in an order, and combined, as it chooses (R316; DESIGN CHOICE,
unsafe; log entry 8). -/
def combineAdds (k : Nat) (xs : List (Nat × Word)) : List (Nat × Word) :=
  ((gradOrder k xs.length).filterMap fun i => xs[i]?).foldl (combineInto k) []

/-! ### Steps of a pass (R319, R321) -/

/-- What a step of a pass gives: the command, the state, and what stopped it. -/
abbrev PassStep := Cmd × State × Option EngEnd

/-- Go on with a pass unless it has stopped. -/
def PassStep.andThen (x : PassStep) (f : Cmd → State → PassStep) : PassStep :=
  match x.2.2 with
  | none => f x.1 x.2.1
  | some _ => x

/-- A step for each thing of a list, until one stops. -/
def passEach {α : Type} (f : Cmd → State → α → PassStep) : List α → Cmd → State → PassStep
  | [], c, s => (c, s, none)
  | a :: as, c, s => (f c s a).andThen (passEach f as)

/-- Read what a command still lacks of a row of spans, address and length, of which it has read `c.out`; `at'` is where the
first begins among them. -/
def passRead (sect : Nat) : List (Nat × Nat) → Nat → Cmd → State → PassStep
  | [], _, c, s => (c, s, none)
  | (va, n) :: xs, at', c, s =>
    let have' := min n (c.out.length - at')
    let r := s.engReadSome sect c.ctx c.grid (va64 va have') (n - have')
    PassStep.andThen ({ c with out := c.out ++ r.1 }, r.2) (passRead sect xs (at' + n))

/-- Write the pieces that a command has not written yet, of which it has written `c.nibbles`. -/
def passWrite (sect : Nat) (pieces : List (Nat × List Byte)) (c : Cmd) (s : State) : PassStep :=
  passEach (fun c s (x : Nat × List Byte) => match s.engWrite sect c.ctx c.grid x.1 x.2 with
    | .ok s => ({ c with nibbles := c.nibbles + 1 }, s, none)
    | .stop e s => (c, s, some e)) (pieces.drop c.nibbles) c s

/-- The Gaussians that a pass has read, projected (R311). -/
def Pass.gaussians (p : Pass) (data : List Byte) : List Proj :=
  (List.range p.count).filterMap fun i => p.project i (gaussianOf ((data.drop (48 * i)).take 48))

/-- The pieces of the tile table and the order list (R313). -/
def Pass.listPieces (p : Pass) (ls : List (Nat × Nat × List Proj)) : List (Nat × List Byte) :=
  ls.flatMap fun x => (va64 p.ordtab (8 * x.1), leBytes 4 x.2.1 ++ leBytes 4 x.2.2.length)
    :: x.2.2.zipIdx.map fun g => (va64 p.ordlist (4 * (x.2.1 + g.2)), leBytes 4 g.1.index)

/-- Pixels of a command in order: tile, position, number. -/
def Pass.order (p : Pass) : List ((Nat × Nat × Nat) × Nat) :=
  (p.tiles.flatMap fun t => (p.pixels t).map fun x => (t, x.1, x.2)).zipIdx

/-- The background of a pixel, as a span to read. -/
def Pass.bgSpan (p : Pass) (e : Nat) : List (Nat × Nat) := if p.bg = 0 then [] else [(va64 p.bg (16 * e), 16)]

/-- The background as read. -/
def Pass.bgOf (p : Pass) (b : List Byte) : List Word := if p.bg = 0 then [0, 0, 0, 0] else wordsOf 4 b

/-- Done with a pixel. -/
def Cmd.nextPixel (c : Cmd) (s : State) : PassStep := ({ c with progress := c.progress + 1, out := [], nibbles := 0 }, s, none)

/-- Blend a pixel and write its buffers (R314). -/
def Pass.blend (p : Pass) (sect : Nat) (ls : List (Nat × Nat × List Proj)) (t i j : Nat) (c : Cmd) (s : State) : PassStep :=
  let e := p.elem i j
  (passRead sect (p.bgSpan e) 0 c s).andThen fun c s =>
    let l := ((ls.find? fun y => y.1 == t).map fun y => y.2.2).getD []
    let b := blendWalk p.tcut i j l (one32, [0, 0, 0, 0], 0)
    let pieces := [(va64 p.out ((if p.wide then 16 else 8) * e), p.outBytes b.1 b.2.1 (p.bgOf c.out)),
      (va64 p.tfin (4 * e), leBytes 4 b.1.toNat), (va64 p.ncontrib (4 * e), leBytes 4 b.2.2)]
    (passWrite sect pieces c s).andThen Cmd.nextPixel

/-- Replay a pixel: its contributions join those of its tile (R315). The tile table says whether its list was truncated
(R318). -/
def Pass.unblend (p : Pass) (sect : Nat) (gs : List Proj) (t i j : Nat) (c : Cmd) (s : State) : PassStep :=
  let e := p.elem i j
  let head := [(va64 p.ncontrib (4 * e), 4), (va64 p.ordtab (8 * t), 8), (va64 p.tfin (4 * e), 4), (va64 p.dout (16 * e), 16)]
    ++ p.bgSpan e
  (passRead sect head 0 c s).andThen fun c s =>
    let count := fieldAt c.out 8 4
    let n := min (fieldAt c.out 0 4) count
    let len := 32 + if p.bg = 0 then 0 else 16
    (passRead sect [(va64 p.ordlist (4 * fieldAt c.out 4 4), 4 * n)] len c s).andThen fun c s =>
      let l := (wordsOf n (c.out.drop len)).filterMap fun w => gs.find? fun g => g.index == w.toNat
      let tfin := fval (BitVec.ofNat 32 (fieldAt c.out 12 4))
      let k := c.id * 2 ^ 32 + c.progress
      let bg := (p.bgOf (c.out.drop 32)).map fun b => gMul k tfin (fval b)
      let cs := replay p k i j ((wordsOf 4 (c.out.drop 16)).map fval) l.reverse tfin bg
      let adds := cs.flatMap fun x => x.2.zipIdx.map fun w => (va64 p.grad (80 * x.1 + 4 * w.2), w.1)
      Cmd.nextPixel { c with
        adds := c.adds ++ adds, seen := distinct (c.seen ++ cs.map Prod.fst)
        trunc := c.trunc || decide (count < (p.fullList gs t).length) } s

/-- Add what is left of a tile's contributions (R316). -/
def passAdd (sect : Nat) (c : Cmd) (s : State) : PassStep :=
  passEach (fun c s (x : Nat × Word) => match s.engAdd sect c.ctx c.grid x.1 x.2 with
    | .ok s => ({ c with adds := c.adds.drop 1 }, s, none)
    | .stop e s => (c, s, some e)) c.adds c s

/-- Read what is left of the Gaussians and, for a SPLAT.RUN, write what is left of the lists (R311, R313, R447). -/
def Pass.prepare (p : Pass) (sect : Nat) (bwd : Bool) (c : Cmd) (s : State) : PassStep :=
  let r := s.engReadSome sect c.ctx c.grid (va64 p.gauss c.data.length) (48 * p.count - c.data.length)
  PassStep.andThen ({ c with data := c.data ++ r.1 }, r.2) fun c s =>
    if bwd then (c, s, none)
    else
      let ls := p.lists (p.gaussians c.data)
      (passWrite sect (p.listPieces ls.1) { c with trunc := ls.2.1 } s).andThen fun c s => ({ c with nibbles := 0 }, s, none)

/-- Go on with a pass, through the tile it has reached: it prepares first, and goes from pixel to pixel in the order of tiles; a
replayed tile's contributions are added behind its last pixel. `c.methods` is 1 once it has prepared. -/
def Pass.advance (p : Pass) (sect : Nat) (bwd : Bool) (c : Cmd) (s : State) : PassStep :=
  if c.methods = 0 then (p.prepare sect bwd c s).andThen fun c s => ({ c with methods := 1 }, s, none)
  else
    let gs := p.gaussians c.data
    let left := p.order.drop c.progress
    let tile := match left with
      | [] => none
      | x :: _ => some (x, decide (p.order.any fun y => y.1.1 == x.1.1 && decide (y.2 < x.2)))
    match tile with
    | none => passAdd sect c s
    | some (x, inside) =>
      if c.adds ≠ [] ∧ inside = false then passAdd sect c s
      else
        let here := left.filter fun y => y.1.1 == x.1.1
        if bwd then
          (passEach (fun c s (y : (Nat × Nat × Nat) × Nat) => p.unblend sect gs y.1.1 y.1.2.1 y.1.2.2 c s) here c s).andThen
            fun c s => passAdd sect { c with adds := combineAdds (c.id * 2 ^ 32 + c.progress) c.adds } s
        else
          let ls := (p.lists gs).1
          passEach (fun c s (y : (Nat × Nat × Nat) × Nat) => p.blend sect ls y.1.1 y.1.2.1 y.1.2.2 c s) here c s

/-- Is a pass done? -/
def Pass.finished (p : Pass) (c : Cmd) : Bool := c.methods == 1 && decide (p.order.length ≤ c.progress) && c.adds == []

/-- NVIS as it stands: Gaussians with a key, or those that received a gradient (R318). -/
def Pass.nvis (p : Pass) (bwd : Bool) (c : Cmd) : Nat :=
  if bwd then c.seen.length
  else if c.data.length < 48 * p.count then 0 else (p.lists (p.gaussians c.data)).2.2

/-- The spans of global memory that a pass targets: the Gaussians, the buffers of its pixels, the tile table's entries, the
order list as far as it goes once the Gaussians are known, and for a backward pass the gradient records (R105; DEDUCED, unsafe;
log entry 57). -/
def Pass.spans (p : Pass) (bwd : Bool) (c : Cmd) : List (Nat × Nat) :=
  let keys := if c.data.length < 48 * p.count then 0
    else (p.lists (p.gaussians c.data)).1.foldl (fun n x => n + x.2.2.length) 0
  let z := if p.wide then 16 else 8
  [(p.gauss, 48 * p.count), (va64 p.ordtab (8 * p.tileBeg), 8 * p.tileCnt), (p.ordlist, 4 * keys)]
    ++ (p.order.flatMap fun x =>
      let e := p.elem x.1.2.1 x.1.2.2
      [(va64 p.tfin (4 * e), 4), (va64 p.ncontrib (4 * e), 4)] ++ p.bgSpan e
        ++ (if bwd then [(va64 p.dout (16 * e), 16)] else [(va64 p.out (z * e), z)]))
    ++ (if bwd then [(p.grad, 80 * p.count)] else [])

/-! ### SPLAT.RUN and SPLAT.BWD, and the engine (R310, R317 to R319) -/

/-- The end of the splat engine's queue. -/
def putSplat (t : Sect) (c : Cmd) : Sect := { t with splatQ := t.splatQ ++ [c] }

/-- Issue a splat command for the leader; a scope below DEVICE runs as DEVICE (R317, R409). -/
def State.splatIssue (s : State) (g : Guard) (bwd : Bool) (scope : BitVec 3) (sReg p : Reg) : State :=
  (s.run (needBelow scope.toNat 6 33 ++ needK sReg 25 ++ needKPair p 18) fun s =>
    match s.actG g with
    | [] => s
    | ld :: _ =>
      let sc := max 3 scope.toNat
      s.command ld sc .uncounted sReg (.splat bwd sc (s.kPair p ld)) putSplat).modfb' (decide (scope.toNat < 3)) s

/-- SPLAT.RUN. -/
def execSplatRun (g : Guard) (scope : BitVec 3) (sReg p : Reg) (s : State) : Answer := .next (s.splatIssue g false scope sReg p)

/-- SPLAT.BWD. -/
def execSplatBwd (g : Guard) (scope : BitVec 3) (sReg p : Reg) (s : State) : Answer := .next (s.splatIssue g true scope sReg p)

/-- The command at the head of a splat engine. -/
def State.splatHead (s : State) (sect : Nat) : Cmd := (s.sect sect).splatQ.headD default

/-- SPLAT_ENGINE_TAKE: the engine takes its next command and reads its pass record (R310, R319, R446, R449). -/
def execSplatEngineTake (sect : Nat) (s : State) : Answer :=
  let c := s.splatHead sect
  .next (s.when (!c.taken && s.runnable c) fun s =>
    let fail := fun (s : State) e => s.onCmd sect c.id fun c => { c with taken := true, err := e }
    match c.job with
    | .splat bwd _ record =>
      if s.denied c then fail s 10
      else if record % 64 ≠ 0 then fail s 4
      else match s.engReadAll sect c.ctx c.grid record 192 with
        | .ok (bs, s) =>
          let p := passOf bs
          let s := if p.err bwd = 0 then (s.refer sect c (p.spans bwd c)).2 else s
          s.onCmd sect c.id fun c => { c with taken := true, record := bs, err := p.err bwd }
        | .stop (.err e) s => fail s e
        | .stop (.park va level kind pte) s => s.parkCmd sect c va level kind pte
        | .stop (.kill a) s => s.walkPoison c.ctx a c.grid
    | _ => s)

/-- The status word of a splat command (Table 15.5). -/
def splatStatus (err : Nat) (trunc : Bool) (nvis : Nat) : Word :=
  BitVec.ofNat 32 (2 ^ 31 + err * 2 ^ 27 + (if trunc then 2 ^ 26 else 0) + min nvis (2 ^ 26 - 1))

/-- A splat command ends: its status, and SPLATCAP in the part that holds the leader's quad (R318). -/
def State.endSplat (s : State) (c : Cmd) (err : Nat) (trunc : Bool) (nvis : Nat) : State :=
  let flag := fun (p : Part) => if p.members.getLsbD c.quad then { p with pennant := p.pennant ||| flagSplatcap } else p
  let s := if trunc then s.mapAnyWave c.wave fun w => { w with parts := w.parts.map flag } else s
  s.finishCmd c (splatStatus err trunc nvis) none

/-- SPLAT_COMPLETE: the pass goes on through the tile it has reached, and ends behind the last; a page that is not present
parks it at the element it meets (R311 to R319, R321, R446, R447). -/
def execSplatComplete (sect : Nat) (s : State) : Answer :=
  let c := s.splatHead sect
  .next (s.when (c.taken && s.runnable c) fun s =>
    match c.job with
    | .splat bwd _ _ =>
      let p := passOf c.record
      if c.err ≠ 0 then s.endSplat c c.err c.trunc (if c.data = [] then 0 else p.nvis bwd c)
      else
        let r := s.refer sect c (p.spans bwd c)
        let r := p.advance sect bwd r.1 r.2
        let c := r.1
        match r.2.2 with
        | none => if p.finished c then r.2.1.endSplat c 0 c.trunc (p.nvis bwd c) else r.2.1.onCmd sect c.id fun _ => c
        | some (.err e) => r.2.1.endSplat c e c.trunc (p.nvis bwd c)
        | some (.park va level kind pte) => r.2.1.parkCmd sect c va level kind pte
        | some (.kill a) => r.2.1.walkPoison c.ctx a c.grid
    | _ => s)

/-- The enabled events of a section's splat engine (DESIGN CHOICE, unsafe; log entry 3). -/
def State.splatEvents (s : State) (sect : Nat) : List Instr :=
  let c := s.splatHead sect
  if !s.runnable c then [] else if c.taken then [Instr.splatComplete sect] else [Instr.splatEngineTake sect]

end Sys2Proof.Machine
end

