-- ==== Sys2Proof/Machine/Agenda.lean ====
section
/-!
DEFINITION. Machine/Agenda.lean: the events that the device itself brings about and that are enabled now, in one fixed order
(DESIGN CHOICE, unsafe; log entry 3). Those whose content comes from outside the module are in the agenda alone; those that
fall due in a certain cycle, and the starts of workgroups, happen in that cycle and are not here (`State.openCycle`,
`State.dueNow`).
-/

namespace Sys2Proof.Machine

/-! ### Grids and launches -/

/-- The enabled events of a die. -/
def State.dieEvents (s : State) (die : Nat) : List Instr :=
  let d := s.die die
  (if d.parents.any fun p => p.parked.isNone then [Instr.joinParentPush die] else [])
    ++ (if d.store == [] then []
      else (((List.range 256).find? fun c => (s.entryToPop (die * 256 + c)).isSome).map fun c =>
        Instr.pendingLaunchPop (die * 256 + c)).toList)

/-- The requests and grants of a grid that deals here. -/
def State.dealEvents (s : State) (g : Grid) : List Instr :=
  let from1 := unitsIn g.undealt != 0
  let from2 := fun (sect : Nat) => unitsIn (g.dieRanges.get (sect / 16)) != 0
  if !s.deals g then []
  else
    (if from1 then
      ((List.range 8).filter fun d => wantsRange (g.dieRanges.get d) && !g.dieAsks.contains d
        && s.hasPermit (upLink (dieHolder d))).map (Instr.guidonRangeRequest g.id 1)
      ++ (g.dieAsks.filter fun d => s.hasPermit (downLink (dieHolder d))).map (Instr.guidonGrant g.id 1)
    else [])
    ++ ((List.range 128).filter fun n => from2 n && wantsRange (g.sectRanges.get n) && !g.sectAsks.contains n
        && s.hasPermit (upLink n)).map (Instr.guidonRangeRequest g.id 2)
    ++ (g.sectAsks.filter fun n => from2 n && s.hasPermit (downLink n)).map (Instr.guidonGrant g.id 2)
    ++ (if g.pod && s.asksPool g && (if g.place = 0 then g.pool != g.poolEnd else !g.poolAsked) then
      [Instr.poolRangeRequest g.root g.gen g.place 0 0] else [])

/-- Has the start barrier of a grid of this root timed out (R450)? -/
def State.startDue (s : State) (g : Grid) : Bool :=
  g.pod && g.place == 0 && !g.started && !g.done && decide (g.sent + micros 20 ≤ s.time)
    && (childPlaces 0 g.span.length).any fun p => !g.acks.contains p

/-- The enabled events of a grid. -/
def State.gridEvents (s : State) (g : Grid) : List Instr :=
  (if s.gridEnds g then [Instr.gridComplete g.id] else []) ++ s.dealEvents g

/-- The GLAUNCH request that the root answers next (R199, R201). -/
def State.rootEvents (s : State) : List Instr :=
  (s.asking.filter fun x => s.rootTurn x.2.1 x.2.2).map fun x => Instr.rootReturnsGeneration x.2.1 x.2.2

/-! ### All of them -/

/-- Every enabled event, in a fixed order (DESIGN CHOICE, unsafe; log entries 3 and 28).
-/
def State.enabled (s : State) : List Instr :=
  (s.allWaves.flatMap fun w => w.events ++ s.rtEvents w)
    ++ s.rootEvents
    ++ (s.sects.keys.flatMap fun n => s.copyEvents n ++ s.splatEvents n)
    ++ ((s.cores.keys.filter fun c => (s.core c).cube != []).flatMap s.cubeEvents)
    ++ s.dies.keys.flatMap s.dieEvents
    ++ s.grids.flatMap s.gridEvents
    ++ s.permits.keys.map Instr.permitReturn
    ++ s.queueEvents
    ++ s.preemptEvents
    ++ s.mailEvents
    ++ s.debugEvents

/-- What a bound in time brings about in the cycle in which it passes, once what arrives in that cycle has arrived: saves and
their failures, start barriers, count reports, hand-overs, link training (R334, R352, R450, R451, R454, R455, R458,
Table 27.5). -/
def State.boundsDue (s : State) : List Instr :=
  s.savesDue ++ ((s.grids.filter s.startDue).map fun g => Instr.startTimeout g.gen) ++ s.grids.flatMap s.reportsDue
    ++ s.handoverDue ++ s.linkDue

/-- The event that takes its turn in a cycle: one after another of those enabled (DESIGN CHOICE, unsafe; log entry 3). -/
def State.turn (s : State) : Option Instr :=
  let l := s.enabled
  l[s.cycle % max 1 l.length]?

end Sys2Proof.Machine
end

