-- ==== Sys2Proof/Machine/Errors.lean ====
section
/-!
DEFINITION. Machine/Errors.lean: detected errors and what they do by severity, resets, the take-over of the scheduler core
(R7, R368, R387, R391, R394, R423, R425, R426, R452).
-/

namespace Sys2Proof.Machine

/-! ### Resets (R368) -/

/-- The module after a reset. A warm one keeps the boot-step records and the machine-check log (R368, R394), and
memory with its poison marks, which no rule says it clears (DEDUCED, unsafe; log entry 22). What lies outside the
module stays: host memory, vectors and messages already sent. -/
def State.restart (s : State) (warm : Bool) : State :=
  { State.reset with
    cycle := s.cycle
    time := s.time
    fresh := s.fresh + 1
    agenda := s.agenda
    names := s.names
    mem := if warm then s.mem else []
    poison := if warm then s.poison else []
    fw := { State.reset.fw with boot := if warm then s.fw.boot else [] }
    mclog := if warm then s.mclog else default
    host := s.host
    msix := s.msix
    pod := s.pod }

/-- COLD_RESET clears the boot-step records and the machine-check log (R368, R394). -/
def execColdReset (s : State) : Answer := .next (s.restart false)

/-- WARM_RESET, a PCI Express hot reset or a link-down reset: boot runs again from step 1 (R368, R457). -/
def execWarmReset (s : State) : Answer := .next (s.restart true)

/-- A fatal error: the record is logged and the machine-check vector raised, and the module makes a warm reset (Table
24.1). -/
def State.fatal (s : State) (m : McInfo) : State := (s.mcheck { m with sev := 4 }).restart true

/-! ### Errors of units (Table 24.1, Table 24.9) -/

/-- The core of a LOC (Table 24.10). -/
def coreOfLoc (loc : Nat) : Nat := loc / 2 ^ 12 % 8 * 256 + loc % 256

/-- The section of a LOC (Table 24.10). -/
def sectOfLoc (loc : Nat) : Nat := loc / 2 ^ 12 % 8 * 16 + loc / 2 ^ 8 % 16

/-- The context an error affects: its wave's, or the one it names (Table 24.9). -/
def State.errorCtx (s : State) (e : EccReport) : Nat := if s.hasWave e.wave then (s.wgOf (s.waveOf e.wave).wg).ctx else e.ctx

/-- SYNDROME: check bits, and a memory event code for UNIT 3, 4 and 5 (R426). -/
def eccSynd (e : EccReport) (event : Nat) : Nat :=
  e.syndrome.toNat + (if 3 ≤ e.unit ∧ e.unit ≤ 5 then event % 256 * 2 ^ 56 else 0)

/-- A record of an error that names no context (Table 24.10). ADDR is given by the units that have one. (DEDUCED,
unsafe; log entry 54.) -/
def State.eccInfo (s : State) (e : EccReport) (sev event : Nat) : McInfo :=
  ⟨sev, e.unit, if e.unit = 5 then s.sliceLoc e.addr else e.loc, if e.unit = 3 ∨ e.unit = 5 then e.addr else 0,
    eccSynd e event, 0, 0, 0⟩

/-- A corrected error is logged (Table 24.1). -/
def State.corrected (s : State) (e : EccReport) : State := s.mcheck (s.eccInfo e 1 0)

/-- A contained error kills its context on the module (R391), and DEV is the place of the grid of the wave it affects (Table
24.3); the event code of a scratchpad's is not stated (DESIGN CHOICE, safe; log entry 1). With no context to kill, its record
alone is written. -/
def State.contained (s : State) (e : EccReport) (ctx : Nat) : State :=
  let dev := if s.hasWave e.wave then (s.gridOf (s.wgOf (s.waveOf e.wave).wg).grid).dev else 0
  let m := { s.eccInfo e 3 (Config.freeByte s.fresh 0).toNat with dev := dev }
  if (s.ctx ctx).installed && !(s.ctx ctx).killed then s.killCtx ctx 3 m else s.mcheck m

/-- A sector becomes poisoned (R423). -/
def State.markPoison (s : State) (pa : Nat) : State :=
  let a := pa / 32 * 32
  { s with poison := if s.poison.contains a then s.poison else a :: s.poison }

/-- ECC_ERROR: a unit corrects an error, or drops, refills or poisons what holds it, or it is contained or fatal
(R387, R394, R423, R425, Table 24.9). (DEDUCED, unsafe; log entry 54.) -/
def execEccError (e : EccReport) (s : State) : Answer :=
  let core := coreOfLoc e.loc
  let c := s.core core
  .next (match e.unit, e.beyond with
    | 0, false => s.corrected e
    | 0, true => s.contained e (s.errorCtx e)
    | 1, false => s.corrected e
    | 1, true => s.when (decide (e.target < 65536)) fun s =>
        (s.mcheck (s.eccInfo e 2 0)).onCore core fun c => { c with accBad := insertNat e.target c.accBad }
    | 2, _ =>
      let t := c.slots.get e.target
      if t.valid && t.fromScratch then s.contained e (c.ctx.getD e.ctx)
      else if t.valid then (s.corrected e).setSlot core e.target { t with image := [], refill := true }
      else s.corrected e
    | 3, _ => (s.corrected e).onCore core fun c => { c with l1 := c.l1.filter fun l => l.pa != e.addr / 128 }
    | 4, false => s.corrected e
    | 4, true => s.contained e (c.ctx.getD e.ctx)
    | 5, false => s.corrected e
    | 5, true => (s.mcheck (s.eccInfo e 2 1)).markPoison e.addr
    | 6, _ => (s.corrected e).onSect (sectOfLoc e.loc) fun t => { t with tlb := t.tlb.eraseIdx e.target }
    | 7, false => s.corrected e
    | 7, true => s.contained e (s.errorCtx e)
    | 8, false => s.corrected e
    | 8, true => s.fatal (s.eccInfo e 4 0)
    | _, _ => s)

/-! ### The scheduler core's take-over (R7, R452) -/

/-- LOC of an I/O die (Table 24.10). -/
def ioLoc : Nat := 2 ^ 15

/-- SCHEDULER_TAKEOVER: the standby core goes on from the mirrored load state and dispatch state, which is the state itself, since
each command taken is confirmed as it is taken; a missed heartbeat after a take-over is fatal (R452; DESIGN CHOICE, safe; log entry 23). -/
def execSchedulerTakeover (s : State) : Answer :=
  .next (if s.fw.takenOver then s.fatal ⟨4, 8, ioLoc, 0, 0, 0, 0, 0⟩
    else
      let s := s.mcheck ⟨1, 8, ioLoc, 0, 0x80 * 2 ^ 56, 0, 0, 0⟩
      { s with fw := { s.fw with takenOver := true } })

end Sys2Proof.Machine
end

