-- ==== Sys2Proof/Machine/Reserved.lean ====
section
/-!
DEFINITION. Machine/Reserved.lean: words that no instruction owns (R146, R402, R403, R406).
-/

namespace Sys2Proof.Machine

/-- ILLOP names the OP and the selector; the reserved shift kind of OP 0x07 is BADVAL (R146, R402, R403, Table 25.1). -/
def execIllop (c : ReservedWord) (s : State) : Answer :=
  .next (s.takeTrap (match c with
    | .reserved op sel => ⟨0x00, op.toNat + sel.toNat * 2 ^ 6, 0⟩
    | .shiftKind => badVal 9 3))

/-- PKTSTRADDLE: a long head in slot 2 traps with its own code index (R406, Table 25.1). -/
def execPktstraddle (s : State) : Answer := .next (s.takeTrap ⟨0x01, s.iss.pc.toNat, 0⟩)

end Sys2Proof.Machine
end

