-- ==== Sys2Proof/Machine/Dispatch.lean ====
section
/-!
DEFINITION. Machine/Dispatch.lean: the one dispatch from an instruction or event to its meaning.
-/

namespace Sys2Proof.Machine

def exec (i : Instr) (s : State) : Host.Outcome State Fault Refusal :=
  match i with
  | .nop => Sys2Proof.Machine.execNop s
  | .iadd d a b => Sys2Proof.Machine.execIadd d a b s
  | .isub d a b => Sys2Proof.Machine.execIsub d a b s
  | .imul d a b => Sys2Proof.Machine.execImul d a b s
  | .imulh d a b => Sys2Proof.Machine.execImulh d a b s
  | .imulhu d a b => Sys2Proof.Machine.execImulhu d a b s
  | .imin d a b => Sys2Proof.Machine.execImin d a b s
  | .iminu d a b => Sys2Proof.Machine.execIminu d a b s
  | .imax d a b => Sys2Proof.Machine.execImax d a b s
  | .imaxu d a b => Sys2Proof.Machine.execImaxu d a b s
  | .iabsd d a b => Sys2Proof.Machine.execIabsd d a b s
  | .and d a b => Sys2Proof.Machine.execAnd d a b s
  | .or d a b => Sys2Proof.Machine.execOr d a b s
  | .xor d a b => Sys2Proof.Machine.execXor d a b s
  | .andn d a b => Sys2Proof.Machine.execAndn d a b s
  | .shl d a b => Sys2Proof.Machine.execShl d a b s
  | .shr d a b => Sys2Proof.Machine.execShr d a b s
  | .sar d a b => Sys2Proof.Machine.execSar d a b s
  | .popc d a => Sys2Proof.Machine.execPopc d a s
  | .clz d a => Sys2Proof.Machine.execClz d a s
  | .brev d a => Sys2Proof.Machine.execBrev d a s
  | .mov d a => Sys2Proof.Machine.execMov d a s
  | .iaddi d a imm => Sys2Proof.Machine.execIaddi d a imm s
  | .andi d a imm => Sys2Proof.Machine.execAndi d a imm s
  | .ori d a imm => Sys2Proof.Machine.execOri d a imm s
  | .xori d a imm => Sys2Proof.Machine.execXori d a imm s
  | .shli d a n => Sys2Proof.Machine.execShli d a n s
  | .shri d a n => Sys2Proof.Machine.execShri d a n s
  | .sari d a n => Sys2Proof.Machine.execSari d a n s
  | .imuli d a imm => Sys2Proof.Machine.execImuli d a imm s
  | .isetp pd comb a b cond type => Sys2Proof.Machine.execIsetp pd comb a b cond type s
  | .fsetp pd comb a b cond type => Sys2Proof.Machine.execFsetp pd comb a b cond type s
  | .fadd d a b => Sys2Proof.Machine.execFadd d a b s
  | .fsub d a b => Sys2Proof.Machine.execFsub d a b s
  | .fmul d a b => Sys2Proof.Machine.execFmul d a b s
  | .fmin d a b => Sys2Proof.Machine.execFmin d a b s
  | .fmax d a b => Sys2Proof.Machine.execFmax d a b s
  | .hadd2 d a b => Sys2Proof.Machine.execHadd2 d a b s
  | .hmul2 d a b => Sys2Proof.Machine.execHmul2 d a b s
  | .hmin2 d a b => Sys2Proof.Machine.execHmin2 d a b s
  | .hmax2 d a b => Sys2Proof.Machine.execHmax2 d a b s
  | .badd2 d a b => Sys2Proof.Machine.execBadd2 d a b s
  | .bmul2 d a b => Sys2Proof.Machine.execBmul2 d a b s
  | .frcp d a => Sys2Proof.Machine.execFrcp d a s
  | .frsq d a => Sys2Proof.Machine.execFrsq d a s
  | .fsqrt d a => Sys2Proof.Machine.execFsqrt d a s
  | .fex2 d a => Sys2Proof.Machine.execFex2 d a s
  | .flg2 d a => Sys2Proof.Machine.execFlg2 d a s
  | .fsin d a => Sys2Proof.Machine.execFsin d a s
  | .fcos d a => Sys2Proof.Machine.execFcos d a s
  | .ftanh d a => Sys2Proof.Machine.execFtanh d a s
  | .frndRn d a => Sys2Proof.Machine.execFrndRn d a s
  | .frndRz d a => Sys2Proof.Machine.execFrndRz d a s
  | .frndRm d a => Sys2Proof.Machine.execFrndRm d a s
  | .frndRp d a => Sys2Proof.Machine.execFrndRp d a s
  | .i2f d a => Sys2Proof.Machine.execI2f d a s
  | .f2i d a => Sys2Proof.Machine.execF2i d a s
  | .ld d a size off => Sys2Proof.Machine.execLd d a size off s
  | .st d a size off => Sys2Proof.Machine.execSt d a size off s
  | .lds d a size off => Sys2Proof.Machine.execLds d a size off s
  | .sts d a size off => Sys2Proof.Machine.execSts d a size off s
  | .ldk d a size off => Sys2Proof.Machine.execLdk d a size off s
  | .brc g off fuseId => Sys2Proof.Machine.execBrc g off fuseId s
  | .bra off fuseId => Sys2Proof.Machine.execBra off fuseId s
  | .ret => Sys2Proof.Machine.execRet s
  | .exit => Sys2Proof.Machine.execExit s
  | .fuse cls id => Sys2Proof.Machine.execFuse cls id s
  | .regang width => Sys2Proof.Machine.execRegang width s
  | .waitcnt ldc stc cpc cbc rtc => Sys2Proof.Machine.execWaitcnt ldc stc cpc cbc rtc s
  | .barArv id exp => Sys2Proof.Machine.execBarArv id exp s
  | .barWait id => Sys2Proof.Machine.execBarWait id s
  | .barSync id exp => Sys2Proof.Machine.execBarSync id exp s
  | .yield k noTiles => Sys2Proof.Machine.execYield k noTiles s
  | .trap code => Sys2Proof.Machine.execTrap code s
  | .brk tag => Sys2Proof.Machine.execBrk tag s
  | .sleep n => Sys2Proof.Machine.execSleep n s
  | .setprio p => Sys2Proof.Machine.execSetprio p s
  | .fence scope kind => Sys2Proof.Machine.execFence scope kind s
  | .imad g mode d a b c => Sys2Proof.Machine.execImad g mode d a b c s
  | .imad64 g sign d a b c => Sys2Proof.Machine.execImad64 g sign d a b c s
  | .iadd64 g d a b => Sys2Proof.Machine.execIadd64 g d a b s
  | .isub64 g d a b => Sys2Proof.Machine.execIsub64 g d a b s
  | .lea g sh sext w32 d a b => Sys2Proof.Machine.execLea g sh sext w32 d a b s
  | .lop3 g lut d a b c => Sys2Proof.Machine.execLop3 g lut d a b c s
  | .fsh g left imm amt d a b c => Sys2Proof.Machine.execFsh g left imm amt d a b c s
  | .bfe g len pos imm signed d a b => Sys2Proof.Machine.execBfe g len pos imm signed d a b s
  | .bfi g len pos imm d a b c => Sys2Proof.Machine.execBfi g len pos imm d a b c s
  | .prmt g d a b c => Sys2Proof.Machine.execPrmt g d a b c s
  | .sel g sp sneg d a b => Sys2Proof.Machine.execSel g sp sneg d a b s
  | .movi g d imm => Sys2Proof.Machine.execMovi g d imm s
  | .idp4 g asign bsign sat d a b c => Sys2Proof.Machine.execIdp4 g asign bsign sat d a b c s
  | .iaddc g ci cineg co d a b => Sys2Proof.Machine.execIaddc g ci cineg co d a b s
  | .isubc g ci cineg co d a b => Sys2Proof.Machine.execIsubc g ci cineg co d a b s
  | .iaddImm32 g da imm => Sys2Proof.Machine.execIaddImm32 g da imm s
  | .andImm32 g da imm => Sys2Proof.Machine.execAndImm32 g da imm s
  | .orImm32 g da imm => Sys2Proof.Machine.execOrImm32 g da imm s
  | .xorImm32 g da imm => Sys2Proof.Machine.execXorImm32 g da imm s
  | .imulImm32 g da imm => Sys2Proof.Machine.execImulImm32 g da imm s
  | .ffma g m d a b c => Sys2Proof.Machine.execFfma g m d a b c s
  | .faddLong g m d a b => Sys2Proof.Machine.execFaddLong g m d a b s
  | .fsubLong g m d a b => Sys2Proof.Machine.execFsubLong g m d a b s
  | .fmulLong g m d a b => Sys2Proof.Machine.execFmulLong g m d a b s
  | .fminLong g m d a b => Sys2Proof.Machine.execFminLong g m d a b s
  | .fmaxLong g m d a b => Sys2Proof.Machine.execFmaxLong g m d a b s
  | .faddImm g da imm => Sys2Proof.Machine.execFaddImm g da imm s
  | .fsubImm g da imm => Sys2Proof.Machine.execFsubImm g da imm s
  | .fmulImm g da imm => Sys2Proof.Machine.execFmulImm g da imm s
  | .fminImm g da imm => Sys2Proof.Machine.execFminImm g da imm s
  | .fmaxImm g da imm => Sys2Proof.Machine.execFmaxImm g da imm s
  | .hfma2 g m d a b c => Sys2Proof.Machine.execHfma2 g m d a b c s
  | .bfma2 g m d a b c => Sys2Proof.Machine.execBfma2 g m d a b c s
  | .cvt g dfmt sfmt rnd sat merge dsel ssel d a b => Sys2Proof.Machine.execCvt g dfmt sfmt rnd sat merge dsel ssel d a b s
  | .fclass g type d a => Sys2Proof.Machine.execFclass g type d a s
  | .shfl g minw mode imm limm zf d a b => Sys2Proof.Machine.execShfl g minw mode imm limm zf d a b s
  | .vote g minw mode ps psneg pd cnt d => Sys2Proof.Machine.execVote g minw mode ps psneg pd cnt d s
  | .matchLanes g minw rank wide pd d a => Sys2Proof.Machine.execMatchLanes g minw rank wide pd d a s
  | .redux g minw op signed d a => Sys2Proof.Machine.execRedux g minw op signed d a s
  | .scan g minw op signed exc d a => Sys2Proof.Machine.execScan g minw op signed exc d a s
  | .qswz g minw pattern d a => Sys2Proof.Machine.execQswz g minw pattern d a s
  | .elect g minw pd wd high d => Sys2Proof.Machine.execElect g minw pd wd high d s
  | .ldLong g m d a off => Sys2Proof.Machine.execLdLong g m d a off s
  | .stLong g m d a off => Sys2Proof.Machine.execStLong g m d a off s
  | .ldsLong g m d a off => Sys2Proof.Machine.execLdsLong g m d a off s
  | .stsLong g m d a off => Sys2Proof.Machine.execStsLong g m d a off s
  | .atom g m d a b c => Sys2Proof.Machine.execAtom g m d a b c s
  | .atoms g m ret d a b dx dy => Sys2Proof.Machine.execAtoms g m ret d a b dx dy s
  | .red g m a b c => Sys2Proof.Machine.execRed g m a b c s
  | .pref g ord scope hint l2only a off => Sys2Proof.Machine.execPref g ord scope hint l2only a off s
  | .cctlInv g a off => Sys2Proof.Machine.execCctlInv g a off s
  | .cctlDemote g a off => Sys2Proof.Machine.execCctlDemote g a off s
  | .cctlInvall g => Sys2Proof.Machine.execCctlInvall g s
  | .ldkLong g size d a off => Sys2Proof.Machine.execLdkLong g size d a off s
  | .cpy g scope dir rel ring sReg l crd dst => Sys2Proof.Machine.execCpy g scope dir rel ring sReg l crd dst s
  | .coll g kind op type scope sReg c h => Sys2Proof.Machine.execColl g kind op type scope sReg c h s
  | .publish g scope d a => Sys2Proof.Machine.execPublish g scope d a s
  | .shdw g d a b => Sys2Proof.Machine.execShdw g d a b s
  | .stageAcq g q d => Sys2Proof.Machine.execStageAcq g q d s
  | .stageRel g q a => Sys2Proof.Machine.execStageRel g q a s
  | .cube g m o => Sys2Proof.Machine.execCube g m o s
  | .cldb g f => Sys2Proof.Machine.execCldb g f s
  | .card g afmt relu scale sck row0 col0 d => Sys2Proof.Machine.execCard g afmt relu scale sck row0 col0 d s
  | .cawr g afmt row0 col0 a => Sys2Proof.Machine.execCawr g afmt row0 col0 a s
  | .casts g afmt relu scale rel ring t offk sck => Sys2Proof.Machine.execCasts g afmt relu scale rel ring t offk sck s
  | .calds g afmt rel ring t offk => Sys2Proof.Machine.execCalds g afmt rel ring t offk s
  | .cazeroMask g mk => Sys2Proof.Machine.execCazeroMask g mk s
  | .cazeroTile g t => Sys2Proof.Machine.execCazeroTile g t s
  | .rayt g first cullb cullf mask d a root => Sys2Proof.Machine.execRayt g first cullb cullf mask d a root s
  | .raya g d a b => Sys2Proof.Machine.execRaya g d a b s
  | .tex g filter lodx d a desc => Sys2Proof.Machine.execTex g filter lodx d a desc s
  | .texg g lodx chan d a desc => Sys2Proof.Machine.execTexg g lodx chan d a desc s
  | .tld g lodx d a desc => Sys2Proof.Machine.execTld g lodx d a desc s
  | .texq g d a desc => Sys2Proof.Machine.execTexq g d a desc s
  | .splatRun g scope sReg p => Sys2Proof.Machine.execSplatRun g scope sReg p s
  | .splatBwd g scope sReg p => Sys2Proof.Machine.execSplatBwd g scope sReg p s
  | .rtt g q pd d => Sys2Proof.Machine.execRtt g q pd d s
  | .launch g d a => Sys2Proof.Machine.execLaunch g d a s
  | .emit g d a b => Sys2Proof.Machine.execEmit g d a b s
  | .glaunch g d a => Sys2Proof.Machine.execGlaunch g d a s
  | .gcancelDrain g d a => Sys2Proof.Machine.execGcancelDrain g d a s
  | .gcancelKill g d a => Sys2Proof.Machine.execGcancelKill g d a s
  | .getsr g id d => Sys2Proof.Machine.execGetsr g id d s
  | .setsr g id a => Sys2Proof.Machine.execSetsr g id a s
  | .brx g fuseId a => Sys2Proof.Machine.execBrx g fuseId a s
  | .joinBlock g a => Sys2Proof.Machine.execJoinBlock g a s
  | .brl g off fuseId => Sys2Proof.Machine.execBrl g off fuseId s
  | .call g off fuseId => Sys2Proof.Machine.execCall g off fuseId s
  | .fuseTimeout wave pc => Sys2Proof.Machine.execFuseTimeout wave pc s
  | .fusehang wave entry => Sys2Proof.Machine.execFusehang wave entry s
  | .missSplit wave entry => Sys2Proof.Machine.execMissSplit wave entry s
  | .deferredSpillFill wave quad => Sys2Proof.Machine.execDeferredSpillFill wave quad s
  | .sleepExpire wave entry => Sys2Proof.Machine.execSleepExpire wave entry s
  | .memOpComplete wave op => Sys2Proof.Machine.execMemOpComplete wave op s
  | .pageWalk sect asid va kind => Sys2Proof.Machine.execPageWalk sect asid va kind s
  | .cubePassBegin core => Sys2Proof.Machine.execCubePassBegin core s
  | .cubePassWrite core => Sys2Proof.Machine.execCubePassWrite core s
  | .cubeAssistComplete core => Sys2Proof.Machine.execCubeAssistComplete core s
  | .accMoveBegin core => Sys2Proof.Machine.execAccMoveBegin core s
  | .accMoveWrite core => Sys2Proof.Machine.execAccMoveWrite core s
  | .weightSlotFill core => Sys2Proof.Machine.execWeightSlotFill core s
  | .lazyRefill core slot => Sys2Proof.Machine.execLazyRefill core slot s
  | .rtComplete wave op => Sys2Proof.Machine.execRtComplete wave op s
  | .copyEngineTake sect => Sys2Proof.Machine.execCopyEngineTake sect s
  | .copyComplete sect cmd => Sys2Proof.Machine.execCopyComplete sect cmd s
  | .publishExchange sect cmd => Sys2Proof.Machine.execPublishExchange sect cmd s
  | .collPeerLost sect cmd => Sys2Proof.Machine.execCollPeerLost sect cmd s
  | .splatEngineTake sect => Sys2Proof.Machine.execSplatEngineTake sect s
  | .splatComplete sect => Sys2Proof.Machine.execSplatComplete sect s
  | .batchTimeout die ctx node grid => Sys2Proof.Machine.execBatchTimeout die ctx node grid s
  | .joinParentPush die => Sys2Proof.Machine.execJoinParentPush die s
  | .pendingLaunchPop core => Sys2Proof.Machine.execPendingLaunchPop core s
  | .workgroupStart sect => Sys2Proof.Machine.execWorkgroupStart sect s
  | .waveRetire wave => Sys2Proof.Machine.execWaveRetire wave s
  | .guidonGrant grid level holder => Sys2Proof.Machine.execGuidonGrant grid level holder s
  | .guidonRangeRequest grid level holder => Sys2Proof.Machine.execGuidonRangeRequest grid level holder s
  | .permitReturn link => Sys2Proof.Machine.execPermitReturn link s
  | .gridComplete grid => Sys2Proof.Machine.execGridComplete grid s
  | .queueLoad q => Sys2Proof.Machine.execQueueLoad q s
  | .grid q version record param tag => Sys2Proof.Machine.execGrid q version record param tag s
  | .copy q scope record dst crd => Sys2Proof.Machine.execCopy q scope record dst crd s
  | .signal q add addr value => Sys2Proof.Machine.execSignal q add addr value s
  | .wait q cond addr value => Sys2Proof.Machine.execWait q cond addr value s
  | .umxload q container result => Sys2Proof.Machine.execUmxload q container result s
  | .barrier q => Sys2Proof.Machine.execBarrier q s
  | .timestamp q addr => Sys2Proof.Machine.execTimestamp q addr s
  | .startTimeout gen => Sys2Proof.Machine.execStartTimeout gen s
  | .poolRangeRequest root gen place lo hi => Sys2Proof.Machine.execPoolRangeRequest root gen place lo hi s
  | .deadlineExpire wg => Sys2Proof.Machine.execDeadlineExpire wg s
  | .clusterSave cluster => Sys2Proof.Machine.execClusterSave cluster s
  | .saveTimeout cluster => Sys2Proof.Machine.execSaveTimeout cluster s
  | .clusterResume cluster core => Sys2Proof.Machine.execClusterResume cluster core s
  | .write h data => Sys2Proof.Machine.execWrite h data s
  | .queuePut h queue => Sys2Proof.Machine.execQueuePut h queue s
  | .install h queue shadow pool poolSize heapSize debug capbase => Sys2Proof.Machine.execInstall h queue shadow pool poolSize heapSize debug capbase s
  | .remove h queue => Sys2Proof.Machine.execRemove h queue s
  | .removeDrainEnd queue => Sys2Proof.Machine.execRemoveDrainEnd queue s
  | .replayByToken h token result => Sys2Proof.Machine.execReplayByToken h token result s
  | .replayByPage h result => Sys2Proof.Machine.execReplayByPage h result s
  | .fenceOrder h => Sys2Proof.Machine.execFenceOrder h s
  | .inval h length => Sys2Proof.Machine.execInval h length s
  | .evict h => Sys2Proof.Machine.execEvict h s
  | .read h bus count => Sys2Proof.Machine.execRead h bus count s
  | .report h nonce bus => Sys2Proof.Machine.execReport h nonce bus s
  | .extend h index value => Sys2Proof.Machine.execExtend h index value s
  | .stage h bus size image => Sys2Proof.Machine.execStage h bus size image s
  | .commit h => Sys2Proof.Machine.execCommit h s
  | .vfasid h vf base count => Sys2Proof.Machine.execVfasid h vf base count s
  | .vfmsix h fn0 first count => Sys2Proof.Machine.execVfmsix h fn0 first count s
  | .power h watts => Sys2Proof.Machine.execPower h watts s
  | .debugResume ctx wave dump => Sys2Proof.Machine.execDebugResume ctx wave dump s
  | .debugStep ctx wave dump => Sys2Proof.Machine.execDebugStep ctx wave dump s
  | .debugKill ctx wave dump => Sys2Proof.Machine.execDebugKill ctx wave dump s
  | .readregs ctx wave dump addr => Sys2Proof.Machine.execReadregs ctx wave dump addr s
  | .writeregs ctx wave dump addr => Sys2Proof.Machine.execWriteregs ctx wave dump addr s
  | .hangWatchdog ctx => Sys2Proof.Machine.execHangWatchdog ctx s
  | .illop c => Sys2Proof.Machine.execIllop c s
  | .pktstraddle => Sys2Proof.Machine.execPktstraddle s
  | .reservedMessageType h type => Sys2Proof.Machine.execReservedMessageType h type s
  | .unknownCommandType q => Sys2Proof.Machine.execUnknownCommandType q s
  | .rootReturnsGeneration wave op => Sys2Proof.Machine.execRootReturnsGeneration wave op s
  | .shadowRegionOpened sect cmd => Sys2Proof.Machine.execShadowRegionOpened sect cmd s
  | .collComplete sect cmd shares => Sys2Proof.Machine.execCollComplete sect cmd shares s
  | .eccError e => Sys2Proof.Machine.execEccError e s
  | .bootStep r => Sys2Proof.Machine.execBootStep r s
  | .dvfsChange point cause => Sys2Proof.Machine.execDvfsChange point cause s
  | .rilrakFlitError port retrain => Sys2Proof.Machine.execRilrakFlitError port retrain s
  | .pcieLinkTrained speed width => Sys2Proof.Machine.execPcieLinkTrained speed width s
  | .machineCheckLogRdidxWrite value => Sys2Proof.Machine.execMachineCheckLogRdidxWrite value s
  | .faultqRdidxWrite ctx value => Sys2Proof.Machine.execFaultqRdidxWrite ctx value s
  | .umxloadFinish q bodies => Sys2Proof.Machine.execUmxloadFinish q bodies s
  | .halyardLaunch ctxid root gen span record => Sys2Proof.Machine.execHalyardLaunch ctxid root gen span record s
  | .halyardAck root gen child => Sys2Proof.Machine.execHalyardAck root gen child s
  | .halyardStart root gen => Sys2Proof.Machine.execHalyardStart root gen s
  | .halyardAbort root gen => Sys2Proof.Machine.execHalyardAbort root gen s
  | .halyardCancel root gen kill => Sys2Proof.Machine.execHalyardCancel root gen kill s
  | .countReport root gen place completed cancelled final err lost counts recs => Sys2Proof.Machine.execCountReport root gen place completed cancelled final err lost counts recs s
  | .moduleLost root gen place => Sys2Proof.Machine.execModuleLost root gen place s
  | .sqtailWrite fn0 tail fetched => Sys2Proof.Machine.execSqtailWrite fn0 tail fetched s
  | .cqheadWrite fn0 head => Sys2Proof.Machine.execCqheadWrite fn0 head s
  | .mailboxRegWrite fn0 offset value => Sys2Proof.Machine.execMailboxRegWrite fn0 offset value s
  | .yieldRequest ctx => Sys2Proof.Machine.execYieldRequest ctx s
  | .schedulerTakeover => Sys2Proof.Machine.execSchedulerTakeover s
  | .coldReset => Sys2Proof.Machine.execColdReset s
  | .warmReset => Sys2Proof.Machine.execWarmReset s
  | .pcieLinkDown => Sys2Proof.Machine.execPcieLinkDown s
  | .pcieRetrainTimeout => Sys2Proof.Machine.execPcieRetrainTimeout s
  | .pcieCorrectableError => Sys2Proof.Machine.execPcieCorrectableError s
  | .handoverTimeout => Sys2Proof.Machine.execHandoverTimeout s
  | .stagedFirmwareReady => Sys2Proof.Machine.execStagedFirmwareReady s

end Sys2Proof.Machine
end

