-- ==== Sys2Proof/Machine/Issue.lean ====
section
/-!
DEFINITION. Machine/Issue.lean: how a part issues its chain, and which parts of a partition are picked in a cycle (R139 to
R143, R339, R399, R401, R407).
-/

namespace Sys2Proof.Machine

/-- Go on from the next state that an outcome answers. -/
def onward (r : Host.Outcome State Fault Refusal) (f : State → Host.Outcome State Fault Refusal) :
    Host.Outcome State Fault Refusal :=
  match r with
  | .next s => f s
  | .fault x => .fault x
  | .refused x => .refused x

/-! ### The end of a fetch (R57, R136, R401, R421) -/

/-- The poison of a code line that a fetch meets is consumed (R424, R425). -/
def State.consumeCode (s : State) (va : Nat) : State :=
  let asid := (s.ctx s.wg.ctx).asid
  let s := s.onCore s.wg.core fun c => { c with
    l1 := c.l1.map fun x => if x.asid = asid ∧ x.va = va / 128 then { x with used := true } else x }
  match s.ctxPa s.wg.ctx va with
  | some pa => s.consumed pa 2 s.wg.ctx s.wg.grid
  | none => s

/-- A trap found as a chain is fetched: nothing of the chain has issued, and all of it is found again (R401, R408, R421).
-/
def State.takeFetchTrap (s : State) (t : Trap) : State :=
  let redo := s.part.redo
  let after := s.part.after
  let s := if t.code = 0x27 then (s.fetchTouch s.wg.core s.wg.ctx s.part.pc.toNat).consumeCode t.va else s
  (s.takeTrap t).onPart fun p => { p with redo := redo, after := after }

/-- A fetch that meets a page that is not present parks the part at the index it fetches (R57, R421, R430). -/
def State.parkFetch (s : State) (va level : Nat) (pte : DWord) : State :=
  let r := s.waitFor (sectOf s.wg.core) s.wg.ctx va level 4 pte s.wg.grid
  let k : Parking := ⟨s.part.pc, [⟨0, va, level, pte⟩], 4, 0⟩
  { r.2 with iss := { r.2.iss with parked := true, faults := [k] } }.onPart fun p => p.waitUnder r.1

/-! ### One instruction of a chain -/

/-- Registers that an instruction reads and that carry a poison mark in a lane active for it: the lowest lane, and the
register field (R424). -/
def State.poisonTrap (s : State) (g : Guard) (i : Instr) : Option Trap :=
  ((s.actG g).findSome? fun l => ((s.reads i).find? fun r => s.src.marked l r).map fun r => (l, r)).map fun x =>
    ⟨0x27, x.2 + x.1 * 2 ^ 8, 0⟩

/-- The widest scope of the engine commands whose status words an instruction reads in a lane active for it: the read is an
acquire at that scope (R127, R128). -/
def State.statusScope (s : State) (g : Guard) (i : Instr) : Nat :=
  let ks := (s.reads i).filter fun r => decide (96 ≤ r)
  (distinct ((s.actG g).map (· / 4))).foldl (fun n q =>
    ks.foldl (fun n r => max n ((s.src.quads.get q).status.get (r - 96) - 1)) n) 0

/-- The guard of a long form; a short form has none (R144). -/
def guardOf (i : Instr) : Guard :=
  match encode i with
  | [h, _] => guardAt 13 h
  | _ => Guard.always

/-- RSVNZ, once the instruction has executed (R399, R404); `before` is the state it ran in. -/
def State.flagReserved (s before : State) (rsv : Bool) : State :=
  if rsv && s.executed before then s.pennant flagRsvnz else s

/-- An instruction of the chain in issue: its index, and what was decoded there. -/
abbrev Item := Word × Decoded

/-- The latch names an instruction of the chain. -/
def State.latch (s : State) (x : Item) : State :=
  { s with iss := { s.iss with pc := x.1, word0 := x.2.word0, word1 := x.2.word1 } }

/-- Perform one instruction of the chain in issue: the acquire that a status word asks for (R127), the poison of its sources
(R424), its meaning, RSVNZ (R404). A poisoned source gives way to another trap of the instruction alone (DEDUCED, unsafe;
log entry 36). -/
def State.perform (s : State) (x : Item) : Host.Outcome State Fault Refusal :=
  let g := guardOf x.2.instr
  let s := s.latch x
  let s := s.acquire (s.statusScope g x.2.instr)
  match exec x.2.instr s, s.poisonTrap g x.2.instr with
  | .next t, some p => if t.iss.traps != s.iss.traps then .next t else .next (s.takeTrap p)
  | .next t, none => .next (t.flagReserved s x.2.rsv)
  | r, _ => r

/-- Perform instructions in turn. -/
def State.performAll (s : State) : List Item → Host.Outcome State Fault Refusal
  | [] => .next s
  | x :: xs => onward (s.perform x) fun t => State.performAll t xs

/-! ### A chain (R140 to R143, R399, R401) -/

/-- Instructions that redirect the part (R141). -/
def movesPart : Instr → Bool
  | .brc .. | .bra .. | .brl .. | .call .. | .brx .. | .ret => true
  | _ => false

/-- Instructions that hold the part, or end its lanes, once the others of the chain have completed their issue (R141).
-/
def holdsPart : Instr → Bool
  | .barSync .. | .fuse .. | .regang .. | .yield .. | .sleep .. | .exit => true
  | _ => false

/-- Instructions of a chain that act once the other chains of the cycle have issued: arrivals at barriers and exits, releases
and claims of ring slots, which R33 and R38 put in an order of their own, and DEMOTE, which follows the accesses of its
cycle (R250). A partition issues one instruction of CTRL in a cycle, so no two of its parts meet at a barrier or ring. -/
def meetsOthers : Instr → Bool
  | .barArv .. | .barSync .. | .barWait .. | .stageAcq .. | .stageRel .. | .rtt .. | .exit | .cctlDemote .. => true
  | _ => false

/-- A chain as it is performed: the state after the instructions performed so far, and those that wait their turn because
they trap. -/
structure Course where
  state : State
  traps : List Item
  deriving DecidableEq, Repr

/-- Has an instruction met a trap? -/
def State.trappedSince (s before : State) : Bool := s.iss.traps != before.iss.traps

/-- An instruction of the chain waits for work of a cube instruction before it in the chain (R140, R285): the part issues it
alone once it may (DEDUCED, unsafe; log entry 42). -/
def State.putOff (s : State) (x : Item) : State :=
  let t := s.latch x
  t.onPart fun p => if p.redo.isSome then t.queueRedo s.iss.lanes 0 p else t.keep (s.iss.lanes &&& spread p.members) 0 p

/-- Perform an instruction, unless it traps: these come after the others (R399, R401); or unless it waits for its chain's cube
instruction (R285). -/
def Course.try' (c : Course) (x : Item) : Host.Outcome Course Fault Refusal :=
  if c.state.mustWait x.2.instr then .next { c with state := c.state.putOff x }
  else match c.state.perform x with
  | .next t => .next (if t.trappedSince c.state then { c with traps := c.traps ++ [x] } else { c with state := t })
  | .fault f => .fault f
  | .refused r => .refused r

/-- The same for instructions in slot order (R140). -/
def Course.tryAll (c : Course) : List Item → Host.Outcome Course Fault Refusal
  | [] => .next c
  | x :: xs =>
    match c.try' x with
    | .next d => Course.tryAll d xs
    | .fault f => .fault f
    | .refused r => .refused r

/-- Insert an instruction by its index (R401). -/
def insertItem (x : Item) : List Item → List Item
  | [] => [x]
  | y :: ys => if x.1.toNat < y.1.toNat then x :: y :: ys else y :: insertItem x ys

/-- Does the instruction that holds a part have to wait for an instruction of the chain that the part reissues: one whose
quads parked, or, for an instruction that merges parts, also one that trapped (DEDUCED, unsafe; log entry 18)? -/
def State.owesIssue (s : State) (i : Instr) (p : Part) : Bool :=
  p.redo.isSome && (p.members &&& s.iss.members) != 0 && (s.parkedNow p || (match i with
    | .fuse .. | .regang .. => true
    | _ => false))

/-- The instruction that holds the part, or ends its lanes, once the others have issued: parts whose quads have still to
complete theirs keep it for after that (R141, R401; DEDUCED, unsafe; log entry 18). -/
def State.performHold (s : State) (x : Item) : Host.Outcome State Fault Refusal :=
  let owes := s.owesIssue x.2.instr
  if s.mustWait x.2.instr then .next (s.putOff x)
  else if s.wave.parts.any owes then
    let add := fun (p : Part) =>
      if owes p then { p with redo := p.redo.map fun r => { r with more := r.more ++ [⟨x.1, p.lanes, 0⟩] } } else p
    let mine := owes s.part
    let s := s.onWave fun w => { w with parts := w.parts.map add }
    if mine then .next s
    else
      { s with iss := { s.iss with lanes := s.iss.lanes &&& s.part.lanes, members := s.part.members } }.perform x
  else s.perform x

/-- Would an instruction trap now? -/
def State.wouldTrap (s : State) (x : Item) : Bool :=
  match s.perform x with
  | .next t => t.trappedSince s
  | _ => false

/-- Perform a chain of several: in slot order, the redirection of the part after the others; then the quads that park leave;
then what traps, the lowest index first; and last the instruction that holds the part (R140 to R142, R398, R399, R401;
DEDUCED, unsafe; log entry 36). Instructions that meet those of other parts at a barrier or ring are left for after the
cycle's other chains. -/
def State.performChain (s : State) (l : List Item) : Host.Outcome State Fault Refusal :=
  let ready := l.filter fun x => !(meetsOthers x.2.instr && !s.wouldTrap x)
  let plain := ready.filter fun x => !movesPart x.2.instr && !holdsPart x.2.instr
  let moves := ready.filter fun x => movesPart x.2.instr
  match Course.tryAll ⟨s, []⟩ (plain ++ moves) with
  | .next c =>
    let s := c.state.parkAll
    let s := { s with iss := { s.iss with later := decide (ready.length < l.length) } }
    let holds := ready.filter fun x => holdsPart x.2.instr
    let traps := (c.traps ++ holds.filter s.wouldTrap).foldr insertItem []
    onward (s.performAll traps) fun t =>
      match holds.filter fun x => !s.wouldTrap x with
      | [] => .next t
      | x :: _ => t.performHold x
  | .fault f => .fault f
  | .refused r => .refused r

/-- The widest forced fuse of a chain of several; a REGANG of one waits only once it has issued (R59, R139, R141). -/
def State.chainWidth (s : State) (l : List Item) : Option Nat :=
  let code := fun (x : Item) => match x.2.instr with
    | .regang _ => none
    | i => s.minWidth i
  ((l.filterMap code).filter fun c => decide (c < 5) && decide (widthOf c ≤ s.wave.width)).foldl
    (fun m c => some (max c (m.getD 0))) none

/-- A BAR.WAIT or STAGE.ACQ of a chain of several that still has to wait: the STAGE.ACQ also claims its slot so (R139, R163,
R188). -/
def State.waiter (s : State) (l : List Item) : Option Item :=
  l.find? fun x => (match x.2.instr with
    | .barWait _ => s.part.hold != .passed
    | .stageAcq g _ _ => (match s.part.hold with
      | .got _ => false
      | _ => s.actG g != [])
    | _ => false) && !(s.latch x).wouldTrap x

/-- The part's index moves past a chain as it issues: to the next instruction that it reissues, or past the chain (R143,
R401, R407). `many`: no instruction of the chain waits again (R139). -/
def State.begin' (s : State) (t : Slate) (many : Bool) : State :=
  let past := fun (p : Part) =>
    let more := (p.redo.map Redo.more).getD []
    { p with
      pc := (more.head?.map Later.pc).getD t.next
      redo := p.redo.bind fun r => match more with
        | [] => none
        | x :: rest => some ⟨x.lanes &&& spread p.members, r.next, rest, x.act⟩
      serial := t.serial.map fun e => (e, s.iss.flags)
      stalled := 0 }
  let s := { s with iss := { s.iss with next := t.next, waited := many } }.onPart past
  if t.fallback then s.pennant flagChainfb else s

/-- A chain of several whose instruction waits: that one begins its wait, a STAGE.ACQ by claiming its slot, and nothing of
the chain issues (R36, R38, R139). -/
def State.beginWait (s : State) (x : Item) : Host.Outcome State Fault Refusal :=
  let pc := s.part.pc
  let redo := s.part.redo
  let r := match x.2.instr with
    | .stageAcq _ q _ => .next ((s.claim q.toNat).waitSlot q.toNat (s.nextSlot q.toNat).1)
    | i => exec i (s.latch x)
  onward r fun t => .next (t.onPart fun p => { p with pc := pc, redo := redo })

/-- Issue a slate (R139, R140, R143, R407): one instruction waits by itself; several wait together for their forced fuse, and
for a barrier phase or a ring slot, before any of them issues. -/
def State.issueSlate (s : State) (t : Slate) : Host.Outcome State Fault Refusal :=
  match t.list with
  | [x] => (s.begin' t false).perform x
  | l =>
    let r := match s.chainWidth l with
      | some c => s.gather c
      | none => (true, s)
    if !r.1 then .next r.2
    else match r.2.waiter l with
      | some x => r.2.beginWait x
      | none => (r.2.begin' t true).performChain l

/-! ### A part's turn -/

/-- The instructions that the part aimed at is to issue; none where its fetch ends in a trap or a fault. -/
def State.slate (s : State) : List Instr :=
  match s.fetchPart with
  | .chain l => (slateOf s.part l).list.map fun x => x.2.instr
  | _ => []

/-- A context makes progress: its watchdog starts afresh (R453). -/
def State.progress (s : State) (ctx : Nat) : State := s.onCtx ctx fun c => { c with quiet := 0 }

/-- A chain of the part aimed at has issued, unless it waits: it occupies its pipes, and its context has made progress
(R13, R60, R339, R453). `before` is the state in which it was aimed at. -/
def State.issuedFrom (s before : State) : State :=
  if s.iss.held then s
  else
    let units := (before.pipesFor before.slate []).getD []
    ((s.occupy before.wg.core before.wave.partition before.costQuads units).progress before.wg.ctx).onIssued fun p =>
      { p with idle := 0 }

/-- Issue what the part aimed at is to issue: the end of its fetch, or its chain. -/
def State.issue (s : State) : Host.Outcome State Fault Refusal :=
  match s.fetchPart with
  | .trap t => .next (s.takeFetchTrap t)
  | .absent va level pte => .next (s.parkFetch va level pte)
  | .poisoned a => .next (s.walkPoison s.wg.ctx a s.wg.grid)
  | .chain l =>
    onward ((s.fetchTouch s.wg.core s.wg.ctx s.part.pc.toNat).issueSlate (slateOf s.part l)) fun t =>
      .next (t.issuedFrom s)

/-! ### The picks of a partition (R339) -/

/-- A part of a wave that may be picked, with the wave's `SR_ROUND` and `SR_CUBEMODE` as the cycle begins: a SETSR of either
takes effect in a later one (R73). -/
structure Pick where
  wave : Nat
  part : Part
  round : BitVec 2
  assist : Bool
  deriving DecidableEq, Repr, Inhabited

/-- Does a pick rank before another: one that has not issued for 32 cycles, the higher priority, the older (R44,
R339)? -/
def Pick.before (a b : Pick) : Bool :=
  let sa := decide (32 ≤ a.part.idle)
  let sb := decide (32 ≤ b.part.idle)
  if sa != sb then sa
  else if !sa && a.part.prio != b.part.prio then b.part.prio.toNat < a.part.prio.toNat
  else a.part.older b.part

/-- Insert a pick in rank order. -/
def insertPick (p : Pick) : List Pick → List Pick
  | [] => [p]
  | q :: qs => if p.before q then p :: q :: qs else q :: insertPick p qs

/-- The wave and entry of a pick. -/
def Pick.name (p : Pick) : Nat × Nat := (p.wave, p.part.entry)

/-- The place of a wave: partition `place % 4` of core `place / 4`. -/
def State.placeOf (s : State) (w : Wave) : Nat := 4 * (s.wgOf w.wg).core + w.partition

/-- The partitions that hold waves, ascending. -/
def State.places (s : State) : List Nat := distinct (s.allWaves.map s.placeOf)

/-- The parts of a partition that are awake, in rank order, that which lost a pipe in the last cycle ahead of every ranking
(R339). -/
def State.ranked (s : State) (place : Nat) : List Pick :=
  let l := ((s.allWaves.filter fun w => s.placeOf w == place && !s.frozen w.id).flatMap fun w =>
    (w.parts.filter w.awake).map fun p => ⟨w.id, p, w.round, w.assist⟩).foldr insertPick []
  match (s.core (place / 4)).loser.get (place % 4) with
  | some x => (l.filter fun p => p.name == x) ++ l.filter fun p => p.name != x
  | none => l

/-- The part of a pick, aimed at. -/
def State.at' (s : State) (p : Pick) : State :=
  let t := s.aim p.wave p.part.entry
  { t with iss := { t.iss with round := p.round, assist := p.assist } }

/-- The first picks of a list whose chains may issue, at most `n`. -/
def State.firstReady (s : State) : Nat → List Pick → List Pick
  | 0, _ => []
  | _, [] => []
  | n + 1, p :: ps => if (s.at' p).ready then p :: State.firstReady s n ps else State.firstReady s (n + 1) ps

/-- Do two picks of a partition need one pipe, or one port entry (R14, R139, R339)? -/
def State.conflict (s : State) (p q : Pick) : Bool :=
  let t := s.at' p
  match t.pipesFor t.slate [] with
  | some us => (t.pipesFor (s.at' q).slate us).isNone
  | none => false

/-- The state that a pick's issue would leave. -/
def State.trial (s : State) (p : Pick) : State :=
  match (s.at' p).issue with
  | .next t => t
  | _ => s

/-- The picks of a partition in a cycle, the older first, and the one that lost a pipe (R339). -/
def State.choose (s : State) (place : Nat) : List Pick × Option (Nat × Nat) :=
  match s.firstReady 2 (s.ranked place) with
  | p :: q :: _ =>
    let older := p.part.older q.part
    if s.conflict p q then
      if older || (s.core (place / 4)).loser.get (place % 4) == some p.name then ([p], some q.name) else ([q], some p.name)
    else (if older then [p, q] else [q, p], none)
  | l => (l, none)

/-- Insert a pick after those that are older (R44). -/
def insertTurn (p : Pick) : List Pick → List Pick
  | [] => [p]
  | q :: qs => if q.part.older p.part then q :: insertTurn p qs else p :: q :: qs

/-- Does a pick's issue kill its context, through a page walk that reads poison (R424)? -/
def State.kills (s : State) (p : Pick) : Bool := ((s.trial p).ctx (s.at' p).wg.ctx).killed

/-- Every pick of the cycle, in the order in which they issue: the older first, as records, stores into a window and commands of
one cycle are taken (R44, R201, R250, R304, R321, R390), and by place where R44 ranks neither; those that kill their contexts
after what traps in the cycle (R398; DEDUCED, unsafe; log entry 2). -/
def State.allPicks (s : State) : List Pick :=
  let l := (s.places.flatMap fun n => (s.choose n).1).foldr insertTurn []
  if l.length ≤ 1 then l else (l.filter fun p => !s.kills p) ++ l.filter s.kills

/-- The parts that lost a pipe in this cycle are noted, for the next (R339). -/
def State.noteLosers (s : State) : State :=
  s.places.foldl (fun t n =>
    if (s.choose n).2 == (s.core (n / 4)).loser.get (n % 4) then t
    else t.onCore (n / 4) fun c => { c with loser := c.loser.set (n % 4) (s.choose n).2 }) s

/-- Is the part of a pick as it was when it was picked, and may it still issue? -/
def State.stillReady (s : State) (p : Pick) : Bool :=
  ((s.waveOf p.wave).parts.any fun q =>
    q.entry == p.part.entry && q.pc == p.part.pc && q.members == p.part.members && q.fws == .run) && (s.at' p).ready

/-- Page faults that a pick would meet in a wave of which an older pick of the cycle traps have their records written first
(R398). -/
def State.prefault (s : State) (p : Pick) (ps : List Pick) : State :=
  let mine := ps.filter fun q => q.wave == p.wave
  if mine = [] ∨ (s.trial p).iss.trapped = false then s
  else mine.foldl (fun s q =>
    let t := s.at' q
    (s.trial q).iss.faults.foldl (fun s k =>
      (s.waitAll (sectOf t.wg.core) t.wg.ctx k.kind t.wg.grid (pagesOf k.absents)).2.2) s) s

/-! ### Barriers and rings of a cycle (R33, R38) -/

/-- What acts once the other chains of a cycle have issued: a chain of its own, or instructions of a chain that has issued, with
the latch and the sources of it (R140). -/
inductive Meeting where
  | chain (p : Pick)
  | rest (wave : Nat) (iss : Issue) (src : RegFile) (list : List Item)
  deriving DecidableEq, Repr

/-- The instructions that a part is to issue, each with its index. -/
def State.items (s : State) : List Item :=
  match s.fetchPart with
  | .chain l => (slateOf s.part l).list
  | _ => []

/-- Does a pick's chain act, or begin its wait, only once the others of the cycle have issued: one instruction that meets
others, or a chain of several that waits for a barrier or ring? One that traps does not. -/
def State.meets (s : State) (p : Pick) : Bool :=
  let t := s.at' p
  let l := t.items
  let waits := match l with
    | [x] => meetsOthers x.2.instr
    | _ => (t.waiter l).isSome
  waits && !(s.trial p).iss.trapped

/-- The wave of a meeting, and the instructions that meet others. -/
def State.meetingOf (s : State) : Meeting → Nat × List Instr
  | .chain p => (p.wave, (s.at' p).items.map fun x => x.2.instr)
  | .rest w _ _ l => (w, l.map fun x => x.2.instr)

/-- Does a meeting go before another: releases and exits first, then in ascending wave number, and DEMOTE last (R33, R38,
R250)? -/
def State.meetsFirst (s : State) (a b : Meeting) : Bool :=
  let key := fun (m : Meeting) =>
    let x := s.meetingOf m
    let frees := x.2.any fun i => match i with
      | .stageRel .. | .exit => true
      | _ => false
    let demotes := x.2.all fun i => match i with
      | .cctlDemote .. => true
      | _ => false
    (if frees then 0 else if demotes then 64 else 32) + (s.waveOf x.1).num
  decide (key a < key b)

/-- Insert a meeting after those that do not go after it. -/
def State.insertMeeting (s : State) (m : Meeting) : List Meeting → List Meeting
  | [] => [m]
  | x :: xs => if s.meetsFirst m x then m :: x :: xs else x :: State.insertMeeting s m xs

/-- Perform instructions of a chain that has issued. -/
def State.performLate (s : State) : List Item → Host.Outcome State Fault Refusal
  | [] => .next s
  | x :: xs =>
    let r := if holdsPart x.2.instr then s.performHold x
      else if s.mustWait x.2.instr then .next (s.putOff x) else s.perform x
    onward r fun t => State.performLate t xs

/-- What meets others acts: a chain if it still may issue; the rest of a chain while its wave is resident. -/
def State.meet (s : State) (m : Meeting) : Host.Outcome State Fault Refusal :=
  match m with
  | .chain p => if s.stillReady p then (s.at' p).issue else .next s
  | .rest w iss src l => if s.hasWave w then { s.focus w with iss := iss, src := src }.performLate l else .next s

/-- Meetings, in order. -/
def State.meetInTurn (s : State) : List Meeting → Host.Outcome State Fault Refusal
  | [] => .next s
  | m :: ms => onward (s.meet m) fun t => State.meetInTurn t ms

/-- The meetings of a cycle, in the order of R33 and R38; then the waiting acquirers of rings test their slots. -/
def State.meetAll (s : State) (ms : List Meeting) : Host.Outcome State Fault Refusal :=
  onward (s.meetInTurn (ms.foldr s.insertMeeting [])) fun t => .next t.serveAll

/-! ### The parts issue -/

/-- The instructions of a pick's chain that are left for after the others. -/
def State.left (s before : State) : List Item :=
  match before.items with
  | [_] => []
  | l => if s.iss.later then l.filter fun x => meetsOthers x.2.instr && !before.wouldTrap x else []

/-- The part aimed at issues its chain with all its instructions, no other part issuing (R62). -/
def State.issueWhole (s : State) : Host.Outcome State Fault Refusal :=
  onward s.issue fun t => t.performLate (t.left s)

/-- The picks issue, each if it still may once those before it have issued; then the cycle goes on with what is left to meet
others. -/
def State.issueAll (s : State) (ms : List Meeting) (k : State → List Meeting → Host.Outcome State Fault Refusal) :
    List Pick → Host.Outcome State Fault Refusal
  | [] => k s ms
  | p :: ps =>
    if s.meets p then State.issueAll s (ms ++ [.chain p]) k ps
    else
      let s := s.prefault p ps
      onward (if s.stillReady p then (s.at' p).issue else .next s) fun t =>
        let l := if s.stillReady p then t.left (s.at' p) else []
        State.issueAll t (if l = [] then ms else ms ++ [.rest p.wave t.iss t.src l]) k ps

/-- The parts issue in a cycle (R339). -/
def State.issueParts (s : State) (k : State → List Meeting → Host.Outcome State Fault Refusal) :
    Host.Outcome State Fault Refusal :=
  s.noteLosers.issueAll [] k s.allPicks

end Sys2Proof.Machine
end

