-- ==== Sys2Proof/Machine/Cycle.lean ====
section
/-!
DEFINITION. Machine/Cycle.lean: what happens in a cycle beside the issue of chains: the clocks, the events, the starts of
workgroups, single steps, and what falls due at its end (DESIGN CHOICE, unsafe; log entries 2, 3).
-/

namespace Sys2Proof.Machine

/-! ### The clocks -/

/-- One cycle of a part's clocks (R46, R54, R56, R58, R191, R339). -/
def Part.tick (p : Part) : Part :=
  { p with
    delay := p.delay - 1
    idle := p.idle + 1
    clock := if p.fws = .fuse ∨ p.fws = .forced then min (p.clock + 1) (2 ^ 24) else p.clock
    hold := match p.hold with
      | .sleep n => .sleep (n - 1)
      | h => h }

/-- One cycle of a wave's clocks; a stopped wave's stand still (R412). -/
def Wave.tick (w : Wave) : Wave := if w.stop.isSome then w else { w with parts := w.parts.map Part.tick }

/-- Does the next chain of a part wait on the scoreboard (R56)? -/
def State.stalledOn (s : State) (wave : Nat) (p : Part) : Bool :=
  let t := s.aim wave p.entry
  t.slate.any fun i => !t.scoreClear i

/-- Count the cycles that chains of waves with the policy `.split miss` have waited on the scoreboard (R56). -/
def State.tickStalls (s : State) : State :=
  s.mapWaves fun w =>
    if (s.wgOf w.wg).launch.splitMiss && w.stop.isNone then
      { w with parts := w.parts.map fun p =>
          { p with stalled := if w.awake p && s.stalledOn w.id p then p.stalled + 1 else 0 } }
    else w

/-- One cycle of a workgroup's deadline counter (R342). -/
def WG.tick (g : WG) : WG := { g with deadline := g.deadline.map (· - 1) }

/-- One cycle of the batch clocks of a die, which stand while a yield of their context is requested, and stop at the timer of
their node (R304, R341, R448). -/
def State.tickBatches (s : State) : State :=
  if s.dies = [] then s
  else
    let expired := fun (b : Batch) => ((nodeOf (s.gridOf b.grid) b.node).map fun n => decide (n.timer ≤ b.clock)).getD false
    let run := fun (b : Batch) => if (s.ctx b.ctx).yieldReq || expired b then b else { b with clock := b.clock + 1 }
    { s with dies := s.dies.mapV fun d => { d with batches := d.batches.map run } }

/-- One cycle of the watchdogs: one of a context without resident work starts afresh, as a wave stopped for debug makes its
context's do, and none counts during a COMMIT (R453 to R455). (DEDUCED, unsafe; log entry 51.) -/
def State.tickWatchdogs (s : State) : State :=
  let resident := distinct (s.allWgs.map WG.ctx)
  let s := (s.ctxs.filter fun c => c.2.quiet != 0 && !resident.contains c.1).foldl (fun s c => s.progress c.1) s
  resident.foldl (fun t c =>
    let debug := s.allWaves.any fun w => (s.wgOf w.wg).ctx == c && (match w.stop with
      | some x => x.debug
      | none => false)
    if s.fw.committing.isSome then t
    else t.onCtx c fun c => { c with quiet := if debug then 0 else c.quiet + s.cycleTime }) s

/-- One cycle of the saves in progress: cycles with an assist outstanding do not count (R454). -/
def State.tickSaves (s : State) : State :=
  { s with saving := s.saving.map fun v => if s.assisting v.cluster then v else { v with clock := v.clock + s.cycleTime } }

/-- One cycle of the clocks of waves, which stand while a cluster is saved (R347). -/
def State.tickWaves (s : State) : State := s.mapWaves fun w => if s.frozen w.id then w else w.tick

/-- One cycle of the ray units and texture units: each takes an instruction from a queue of its port (R14). -/
def State.tickPorts (s : State) : State := { s with cores := s.cores.mapV Core.takeRt }

/-- A cycle begins: the count of cycles, the time, and the free-value counter; then the saves of clusters that became
quiescent in the one before (R344, R345, R372; DESIGN CHOICE, unsafe; log entry 2). -/
def State.beginCycle (s : State) : State :=
  { s with cycle := s.cycle + 1, time := s.time + s.cycleTime, fresh := s.fresh + 1 }.beginSaves

/-- One cycle of every clock, and the requests that clear (R341). -/
def State.tickClocks (s : State) : State :=
  ((s.tickWaves.tickStalls.mapWgs WG.tick).tickBatches.tickWatchdogs.tickSaves.tickPorts).clearYields

/-! ### Events -/

/-- The engine queues that an event works on. -/
def engineOf : Instr → Option Nat
  | .copyEngineTake n | .copyComplete n _ | .publishExchange n _ | .shadowRegionOpened n _ | .collComplete n _ _
  | .collPeerLost n _ | .splatEngineTake n | .splatComplete n => some n
  | _ => none

/-- What tells how far a command has come: all of it but the token it is parked under and the pages it pins. -/
def Cmd.work (c : Cmd) : Cmd := { c with parked := none, pins := [] }

/-- An event happens; an engine command that has made progress restarts its context's watchdog; parking is no progress of the
command (R453). -/
def State.happen (s : State) (i : Instr) : Host.Outcome State Fault Refusal :=
  onward (exec i s) fun t =>
    match engineOf i with
    | none => .next t
    | some n =>
      let before := (s.sect n).copyQ ++ (s.sect n).splatQ
      let after := ((t.sect n).copyQ ++ (t.sect n).splatQ).map Cmd.work
      .next ((distinct ((before.filter fun c => !after.contains c.work).map Cmd.ctx)).foldl State.progress t)

/-- Events happen in turn. -/
def State.happenAll (s : State) : List Instr → Host.Outcome State Fault Refusal
  | [] => .next s
  | i :: is => onward (s.happen i) fun t => State.happenAll t is

/-- The next event or message of the agenda reaches the machine (log entry 3). -/
def State.takeAgenda (s : State) : Host.Outcome State Fault Refusal :=
  match s.agenda with
  | [] => .next s
  | i :: rest =>
    let s := { s with agenda := rest }
    if i.isEvent then s.happen i else .next s

/-- An event of the device takes its turn (log entry 3). -/
def State.takeTurn (s : State) (e : Option Instr) : Host.Outcome State Fault Refusal := s.happenAll e.toList

/-- The section controllers start workgroups, the lowest section first; those that lost a core try their next origin in
the cycle after (R331). -/
def State.startWork (s : State) : Host.Outcome State Fault Refusal :=
  let c := s.claims
  onward (s.happenAll (c.start.map Instr.workgroupStart)) fun t => .next (t.noteClaims c)

/-- What falls due in a cycle, once its chains have issued: the timers of waves, unless their clusters are being saved,
batches whose clocks have reached their nodes' timers, and bounds in time (R54, R304, R355, R412, Table 27.5). -/
def State.dueNow (s : State) : List Instr :=
  (s.allWaves.flatMap s.timersOf) ++ s.dies.keys.flatMap s.batchesDue ++ s.boundsDue

/-- A cycle ends: what falls due in it happens; the dumps of its traps show their waves as it leaves them (R62); replays whose
records have been written take effect (R389); the courses of its traps follow their records (R390); the scheduler core reads the
next blocks of its queues (R326). -/
def State.endCycle (s : State) : Host.Outcome State Fault Refusal :=
  onward (s.happenAll s.dueNow) fun t => .next t.settleDumps.takeAnswers.takeCourses.pollQueues

/-! ### Single steps (R62, R414) -/

/-- The wave whose single step is in progress, and the parts that are still to issue. -/
def State.stepper (s : State) : Option (Nat × List Nat) :=
  s.allWaves.findSome? fun w =>
    if s.frozen w.id then none else (w.stop.bind Stop.stepping).map fun es => (w.id, es)

/-- Would the part aimed at issue its chain but for pipes that are still occupied (R13)? -/
def State.waitsForPipe (s : State) : Bool :=
  let core := { s.core s.wg.core with pipes := [] }
  !s.ready && { s with cores := s.cores.set s.wg.core core }.ready

/-- One part of a single step issues one chain, if its chain may issue; a chain whose pipes an older part of the step occupies
waits for them; after the last, the step ends with its record. -/
def State.stepPart (s : State) (wave : Nat) : List Nat → Host.Outcome State Fault Refusal
  | [] => .next (s.endStep wave)
  | e :: es =>
    let w := s.waveOf wave
    let t := s.aim wave e
    let goes := (w.parts.any fun p => p.entry == e) && { w with stop := none }.awake (w.part e)
    let next := fun (s : State) => s.mapWave wave fun w => { w with stop := w.stop.map fun t => { t with stepping := some es } }
    if goes && t.ready then ((next s).aim wave e).issueWhole
    else if goes && t.waitsForPipe then .next s
    else .next (next s)

/-- A part of a single step in progress takes its turn. -/
def State.stepOne (s : State) : Host.Outcome State Fault Refusal :=
  match s.stepper with
  | some (w, es) => s.stepPart w es
  | none => .next s

/-- A cycle up to the issue of chains: deadlines that expired in the one before force their clusters (R346), and the clocks
advance (DESIGN CHOICE, unsafe; log entries 2, 3). -/
def State.openCycle (s : State) : Host.Outcome State Fault Refusal :=
  let s := s.beginCycle
  onward (s.happenAll s.deadlines) fun s => .next s.tickClocks

/-- The events of a cycle, after its chains have issued: watchdogs expire (R453), an event of the agenda and one of the device
happen, workgroups start, and a single step goes on (DESIGN CHOICE, unsafe; log entries 2, 3). -/
def State.midCycle (s : State) (e : Option Instr) : Host.Outcome State Fault Refusal :=
  onward (s.happenAll s.hangsDue) fun s =>
    onward s.takeAgenda fun s =>
      onward (s.takeTurn e) fun s =>
        onward s.startWork State.stepOne

/-- The rest of a cycle once its chains have issued: its events, which see the stores, page faults and traps of the cycle
(R250, R398, R427) and release ring slots before any is claimed (R38); then what meets at barriers and rings; then what
falls due. -/
def State.closeCycle (s : State) (e : Option Instr) (ms : List Meeting) : Host.Outcome State Fault Refusal :=
  onward (s.midCycle e) fun s => onward (s.meetAll ms) State.endCycle

end Sys2Proof.Machine
end

