-- ==== Sys2Proof/Machine/Step.lean ====
section
/-!
DEFINITION. Machine/Step.lean: the one step of the machine, and a state whose next step runs a given instruction.
-/

namespace Sys2Proof.Machine

/-- One step, one cycle: the clocks, the chains that the partitions pick, then the events of the cycle and what falls due
(R143, R339; DESIGN CHOICE, unsafe; log entries 2, 3). The event of the device that takes its turn is one enabled before the
chains issue, so that nothing completes in the cycle of its issue (R236). -/
def step (s : State) : Host.Outcome State Fault Refusal :=
  onward s.openCycle fun s => s.issueParts fun t ms => t.closeCycle s.turn ms

/-- A wave of 64 lanes about to fetch code index 30, the first that a body may have (R456). -/
def freshWave : Wave :=
  { (default : Wave) with
    id := 1, wg := 1, width := 64
    parts := [{ (default : Part) with members := 0xFFFF, pc := 30, masks := BitVec.allOnes 64, fws := .run, reason := .whole }] }

/-- The workgroup of that wave, in context 0 on core 0. -/
def freshWg : WG :=
  { (default : WG) with
    id := 1, grid := 0, ctx := 0, core := 0, cluster := 1, live := [0]
    launch := { (default : LaunchRec) with width := 64, waves := 1, cw := 1, ch := 1, nwgx := 1, nwgy := 1, nwgz := 1 } }

/-- A leaf that maps the first 16 KiB page to frame 0 for every access: V, LEAF, R, W, X, ENG, A and D (Table 6.3). -/
def openLeaf : DWord := 0x33F

/-- The state whose next step fetches and runs the instruction of `nbits` bits `w` (its words in order, zero above): a
context with a code heap at address 0, its first page in the TLB, the words at code index 30, and one wave about to
fetch them. A program comes to run through boot, INSTALL, QUEUE-PUT and GRID, from outside; this stands for that load
(DESIGN CHOICE, safe; log entry 17). -/
def State.withFetchWord (s : State) (nbits w : Nat) : State :=
  let x := w % 2 ^ nbits % 2 ^ 64
  { s with
    cycle := 0
    agenda := []
    waves := []
    wgs := []
    wave := freshWave
    wg := freshWg
    mem := Cells.write s.mem 128 (leBytes 8 x)
    poison := []
    saving := []
    cores := s.cores.set 0 { (default : Core) with ctx := some 0 }
    sects := s.sects.set 0 { (default : Sect) with tlb := [⟨1, 0, 0, openLeaf⟩] }
    ctxs := s.ctxs.set 0 { (default : Ctx) with installed := true, asid := 1, heapSize := 1, armed := true } }

end Sys2Proof.Machine
end

