-- ==== Sys2Proof/Safety.lean ====
section
/-!
DEFINITION. Safety.lean: the vocabulary of the statements: what a step may leave changed, and the values that the manual's
tables give, written as numbers beside the words of the model.
-/

namespace Sys2Proof.Machine

/-! ### What stays as it was -/

/-- The byte of memory at a physical address. -/
def State.byteAt (s : State) (pa : Nat) : Byte := Cells.get s.mem pa

/-- Every byte of memory reads as before. -/
def State.SameMemory (s t : State) : Prop := ∀ a, t.byteAt a = s.byteAt a

/-- Nothing but the registers and predicates of the wave in issue may have changed. -/
def State.OnlyRegs (s t : State) : Prop := t = { s with wave := { s.wave with rf := t.wave.rf } }

/-- The lane whose result the register of a field takes, as lane `lane` reads it: its own for a v register, that of
its quad's lowest lane of the list for a k register (R63, R64); none where the field names another register or no lane
writes it. -/
def hit (ls : List Nat) (d lane r : Nat) : Option Nat :=
  if r ≠ d then none
  else if d < 96 then (if lane ∈ ls then some lane else none)
  else ls.find? fun l => l / 4 == lane / 4

/-- One destination register: what each lane's register then reads, where it was written. -/
def oneWord (ls : List Nat) (d : Reg) (f : Nat → Word) (lane r : Nat) : Option Word := (hit ls d.toNat lane r).map f

/-- A destination pair: the low word in the register named, the high word in the next (R67). -/
def pairOf (ls : List Nat) (d : Reg) (f : Nat → DWord) (lane r : Nat) : Option Word :=
  ((hit ls d.toNat lane r).map fun l => bits 0 32 (f l)) <|> ((hit ls (d.toNat + 1) lane r).map fun l => bits 32 32 (f l))

/-- No register is written. -/
def noWord (_ _ : Nat) : Option Word := none

/-- One predicate, in the lanes of a list; p7 is not written (R65). -/
def onePred (ls : List Nat) (p : BitVec 3) (f : Nat → Bool) (lane i : Nat) : Option Bool :=
  if i = p.toNat ∧ i ≠ 7 ∧ lane ∈ ls then some (f lane) else none

/-- No predicate is written. -/
def noPred (_ _ : Nat) : Option Bool := none

/-- The frame of an instruction that writes registers and predicates only: the registers written hold their results
without a poison mark, every other register, mark and predicate of every lane is as before, and so is everything else
(R63 to R65, R424). -/
def State.RegsAfter (s t : State) (reg : Nat → Nat → Option Word) (pred : Nat → Nat → Option Bool) : Prop :=
  s.OnlyRegs t ∧ s.SameMemory t
    ∧ (∀ lane r, r < 128 → t.wave.rf.read lane r = (reg lane r).getD (s.wave.rf.read lane r))
    ∧ (∀ lane r, r < 128 → t.wave.rf.marked lane r = ((reg lane r).isNone && s.wave.rf.marked lane r))
    ∧ (∀ lane i, i < 8 → t.wave.rf.p lane i = (pred lane i).getD (s.wave.rf.p lane i))

/-- An instruction completes, and writes these registers and predicates and nothing else. -/
def Gives (i : Instr) (s : State) (reg : Nat → Nat → Option Word) (pred : Nat → Nat → Option Bool) : Prop :=
  ∃ t, exec i s = .next t ∧ s.RegsAfter t reg pred

/-! ### Integer results as numbers (R165 to R179) -/

/-- A captured source read as .z32, as .s32, or as a .z64 or .s64 pair. -/
def State.u (s : State) (r : Reg) (l : Nat) : Nat := (s.rd r l).toNat
def State.i (s : State) (r : Reg) (l : Nat) : Int := (s.rd r l).toInt
def State.u2 (s : State) (r : Reg) (l : Nat) : Nat := (s.rd2 r l).toNat
def State.i2 (s : State) (r : Reg) (l : Nat) : Int := (s.rd2 r l).toInt

/-- A number modulo 2^32, and modulo 2^64. -/
def nat32 (n : Nat) : Word := BitVec.ofNat 32 n
def int32 (n : Int) : Word := BitVec.ofInt 32 n
def int64 (n : Int) : DWord := BitVec.ofInt 64 n

/-- Number of set bits. -/
def ones (x : Nat) : Nat := ((List.range 32).map fun i => x / 2 ^ i % 2).sum

/-- Destination and result in a lane of the short integer forms (Tables 9.3 and 9.4, R167). -/
def shortInt (s : State) : Instr → Option (Reg × (Nat → Word))
  | .iadd d a b => some (d, fun l => nat32 (s.u a l + s.u b l))
  | .isub d a b => some (d, fun l => int32 ((s.u a l : Int) - s.u b l))
  | .imul d a b => some (d, fun l => nat32 (s.u a l * s.u b l))
  | .imulh d a b => some (d, fun l => int32 (Int.fdiv (s.i a l * s.i b l) (2 ^ 32)))
  | .imulhu d a b => some (d, fun l => nat32 (s.u a l * s.u b l / 2 ^ 32))
  | .imin d a b => some (d, fun l => int32 (min (s.i a l) (s.i b l)))
  | .iminu d a b => some (d, fun l => nat32 (min (s.u a l) (s.u b l)))
  | .imax d a b => some (d, fun l => int32 (max (s.i a l) (s.i b l)))
  | .imaxu d a b => some (d, fun l => nat32 (max (s.u a l) (s.u b l)))
  | .iabsd d a b => some (d, fun l => nat32 (s.i a l - s.i b l).natAbs)
  | .and d a b => some (d, fun l => nat32 (s.u a l &&& s.u b l))
  | .or d a b => some (d, fun l => nat32 (s.u a l ||| s.u b l))
  | .xor d a b => some (d, fun l => nat32 (s.u a l ^^^ s.u b l))
  | .andn d a b => some (d, fun l => nat32 (s.u a l &&& (2 ^ 32 - 1 - s.u b l)))
  | .shl d a b => some (d, fun l => nat32 (s.u a l * 2 ^ (s.u b l % 256)))
  | .shr d a b => some (d, fun l => nat32 (s.u a l / 2 ^ (s.u b l % 256)))
  | .sar d a b => some (d, fun l => int32 (Int.fdiv (s.i a l) (2 ^ (s.u b l % 256))))
  | .popc d a => some (d, fun l => nat32 (ones (s.u a l)))
  | .clz d a => some (d, fun l => nat32 (if s.u a l = 0 then 32 else 31 - Nat.log2 (s.u a l)))
  | .brev d a => some (d, fun l => (s.rd a l).reverse)
  | .mov d a => some (d, fun l => nat32 (s.u a l))
  | .iaddi d a imm => some (d, fun l => int32 (s.u a l + imm.toInt))
  | .andi d a imm => some (d, fun l => nat32 (s.u a l &&& (int32 imm.toInt).toNat))
  | .ori d a imm => some (d, fun l => nat32 (s.u a l ||| (int32 imm.toInt).toNat))
  | .xori d a imm => some (d, fun l => nat32 (s.u a l ^^^ (int32 imm.toInt).toNat))
  | .shli d a n => some (d, fun l => nat32 (s.u a l * 2 ^ n.toNat))
  | .shri d a n => some (d, fun l => nat32 (s.u a l / 2 ^ n.toNat))
  | .sari d a n => some (d, fun l => int32 (Int.fdiv (s.i a l) (2 ^ n.toNat)))
  | .imuli d a imm => some (d, fun l => int32 (s.u a l * imm.toInt))
  | _ => none

/-- A condition of ISETP of two numbers: EQ, NE, LT, LE, GT, GE as 0 to 5 (R168). -/
def intHolds (cond : BitVec 4) (x y : Int) : Prop :=
  (cond = 0 ∧ x = y) ∨ (cond = 1 ∧ x ≠ y) ∨ (cond = 2 ∧ x < y) ∨ (cond = 3 ∧ x ≤ y) ∨ (cond = 4 ∧ x > y)
    ∨ (cond = 5 ∧ x ≥ y)

/-- The operand of ISETP as its TYPE reads it: .s32, .z32, .s64, .z64 (R168). -/
def State.typed (s : State) (type : BitVec 2) (r : Reg) (l : Nat) : Int :=
  if type = 0 then s.i r l else if type = 1 then (s.u r l : Int) else if type = 2 then s.i2 r l else (s.u2 r l : Int)

/-- What COMB makes of the predicate: set, and, or (R168). -/
def combHolds (comb : BitVec 2) (old : Bool) (c : Prop) : Prop :=
  (comb = 0 ∧ c) ∨ (comb = 1 ∧ old = true ∧ c) ∨ (comb = 2 ∧ (old = true ∨ c))

/-! ### Long integer results (R169 to R179) -/

/-- Bit `i` of a LOP3 result: the LUT's bit at a + 2 b + 4 c (R173). -/
def lop3Word (lut : BitVec 8) (a b c : Word) : Word :=
  nat32 (((List.range 32).map fun i =>
    (lut.getLsbD (a.toNat / 2 ^ i % 2 + 2 * (b.toNat / 2 ^ i % 2) + 4 * (c.toNat / 2 ^ i % 2))).toNat * 2 ^ i).sum)

/-- Byte of PRMT that a selector byte chooses from the pool of A and B (R176). -/
def prmtByte (a b sel : Nat) : Nat :=
  let q := (a + b * 2 ^ 32) / 2 ^ (8 * (sel % 8)) % 256
  if sel / 8 % 4 = 0 then q else if sel / 8 % 4 = 1 then 0 else if sel / 8 % 4 = 2 then (if q < 128 then 0 else 255) else 255

/-- PRMT's result, byte by byte (R176). -/
def prmtWord (a b c : Nat) : Word :=
  nat32 (((List.range 4).map fun i => prmtByte a b (c / 256 ^ i % 256) * 256 ^ i).sum)

/-- Destination and result in a lane of the long forms that write one register and have no check to fail, and of those
with a check, when it holds (R169, R172 to R179). -/
def longInt (s : State) : Instr → Option (Guard × Reg × (Nat → Word))
  | .imad g mode d a b c =>
    if mode = 3 then none
    else some (g, d, fun l => int32 ((if mode = 0 then (s.u a l * s.u b l : Int)
      else if mode = 1 then Int.fdiv (s.i a l * s.i b l) (2 ^ 32)
      else ((s.u a l * s.u b l / 2 ^ 32 : Nat) : Int)) + s.u c l))
  | .lea g sh sext w32 d a b =>
    if w32 then some (g, d, fun l => int32 (s.u a l + (if sext then s.i b l else (s.u b l : Int)) * 2 ^ sh.toNat)) else none
  | .lop3 g lut d a b c => some (g, d, fun l => lop3Word lut (s.rd a l) (s.rd b l) (s.rd c l))
  | .fsh g left imm amt d a b c => some (g, d, fun l =>
      let n := if imm then amt.toNat else s.u c l % 32
      let w := s.u b l * 2 ^ 32 + s.u a l
      nat32 (if left then w * 2 ^ n / 2 ^ 32 else w / 2 ^ n))
  | .bfe g len pos imm signed d a b => some (g, d, fun l =>
      let p := if imm then pos.toNat else s.u b l % 256
      let n := min 32 (if imm then len.toNat else s.u b l / 256 % 256)
      let f := Int.fdiv (if signed then s.i a l else (s.u a l : Int)) (2 ^ p) % 2 ^ n
      int32 (if signed = true ∧ 0 < n ∧ 2 ^ (n - 1) ≤ f then f - 2 ^ n else f))
  | .bfi g len pos imm d a b c => some (g, d, fun l =>
      let p := if imm then pos.toNat else s.u c l % 256
      let n := min 32 (if imm then len.toNat else s.u c l / 256 % 256)
      let m := (2 ^ n - 1) * 2 ^ p % 2 ^ 32
      nat32 ((s.u a l &&& (2 ^ 32 - 1 - m)) ||| (s.u b l * 2 ^ p &&& m)))
  | .prmt g d a b c => some (g, d, fun l => prmtWord (s.u a l) (s.u b l) (s.u c l))
  | .sel g sp sneg d a b => some (g, d, fun l => if s.src.p l sp.toNat = !sneg then s.rd a l else s.rd b l)
  | .movi g d imm => some (g, d, fun _ => imm)
  | .idp4 g as bs sat d a b c => some (g, d, fun l =>
      let t := (List.range 4).map fun i => byteInt as i (s.rd a l) * byteInt bs i (s.rd b l)
      if sat then
        if as || bs then int32 (max (-2 ^ 31) (min (2 ^ 31 - 1) (s.i c l + t.sum)))
        else int32 (min (2 ^ 32 - 1) (s.u c l + t.sum))
      else int32 (s.u c l + t.sum))
  | .iaddImm32 g d imm => some (g, d, fun l => nat32 (s.u d l + imm.toNat))
  | .andImm32 g d imm => some (g, d, fun l => nat32 (s.u d l &&& imm.toNat))
  | .orImm32 g d imm => some (g, d, fun l => nat32 (s.u d l ||| imm.toNat))
  | .xorImm32 g d imm => some (g, d, fun l => nat32 (s.u d l ^^^ imm.toNat))
  | .imulImm32 g d imm => some (g, d, fun l => nat32 (s.u d l * imm.toNat))
  | _ => none

/-- Destination pair and result of the 64-bit forms with even pairs (R170, R172). -/
def longInt64 (s : State) : Instr → Option (Guard × Reg × (Nat → DWord))
  | .imad64 g sign d a b c =>
    if d.toNat % 2 = 0 ∧ c.toNat % 2 = 0 then
      some (g, d, fun l => int64 ((if sign then s.i a l * s.i b l else (s.u a l * s.u b l : Int)) + s.u2 c l))
    else none
  | .iadd64 g d a b =>
    if d.toNat % 2 = 0 ∧ a.toNat % 2 = 0 ∧ b.toNat % 2 = 0 then some (g, d, fun l => int64 (s.u2 a l + s.u2 b l)) else none
  | .isub64 g d a b =>
    if d.toNat % 2 = 0 ∧ a.toNat % 2 = 0 ∧ b.toNat % 2 = 0 then
      some (g, d, fun l => int64 ((s.u2 a l : Int) - s.u2 b l)) else none
  | .lea g sh sext w32 d a b =>
    if w32 = false ∧ d.toNat % 2 = 0 ∧ a.toNat % 2 = 0 then
      some (g, d, fun l => int64 (s.u2 a l + (if sext then s.i b l else (s.u b l : Int)) * 2 ^ sh.toNat)) else none
  | _ => none

/-- The sum of IADDC or ISUBC in a lane, with its guard, carry-out predicate and destination (R171). -/
def carryForm (s : State) : Instr → Option (Guard × BitVec 3 × Reg × (Nat → Nat))
  | .iaddc g ci neg co d a b => some (g, co, d, fun l => s.u a l + s.u b l + (s.src.p l ci.toNat != neg).toNat)
  | .isubc g ci neg co d a b =>
    some (g, co, d, fun l => s.u a l + (2 ^ 32 - 1 - s.u b l) + (s.src.p l ci.toNat != neg).toNat)
  | _ => none

/-! ### Floating-point results (R203 to R215) -/

/-- A source's FP32 value, and the element of a 16-bit format (R79). -/
def State.f (s : State) (r : Reg) (l : Nat) : XVal := Fmt.decode .fp32 (s.u r l)
def State.e (s : State) (f : Fmt) (r : Reg) (l i : Nat) : XVal := f.decode (s.u r l / 2 ^ (16 * i) % 2 ^ 16)

/-- A value delivered as FP32, rounded once (R81, R83). -/
def toF32 (mode : Rounding) (sat : Bool) (x : XVal) : Word :=
  nat32 (Fmt.convert .fp32 x mode (if sat then .unit else .none))

/-- Two elements of a 16-bit format, each rounded once (R79). -/
def toPacked (f : Fmt) (mode : Rounding) (sat : Bool) (x : Nat → XVal) : Word :=
  nat32 (f.convert (x 0) mode (if sat then .unit else .none) + 2 ^ 16 * f.convert (x 1) mode (if sat then .unit else .none))

/-- Destination and result in a lane of the short floating-point forms (Table 10.3, Table 10.5, R211). -/
def shortFloat (s : State) : Instr → Option (Reg × (Nat → Word))
  | .fadd d a b => some (d, fun l => toF32 s.rounding false (XVal.add s.rounding (s.f a l) (s.f b l)))
  | .fsub d a b => some (d, fun l => toF32 s.rounding false (XVal.add s.rounding (s.f a l) (s.f b l).neg))
  | .fmul d a b => some (d, fun l => toF32 s.rounding false (XVal.mul (s.f a l) (s.f b l)))
  | .fmin d a b => some (d, fun l => toF32 s.rounding false (XVal.minNum (s.f a l) (s.f b l)))
  | .fmax d a b => some (d, fun l => toF32 s.rounding false (XVal.maxNum (s.f a l) (s.f b l)))
  | .hadd2 d a b =>
    some (d, fun l => toPacked .fp16 s.rounding false fun i => XVal.add s.rounding (s.e .fp16 a l i) (s.e .fp16 b l i))
  | .hmul2 d a b => some (d, fun l => toPacked .fp16 s.rounding false fun i => XVal.mul (s.e .fp16 a l i) (s.e .fp16 b l i))
  | .hmin2 d a b => some (d, fun l => toPacked .fp16 s.rounding false fun i => XVal.minNum (s.e .fp16 a l i) (s.e .fp16 b l i))
  | .hmax2 d a b => some (d, fun l => toPacked .fp16 s.rounding false fun i => XVal.maxNum (s.e .fp16 a l i) (s.e .fp16 b l i))
  | .badd2 d a b =>
    some (d, fun l => toPacked .bf16 s.rounding false fun i => XVal.add s.rounding (s.e .bf16 a l i) (s.e .bf16 b l i))
  | .bmul2 d a b => some (d, fun l => toPacked .bf16 s.rounding false fun i => XVal.mul (s.e .bf16 a l i) (s.e .bf16 b l i))
  | .frcp d a => some (d, fun l => toF32 s.rounding false (XVal.div (XVal.ofInt 1) (s.f a l)))
  | .frsq d a => some (d, fun l => frsqOf (s.rd a l))
  | .fsqrt d a => some (d, fun l => fsqrt32 s.rounding (s.rd a l))
  | .fex2 d a => some (d, fun l => fex2Of (s.rd a l))
  | .flg2 d a => some (d, fun l => flg2Of (s.rd a l))
  | .fsin d a => some (d, fun l => fsinOf (s.rd a l))
  | .fcos d a => some (d, fun l => fcosOf (s.rd a l))
  | .ftanh d a => some (d, fun l => ftanhOf (s.rd a l))
  | .frndRn d a => some (d, fun l => frndOf .rne (s.rd a l))
  | .frndRz d a => some (d, fun l => frndOf .rz (s.rd a l))
  | .frndRm d a => some (d, fun l => frndOf .rm (s.rd a l))
  | .frndRp d a => some (d, fun l => frndOf .rp (s.rd a l))
  | .i2f d a => some (d, fun l => toF32 s.rounding false (XVal.ofInt (s.i a l)))
  | .f2i d a => some (d, fun l => nat32 (convertInt true 32 (s.f a l) .rz true))
  | _ => none

/-- A value with ABS and then NEG applied to its sign (R205): a NaN stays NaN. -/
def modVal (neg abs : Bool) (x : XVal) : XVal :=
  let y := if abs then x.abs else x
  if neg then y.neg else y

/-- The rounding of a RND field below 5 (Table 10.2). -/
def State.rndMode (s : State) (rnd : BitVec 3) : Rounding :=
  if rnd = 0 then s.rounding else if rnd = 1 then .rne else if rnd = 2 then .rz else if rnd = 3 then .rm else .rp

/-- Element of B that BSEL gives (R207). -/
def bselIndex (bsel : BitVec 2) (i : Nat) : Nat := if bsel = 1 then 0 else if bsel = 2 then 1 else if bsel = 3 then 1 - i else i

/-- Destination and result in a lane of the long floating-point forms whose RND and TYPE are legal (R205 to R209). -/
def longFloat (s : State) : Instr → Option (Guard × Reg × (Nat → Word))
  | .ffma g m d a b c =>
    if m.rnd.toNat < 5 then some (g, d, fun l => toF32 (s.rndMode m.rnd) m.sat (XVal.add (s.rndMode m.rnd)
      (XVal.mul (modVal m.negA m.absA (s.f a l)) (modVal m.negB m.absB (s.f b l))) (modVal m.negC m.absC (s.f c l))))
    else none
  | .faddLong g m d a b =>
    if m.rnd.toNat < 5 then some (g, d, fun l => toF32 (s.rndMode m.rnd) m.sat (XVal.add (s.rndMode m.rnd)
      (modVal m.negA m.absA (s.f a l)) (modVal m.negB m.absB (s.f b l)))) else none
  | .fsubLong g m d a b =>
    if m.rnd.toNat < 5 then some (g, d, fun l => toF32 (s.rndMode m.rnd) m.sat (XVal.add (s.rndMode m.rnd)
      (modVal m.negA m.absA (s.f a l)) (modVal m.negB m.absB (s.f b l)).neg)) else none
  | .fmulLong g m d a b =>
    if m.rnd.toNat < 5 then some (g, d, fun l => toF32 (s.rndMode m.rnd) m.sat (XVal.mul
      (modVal m.negA m.absA (s.f a l)) (modVal m.negB m.absB (s.f b l)))) else none
  | .fminLong g m d a b =>
    if m.rnd.toNat < 5 then some (g, d, fun l => toF32 (s.rndMode m.rnd) m.sat (XVal.minNum
      (modVal m.negA m.absA (s.f a l)) (modVal m.negB m.absB (s.f b l)))) else none
  | .fmaxLong g m d a b =>
    if m.rnd.toNat < 5 then some (g, d, fun l => toF32 (s.rndMode m.rnd) m.sat (XVal.maxNum
      (modVal m.negA m.absA (s.f a l)) (modVal m.negB m.absB (s.f b l)))) else none
  | .faddImm g d imm => some (g, d, fun l => toF32 s.rounding false (XVal.add s.rounding (s.f d l) (fval imm)))
  | .fsubImm g d imm => some (g, d, fun l => toF32 s.rounding false (XVal.add s.rounding (s.f d l) (fval imm).neg))
  | .fmulImm g d imm => some (g, d, fun l => toF32 s.rounding false (XVal.mul (s.f d l) (fval imm)))
  | .fminImm g d imm => some (g, d, fun l => toF32 s.rounding false (XVal.minNum (s.f d l) (fval imm)))
  | .fmaxImm g d imm => some (g, d, fun l => toF32 s.rounding false (XVal.maxNum (s.f d l) (fval imm)))
  | .hfma2 g m d a b c =>
    if m.rnd.toNat < 5 then some (g, d, fun l => toPacked .fp16 (s.rndMode m.rnd) m.sat fun i => XVal.add (s.rndMode m.rnd)
      (XVal.mul (modVal m.negA false (s.e .fp16 a l i)) (modVal m.negB false (s.e .fp16 b l (bselIndex m.bsel i))))
      (modVal m.negC false (s.e .fp16 c l i))) else none
  | .bfma2 g m d a b c =>
    if m.rnd.toNat < 5 then some (g, d, fun l => toPacked .bf16 (s.rndMode m.rnd) m.sat fun i => XVal.add (s.rndMode m.rnd)
      (XVal.mul (modVal m.negA false (s.e .bf16 a l i)) (modVal m.negB false (s.e .bf16 b l (bselIndex m.bsel i))))
      (modVal m.negC false (s.e .bf16 c l i))) else none
  | .fclass g type d a =>
    if type.toNat < 5 then
      some (g, d, fun l => classify (classFmt type) (s.u a l % 2 ^ (classFmt type).width)) else none
  | _ => none

/-- A condition of FSETP of two values (Table 10.4). -/
def floatHolds (cond : BitVec 4) (x y : XVal) : Prop :=
  let c := cond.toNat
  let rel := fun k => (k = 0 ∧ XVal.eq x y = true) ∨ (k = 1 ∧ XVal.eq x y = false) ∨ (k = 2 ∧ XVal.lt x y = true)
    ∨ (k = 3 ∧ XVal.le x y = true) ∨ (k = 4 ∧ XVal.lt y x = true) ∨ (k = 5 ∧ XVal.le y x = true)
  if x.isNan || y.isNan then 6 ≤ c ∧ c ≤ 11 ∨ c = 13 else c = 12 ∨ (c < 12 ∧ rel (c % 6))

/-- The operand of FSETP as its TYPE reads it (R208). -/
def State.floatTyped (s : State) (type : BitVec 2) (r : Reg) (l : Nat) : XVal :=
  if type = 0 then s.f r l else if type = 1 then s.e .fp16 r l 0 else s.e .bf16 r l 0

/-- A CVT whose formats, modifiers and pairs are legal and that writes no E2M1X block (R212 to R214, Tables 10.7 and
10.9). -/
def cvtLegal (df sf : BitVec 4) (rnd : BitVec 3) (sat : BitVec 2) (merge : Bool) (d a : Reg) : Prop :=
  df.toNat < 14 ∧ df ≠ 5 ∧ sf.toNat < 14 ∧ rnd.toNat < 5 ∧ sat.toNat < 3 ∧ (12 ≤ df.toNat → d.toNat % 2 = 0)
    ∧ (12 ≤ sf.toNat → a.toNat % 2 = 0) ∧ (sf = 5 → df.toNat < 3 ∧ merge = false)
    ∧ (6 ≤ df.toNat → sf.toNat < 5 → sat = 0) ∧ (6 ≤ df.toNat → 6 ≤ sf.toNat → sat.toNat < 2)

/-- The source value of CVT in a lane (R213, R215). -/
def State.cvtSource (s : State) (sf : BitVec 4) (ssel : BitVec 3) (a b : Reg) (l : Nat) : XVal :=
  let w := (cvtFmt sf).width
  let code := if w = 64 then s.u2 a l else if w = 32 then s.u a l else s.u a l / 2 ^ (w * (ssel.toNat % (32 / w))) % 2 ^ w
  match cvtFmt sf with
  | .flt f => f.decode code
  | .int signed w => XVal.ofInt (if signed then (BitVec.ofNat w code).toInt else code)
  | .block => decodeE2M1X code (s.u b l % 256) (s.u b l / 256 % 256)

/-- The result code of CVT (Table 10.9). -/
def cvtCodeOf (df sf : BitVec 4) (mode : Rounding) (sat : BitVec 2) (x : XVal) : Nat :=
  match cvtFmt df, cvtFmt sf with
  | .flt f, .block => f.convert x .rne .none
  | .flt f, _ => f.convert x mode (if sat = 0 then .none else if sat = 1 then .unit else .fmt)
  | .int signed w, .int _ _ =>
    match x with
    | .fin neg n _ =>
      let v : Int := if neg then -n else n
      ((if sat = 0 then v else max (minInt signed w) (min (maxInt signed w) v)) % 2 ^ w).toNat
    | _ => 0
  | .int signed w, _ => convertInt signed w x mode true
  | .block, _ => 0

/-- D of a CVT in a lane, when it is one register: element DSEL from the code, the others from B or zero (R213). -/
def State.cvtWord (s : State) (df sf : BitVec 4) (rnd : BitVec 3) (sat : BitVec 2) (merge : Bool) (dsel : BitVec 2)
    (ssel : BitVec 3) (a b : Reg) (l : Nat) : Word :=
  let w := (cvtFmt df).width
  let code := cvtCodeOf df sf (s.rndMode rnd) sat (s.cvtSource sf ssel a b l)
  if w = 32 then nat32 code
  else nat32 (((List.range (32 / w)).map fun i =>
    (if i = dsel.toNat % (32 / w) then code else if merge then s.u b l / 2 ^ (w * i) % 2 ^ w else 0) * 2 ^ (w * i)).sum)

/-! ### Cross-lane results (R216 to R222) -/

/-- A minimum width that the wave can give and whose blocks the quads with which the chain issued cover, so that no
forced fuse waits (R58, R139, R147). -/
def State.WidthMet (s : State) (code : BitVec 3) : Prop :=
  code.toNat < 5 ∧ 4 * 2 ^ code.toNat ≤ s.wave.width ∧ lacking s.wave (4 * 2 ^ code.toNat) s.iss.members = 0

/-- The lanes of a list in the segment of a lane (R216). -/
def segOf (ls : List Nat) (w l : Nat) : List Nat := ls.filter fun i => decide (i / w = l / w)

/-- The mask of the positions of some lanes in their segment (R216). -/
def maskAt (w : Nat) (ls : List Nat) : Nat := (ls.map fun i => 2 ^ (i % w)).sum

/-- The lane whose A a SHFL takes; none where there is no source (R217). -/
def State.shflLane (s : State) (mode : BitVec 2) (w n l : Nat) : Option Nat :=
  let t : Int := if mode = 0 then (n % w : Nat) else if mode = 1 then (l % w : Nat) - (n : Int)
    else if mode = 2 then ((l % w + n : Nat) : Int) else ((l % w ^^^ n : Nat) : Int)
  let src := l / w * w + t.toNat
  if 0 ≤ t ∧ t < w ∧ s.wave.exited.getLsbD src = false then some src else none

/-- A reduction of words (R221). -/
def reduced (op : BitVec 3) (signed : Bool) (xs : List Word) : Word :=
  if op = 0 then nat32 (xs.map BitVec.toNat).sum
  else if op = 1 then
    if signed then int32 ((xs.map BitVec.toInt).foldl min (2 ^ 31 - 1)) else nat32 ((xs.map BitVec.toNat).foldl min (2 ^ 32 - 1))
  else if op = 2 then
    if signed then int32 ((xs.map BitVec.toInt).foldl max (-2 ^ 31)) else nat32 ((xs.map BitVec.toNat).foldl max 0)
  else if op = 3 then xs.foldl (· &&& ·) (BitVec.allOnes 32)
  else if op = 4 then xs.foldl (· ||| ·) 0
  else xs.foldl (· ^^^ ·) 0

/-! ### Memory accesses (R89 to R97, R224 to R235) -/

/-- A pair base, or a quadruple base, where an access size needs one (R67, R225). -/
def sizeFits (size : BitVec 3) (d : Reg) : Prop :=
  size.toNat < 7 ∧ (size = 5 → d.toNat % 2 = 0) ∧ (size = 6 → d.toNat % 4 = 0)

/-- Nothing that the issuing core or part stored still waits for its home: a release has nothing to push out (R118,
R121). -/
def State.Quiet (s : State) : Prop :=
  pendingSteps (s.wavesOn s.wg.core) 0 = [] ∧ ∀ o ∈ s.wave.ops, o.done = true ∨ o.target = 0

/-- The TLB entry through which the issuing core translates an address (R107). -/
def State.entryOf (s : State) (va : Nat) : Option TlbEntry :=
  tlbFind (s.sect (sectOf s.wg.core)).tlb (s.ctx s.wg.ctx).asid va

/-- The TLB holds the page of an address with the permissions asked, and with D set where it is written: the access
needs no walk (R105, R107, R418). -/
def State.Mapped (s : State) (va : Nat) (n : Need) : Prop :=
  ∃ e, s.entryOf va = some e ∧ grants e.pte n = true ∧ (n.w = true → pteD e.pte = true)

/-- The physical address of a mapped address (R103). -/
def State.paOf (s : State) (va : Nat) : Nat :=
  match s.entryOf va with
  | some e => leafAddr e.pte e.level va
  | none => 0

/-- The caching policy of a mapped address's page (Table 6.3). -/
def State.pageCp (s : State) (va : Nat) : Nat :=
  match s.entryOf va with
  | some e => pteCp e.pte
  | none => 0

/-- A canonical, aligned, mapped address of a load, whose line in the L1, if any, is readable (R89, R92, R418). -/
def State.Loadable (s : State) (va n : Nat) : Prop :=
  canonical va = true ∧ va % n = 0 ∧ s.Mapped va ⟨true, false, false, false⟩
    ∧ ∀ l, lineOf (s.core s.wg.core) (s.ctx s.wg.ctx).asid va = some l → l.readable = true

/-- The line that the L1 holds for an address, if any, is writable and holds the frame that the TLB gives (R92, R418). -/
def State.LineAgrees (s : State) (va : Nat) : Prop :=
  ∀ l, lineOf (s.core s.wg.core) (s.ctx s.wg.ctx).asid va = some l →
    l.writable = true ∧ l.pa * 128 + va % 128 = s.paOf va

/-- A canonical, aligned, mapped address of a store or an atomic. -/
def State.Storable (s : State) (va n : Nat) (need : Need) : Prop :=
  canonical va = true ∧ va % n = 0 ∧ s.Mapped va need

/-- What an issued operation leaves: it is outstanding, of a class, for the lanes and destination registers given
(R43, R68). -/
def State.Issued (t : State) (id : Nat) (cls : OpClass) (ls regs : List Nat) (kind : OpKind) : Prop :=
  ∃ o ∈ t.wave.ops, o.id = id ∧ o.cls = cls ∧ o.done = false ∧ o.lanes = maskOf ls ∧ o.regs = regs ∧ o.kind = kind

/-- Lanes, size, destination, addresses, hint and acquire scope of a load from global memory. -/
structure LoadForm where
  lanes : List Nat
  size : BitVec 3
  d : Reg
  addr : Nat → Nat
  hint : Nat
  acquire : Option Nat

/-- The global loads and those of the parameter block with legal fields (R226, R227, R229). -/
def State.loadForm (s : State) : Instr → LoadForm → Prop
  | .ld d a size off, f => sizeFits size d ∧ a.toNat % 2 = 0
      ∧ f = ⟨s.act, size, d, fun l => (s.u2 a l + off.toNat * sizeBytes size) % 2 ^ 64, 0, none⟩
  | .ldLong g m d a off, f => sizeFits m.size d ∧ a.toNat % 2 = 0 ∧ m.scope.toNat < 6 ∧ m.ord.toNat < 2
      ∧ f = ⟨s.actG g, m.size, d, fun l => ((s.u2 a l + off.toInt) % 2 ^ 64).toNat, m.hint.toNat,
        if m.ord = 1 then some m.scope.toNat else none⟩
  | .ldk d a size off, f => sizeFits size d
      ∧ (∀ l ∈ s.act, (s.u a l + off.toNat * sizeBytes size) % 2 ^ 32 + sizeBytes size ≤ 4096)
      ∧ f = ⟨s.act, size, d, fun l => (s.wg.launch.param + (s.u a l + off.toNat * sizeBytes size) % 2 ^ 32) % 2 ^ 64, 0, none⟩
  | .ldkLong g size d a off, f => sizeFits size d
      ∧ (∀ l ∈ s.actG g, (s.u a l + off.toNat) % 2 ^ 32 + sizeBytes size ≤ 4096)
      ∧ f = ⟨s.actG g, size, d, fun l => (s.wg.launch.param + (s.u a l + off.toNat) % 2 ^ 32) % 2 ^ 64, 0, none⟩
  | _, _ => False

/-- A load that is performed at the home slice (R124). -/
def LoadForm.home (f : LoadForm) : Bool :=
  match f.acquire with
  | some scope => decide (3 ≤ scope)
  | none => false

/-- What the lanes of a load return, in ascending order. -/
def State.loads (s : State) (f : LoadForm) : List (Nat × Loaded) :=
  (s.loadLanes (sizeBytes f.size) f.addr f.hint f.home f.lanes).1

/-- The quads of a load with a lane that missed in the L2 (R56). -/
def State.lateQuads (s : State) (f : LoadForm) : BitVec 16 :=
  quadsWith (maskOf (((s.loads f).filter fun x => x.2.missed).map Prod.fst))

/-- The lanes of each operation that a load issues: all lanes in one; under the policy `.split miss`, where some quads of
the part wait on a miss and some do not, those of the latter and those of the former (R56). -/
def State.loadOps (s : State) (f : LoadForm) : List (List Nat) :=
  let late := fun (l : Nat) => (s.lateQuads f).getLsbD (l / 4)
  if s.wg.launch.splitMiss = true ∧ s.lateQuads f ≠ 0 ∧ s.lateQuads f ≠ s.iss.members then
    [f.lanes.filter fun l => !late l, f.lanes.filter late]
  else [f.lanes]

/-- Of the register writes of some lanes, those that their instruction makes: a k register takes the result of the lowest
lane of its quad among all for which the instruction acts, those that parked among them (R57, R64). -/
def State.owned (s : State) (ls : List Nat) (ws : List RegWrite) : List RegWrite := ownWrites (s.actAll ls) (maskOf ls) ws

/-- Lanes, size, data register, addresses and hint of a store to global memory with legal fields (R226, R227). -/
def State.storeForm (s : State) : Instr → LoadForm → Prop
  | .st d a size off, f => sizeFits size d ∧ a.toNat % 2 = 0
      ∧ f = ⟨s.act, size, d, fun l => (s.u2 a l + off.toNat * sizeBytes size) % 2 ^ 64, 0, none⟩
  | .stLong g m d a off, f => sizeFits m.size d ∧ a.toNat % 2 = 0 ∧ m.scope.toNat < 6 ∧ m.ord.getLsbD 0 = false
      ∧ f = ⟨s.actG g, m.size, d, fun l => ((s.u2 a l + off.toInt) % 2 ^ 64).toNat, m.hint.toNat, none⟩
  | _, _ => False

/-- The bytes of a register run, lowest register and lowest byte first, as a store of `n` bytes takes them (R225). -/
def State.dataBytes (s : State) (d : Reg) (n l : Nat) : List Byte :=
  (List.range n).map fun i => BitVec.ofNat 8 ((s.src.read l (d.toNat + i / 4)).toNat / 256 ^ (i % 4))

/-- Lanes, size, data register, hop and offsets of a scratchpad load or store with legal fields (R226, R228). -/
structure ScratchForm where
  lanes : List Nat
  size : BitVec 3
  d : Reg
  dx : Int
  dy : Int
  off : Nat → Nat
  order : Option Nat

/-- The scratchpad loads; an acquire gives its scope, CLUSTER at most (R226, R228). -/
def State.ldsForm (s : State) : Instr → ScratchForm → Prop
  | .lds d a size off, f => sizeFits size d
      ∧ f = ⟨s.act, size, d, 0, 0, fun l => (s.u a l + off.toNat * sizeBytes size) % 2 ^ 32, none⟩
  | .ldsLong g m d a off, f => sizeFits m.size d ∧ m.scope.toNat < 6 ∧ m.ord.toNat < 2
      ∧ f = ⟨s.actG g, m.size, d, m.dx.toInt, m.dy.toInt, fun l => ((s.u a l + off.toInt) % 2 ^ 32).toNat,
        if m.ord = 1 then some (min m.scope.toNat 2) else none⟩
  | _, _ => False

/-- The scratchpad stores (R226, R228). -/
def State.stsForm (s : State) : Instr → ScratchForm → Prop
  | .sts d a size off, f => sizeFits size d
      ∧ f = ⟨s.act, size, d, 0, 0, fun l => (s.u a l + off.toNat * sizeBytes size) % 2 ^ 32, none⟩
  | .stsLong g m d a off, f => sizeFits m.size d ∧ m.scope.toNat < 6 ∧ m.ord.getLsbD 0 = false
      ∧ f = ⟨s.actG g, m.size, d, m.dx.toInt, m.dy.toInt, fun l => ((s.u a l + off.toInt) % 2 ^ 32).toNat, none⟩
  | _, _ => False

/-- Offsets that pass the checks of a scratchpad access: within the window, aligned, and to a member of the cluster
(R97, R224, R418). -/
def State.InWindow (s : State) (f : ScratchForm) (n : Nat) : Prop :=
  (f.dx = 0 ∧ f.dy = 0 ∨ (hopCore s.wg f.dx f.dy).isSome = true)
    ∧ ∀ l ∈ f.lanes, f.off l + n ≤ 4096 * s.wg.launch.scratch ∧ f.off l % n = 0

/-- What a lane loads from the window at a hop: the bytes of the member's window, zeros where it has exited (R97,
R422). -/
def State.windowBytes (s : State) (dx dy : Int) (off n : Nat) : List Byte :=
  match s.hopWg dx dy with
  | some w => (s.wgOf w).scratch.read off n
  | none => List.replicate n 0

/-- The register writes of a load whose lanes read the bytes given (R64, R225). -/
def loadedRegs (ls : List Nat) (size : BitVec 3) (d : Reg) (bytes : Nat → List Byte) : List RegWrite :=
  regWrites (ls.flatMap fun l => (loadWords size (bytes l)).zipIdx.map fun w => (l, d.toNat + w.2, w.1, false))

/-- Atomics on memory in the order of a list of (address, operand, comparand): what each read, and memory after (R230,
R233). -/
def atomRun (aop type : Nat) : List (Nat × Nat × Nat) → List Host.Cell → List Nat × List Host.Cell
  | [], m => ([], m)
  | (pa, b, c) :: rest, m =>
    let old := leValue (Cells.read m pa (atomicBytes type))
    let r := atomRun aop type rest (Cells.write m pa (leBytes (atomicBytes type) (applyAtomic aop type old b c)))
    (old :: r.1, r.2)

/-- The operand of an atomic of a TYPE in a lane: a register or a pair (R230). -/
def State.atomArg (s : State) (type : Nat) (r : Reg) (l : Nat) : Nat := if type < 2 then s.u r l else s.u2 r l

/-- An ATOM or RED whose fields and pairs are legal and whose TYPE its operation allows (R231, Table 25.2). -/
def atomLegal (m : AtomicMods) (a b c : Reg) : Prop :=
  m.aop.toNat < 13 ∧ m.scope.toNat < 6 ∧ a.toNat % 2 = 0 ∧ atomType m.aop m.type = m.type.toNat
    ∧ (2 ≤ m.type.toNat → b.toNat % 2 = 0 ∧ (m.aop = 7 → c.toNat % 2 = 0))

/-! ### Parts, waves and workgroups -/

/-- The wave in focus is resident, belongs to the workgroup in focus, and holds the issuing part (R41). -/
def State.InFocus (s : State) : Prop :=
  s.wave.id ≠ 0 ∧ s.wg.id ≠ 0 ∧ s.wave.wg = s.wg.id ∧ ∃ p ∈ s.wave.parts, p.entry = s.iss.entry

/-- The parts of the wave in focus may have changed, and whether the chain in issue has redirected or held its part, and
nothing else; the parts of other entries have not. -/
def State.OnlyPart (s t : State) : Prop :=
  t = { s with
      wave := { s.wave with parts := t.wave.parts }, iss := { s.iss with moved := t.iss.moved, held := t.iss.held } } ∧ ∀ e, e ≠ s.iss.entry → t.wave.part e = s.wave.part e

/-- An instruction completes and changes the issuing part alone, to the part given. -/
def Moves (i : Instr) (s : State) (p : Part) : Prop := ∃ t, exec i s = .next t ∧ s.OnlyPart t ∧ t.part = p

/-- The issuing part redirected to an index, or, where an instruction of its chain is still to be issued alone, to the
index after that one (R141): ready no earlier than the second cycle after, but for the index that follows its chain
(R184). -/
def State.redirected (s : State) (pc : Word) : Part :=
  { s.part.to pc with
    came := s.iss.pc, serial := none, delay := if pc = s.iss.next then s.part.delay else max s.part.delay 2 }

/-- A part goes where another would go from here: to its index, or there after the instruction that it still issues
alone. -/
def Part.goes (r p : Part) (pc : Word) : Prop := r.pc = (p.to pc).pc ∧ r.redo = (p.to pc).redo

/-- The parts of the wave in focus that hold a quad with which the chain in issue issued have changed, and nothing else
has (R45, R141). -/
def State.issuedParts (s : State) (f : Part → Part) : State :=
  { s with wave := { s.wave with parts := s.wave.parts.map fun p =>
      if p.entry = s.iss.entry ∨ p.members &&& s.iss.members ≠ 0 then f p else p } }

/-- A branch with a guard, its target and fuse id (R180). -/
def State.branchForm (s : State) : Instr → Option (Guard × Word × BitVec 8)
  | .brc g off id => some (g, s.iss.pc + BitVec.ofInt 32 off.toInt, id)
  | .brl g off id => some (g, s.iss.pc + BitVec.ofInt 32 off.toInt, id)
  | _ => none

/-- The lanes of a list that lie in a quad, as a lane mask. -/
def quadLanes (ls : List Nat) (q : Nat) : BitVec 4 :=
  BitVec.ofNat 4 ((List.range 4).map fun i => if 4 * q + i ∈ ls then 2 ^ i else 0).sum

/-- What a branch to a target does where active lanes disagree (R47): a quad all of whose lanes are taken goes to the target,
one with none to the index after the chain, and a mixed one to the target with its taken lanes and pushes the other path. -/
def State.Divided (s t : State) (taken : Nat → BitVec 4) (target : Word) (id : BitVec 8) : Prop :=
  let p := s.part
  ∀ q ∈ quadsOf p.members, ∃ r ∈ t.wave.parts, r.members.getLsbD q = true
    ∧ (let m := nibble p.masks q
       if m &&& taken q = 0 then
         r.goes p s.iss.next ∧ nibble r.masks q = m ∧ t.wave.quads.get q = s.wave.quads.get q
       else if m &&& ~~~(taken q) = 0 then
         r.goes p target ∧ nibble r.masks q = m ∧ t.wave.quads.get q = s.wave.quads.get q
       else
         r.goes p target ∧ nibble r.masks q = m &&& taken q
           ∧ t.wave.quads.get q = { s.wave.quads.get q with
               stack := ⟨false, m &&& ~~~(taken q), m, id, s.iss.next⟩ :: (s.wave.quads.get q).stack })

/-- What a BRX does in a quad (R48, R182): without an active lane it goes to the index after the chain; else to the lowest of
its lanes' targets, with the lanes that name it, and pushes an entry for each other one, the next-lowest on top, which
restores the lanes active before. -/
def State.Scattered (s t : State) (target : Nat → Word) (id : BitVec 8) (q : Nat) : Prop :=
  let p := s.part
  let m := nibble p.masks q
  ∃ r ∈ t.wave.parts, r.members.getLsbD q = true
    ∧ (m = 0 → r.goes p s.iss.next ∧ nibble r.masks q = 0 ∧ t.wave.quads.get q = s.wave.quads.get q)
    ∧ ∀ i < 4, m.getLsbD i = true → (∀ j < 4, m.getLsbD j = true → (target (4 * q + i)).toNat ≤ (target (4 * q + j)).toNat) →
      r.goes p (target (4 * q + i))
      ∧ (∀ j < 4, (nibble r.masks q).getLsbD j = (m.getLsbD j && decide (target (4 * q + j) = target (4 * q + i))))
      ∧ ∃ ds : List DefEntry, t.wave.quads.get q = { s.wave.quads.get q with stack := ds ++ (s.wave.quads.get q).stack }
        ∧ (ds.map fun d => d.resume.toNat).Pairwise (· < ·)
        ∧ (∀ x : Word, x ∈ ds.map DefEntry.resume ↔
            ∃ j < 4, m.getLsbD j = true ∧ target (4 * q + j) = x ∧ x ≠ target (4 * q + i))
        ∧ ∀ d ∈ ds, d.running = false ∧ d.restMask = m ∧ d.fuseId = id
          ∧ ∀ j < 4, d.defMask.getLsbD j = (m.getLsbD j && decide (target (4 * q + j) = d.resume))

/-- Entries enough for a split into `n` further parts (R41). -/
def State.entriesFor (s : State) (n : Nat) : Prop := (freeEntries (s.usedEntries s.wave) n).length = n

/-- The page of an address of a context has been written before: A and D are set in its leaf (R105). -/
def State.Written (s : State) (ctx va : Nat) : Prop :=
  ∀ pte a level, s.walk ctx va = .leaf pte a level → pte &&& 0x300 = 0x300

/-- Where the fault queue of the issuing wave's context takes its next record: control block, entry and write index,
with room and no record held (R388, R389), in pages written before; no save pool, so that no dump is taken (R390). -/
def State.RecordRoom (s : State) (cb e w : Nat) : Prop :=
  let c := s.ctx s.wg.ctx
  s.Written s.wg.ctx c.faultq ∧ s.Written s.wg.ctx (c.faultq + 64 * (1 + w % (2 ^ c.faultLog - 1)))
    ∧ s.ctxPa s.wg.ctx c.faultq = some cb ∧ w = s.readNat cb 4
    ∧ (w + 2 ^ 32 - s.readNat (cb + 4) 4) % 2 ^ 32 ≠ 2 ^ c.faultLog - 1
    ∧ s.ctxPa s.wg.ctx (c.faultq + 64 * (1 + w % (2 ^ c.faultLog - 1))) = some e
    ∧ c.held = [] ∧ c.poolSize = 0 ∧ isRegSpace cb = false ∧ isRegSpace e = false ∧ (e + 64 ≤ cb ∨ cb + 16 ≤ e)

/-- A number of a record in memory. -/
def State.numberAt (s : State) (pa n : Nat) : Nat := leValue (Cells.read s.mem pa n)

/-- What a trap or debug stop of the issuing part leaves when the wave stays for the debugger (R62, R390): the wave
stopped, the part at the instruction, every register as it was; and where its record has room, the record's fields
(Table 24.4) and the write index, and every other byte of memory as it was. -/
def State.StoppedAt (s t : State) (code flags extra va : Nat) : Prop :=
  (∃ st, t.wave.stop = some st ∧ st.debug = true) ∧ t.part.pc = s.iss.pc ∧ t.wave.rf = s.wave.rf
    ∧ ∀ cb e w, s.RecordRoom cb e w →
      (∃ st, t.wave.stop = some st ∧ st.held = false ∧ st.dump = recordVa (s.ctx s.wg.ctx) w)
      ∧ t.numberAt e 2 = code ∧ t.numberAt (e + 2) 1 = flags ∧ t.numberAt (e + 8) 4 = s.iss.pc.toNat
      ∧ t.numberAt (e + 12) 4 = s.iss.word0.toNat ∧ t.numberAt (e + 16) 4 = s.iss.word1.toNat
      ∧ t.numberAt (e + 24) 8 = va ∧ t.numberAt (e + 32) 8 = extra ∧ t.numberAt (e + 60) 2 = w % 2 ^ 16
      ∧ t.numberAt cb 4 = (w + 1) % 2 ^ 32
      ∧ ∀ p, ¬ (e ≤ p ∧ p < e + 64) → ¬ (cb ≤ p ∧ p < cb + 4) → t.byteAt p = s.byteAt p


/-! ### Engines (R237 to R249, R310 to R319) -/

/-- Guard, class, status register, job of a leader, engine and fallback of an engine instruction. -/
structure EngineForm where
  guard : Guard
  cls : OpClass
  status : Reg
  job : Nat → Job
  splat : Bool
  fallback : Bool

/-- A field that names a pair of k registers. -/
def kBase (r : Reg) : Prop := 96 ≤ r.toNat ∧ r.toNat % 2 = 0

/-- The engine instructions with legal fields, and what they ask for (R241, R245, R247, R248, R317, R409, Table 25.3).
-/
def State.engineForm (s : State) : Instr → EngineForm → Prop
  | .cpy g scope dir rel ring sr l crd dst, f => scope.toNat < 6 ∧ dir.toNat < 3 ∧ 96 ≤ sr.toNat ∧ kBase l ∧ 96 ≤ crd.toNat
      ∧ crd.toNat ≤ 122 ∧ 96 ≤ dst.toNat ∧ (dir = 2 → dst.toNat % 2 = 0)
      ∧ (rel = true → (ringOf s.wg ring.toNat).valid = true)
      ∧ f = ⟨g, .cpc, sr, fun ld => .cpy dir.toNat scope.toNat (if rel then some ring.toNat else none) (s.u2 l ld)
          ((List.range 6).map fun i => s.src.read ld (crd.toNat + i)) (if dir = 2 then s.u2 dst ld else s.u dst ld), false, false⟩
  | .coll g kind op type scope sr c h, f => scope.toNat < 6 ∧ type.toNat < 3 ∧ (kind.toNat < 2 → op.toNat < 3)
      ∧ 96 ≤ sr.toNat ∧ kBase c ∧ 96 ≤ h.toNat
      ∧ f = ⟨g, .cpc, sr, fun ld => .coll kind.toNat op.toNat type.toNat (max 3 (min scope.toNat 4)) (s.u2 c ld) (s.rd h ld), false,
          decide (scope ≠ 3 ∧ scope ≠ 4)⟩
  | .shdw g d a b, f => 96 ≤ d.toNat ∧ kBase a ∧ 96 ≤ b.toNat
      ∧ f = ⟨g, .uncounted, d, fun ld => .shdw (s.u2 a ld) (s.u b ld), false, false⟩
  | .publish g scope d a, f => scope.toNat < 6 ∧ 96 ≤ d.toNat ∧ 96 ≤ a.toNat
      ∧ f = ⟨g, .uncounted, d, fun ld => .publish scope.toNat (s.rd a ld), false, false⟩
  | .splatRun g scope sr p, f => scope.toNat < 6 ∧ 96 ≤ sr.toNat ∧ kBase p
      ∧ f = ⟨g, .uncounted, sr, fun ld => .splat false (max 3 scope.toNat) (s.u2 p ld), true, decide (scope.toNat < 3)⟩
  | .splatBwd g scope sr p, f => scope.toNat < 6 ∧ 96 ≤ sr.toNat ∧ kBase p
      ∧ f = ⟨g, .uncounted, sr, fun ld => .splat true (max 3 scope.toNat) (s.u2 p ld), true, decide (scope.toNat < 3)⟩
  | _, _ => False

/-- Every byte of memory reads as before, but for page-table entries of a list, in which EPIN may change (R105). -/
def State.MemoryBut (s t : State) (entries : List Nat) : Prop :=
  ∀ a, (∀ p ∈ entries, ¬ (p ≤ a ∧ a < p + 8)) → t.byteAt a = s.byteAt a

/-- The leaf entries that a command has pinned (R105). -/
def State.pinsOf (s : State) (c : Cmd) : List Nat :=
  s.sects.flatMap fun t => (t.2.copyQ ++ t.2.splatQ).flatMap fun d => if d.id = c.id then d.pins else []

/-- The leaf entries of the pages that hold some spans of a context's memory (R105). -/
def State.entriesOf (s : State) (ctx : Nat) (spans : List (Nat × Nat)) : List Nat :=
  spans.flatMap fun x => s.leafEntries ctx x.1 x.2

/-- No saved cluster holds a wave. -/
def State.NotSaved (s : State) (wave : Nat) : Prop := ∀ v ∈ s.saved, ∀ m ∈ v.members, ∀ w ∈ m.waves, w.id ≠ wave

/-- A command of a copy engine, for the wave in focus, that has been taken and may go on. -/
def State.copying (s : State) (sect cmd : Nat) (c : Cmd) : Prop :=
  (s.sect sect).copyQ.find? (fun d => d.id == cmd) = some c ∧ c.taken = true ∧ s.runnable c = true ∧ s.NotSaved c.wave
    ∧ s.InFocus ∧ c.wave = s.wave.id ∧ c.wg = s.wg.id

/-- A command has left its engine: its status register holds the status, every other register is as it was, its operation
has completed, and no queue holds it (R238). -/
def State.Finishes (s t : State) (c : Cmd) (status : Word) : Prop :=
  (∀ q n, t.wave.rf.k q n = if q = c.quad ∧ n = c.reg then status else s.wave.rf.k q n)
    ∧ t.wave.rf.lanes = s.wave.rf.lanes ∧ (∀ o ∈ t.wave.ops, o.id = c.op → o.done = true)
    ∧ ∀ n, ∀ d ∈ (t.sect n).copyQ ++ (t.sect n).splatQ, d.id ≠ c.id

/-- A command is taken with its record and an error, or none, and pins pages only where it goes on (R105, R239): the state
of its section, nothing else of the machine but memory's EPIN bits, the L2 and what register space holds. -/
def State.Takes (s t : State) (n : Nat) (c : Cmd) (record : List Byte) (err : Nat) (entries : List Nat) : Prop :=
  (∃ pins, t.sect n = ((s.onCmd n c.id fun d =>
      { d with taken := true, record := record, err := err, pins := if err = 0 then pins else d.pins }).sect n)
    ∧ ∀ p ∈ entries, err = 0 → p ∈ pins)
    ∧ (∀ m, m ≠ n → t.sect m = s.sect m) ∧ s.MemoryBut t (if err = 0 then s.pinsOf c ++ entries else [])
    ∧ t = { s with
        mem := t.mem, poison := t.poison, l2 := t.l2, sects := t.sects, mclog := t.mclog, debugBlk := t.debugBlk }

/-- An aligned engine access of `n` bytes that the section's TLB grants (R237, R418). -/
def State.engMapped (s : State) (sect ctx va n : Nat) (need : Need) : Prop :=
  canonical va = true ∧ va % n = 0
    ∧ ∃ e, tlbFind (s.sect sect).tlb (s.ctx ctx).asid va = some e ∧ grants e.pte need = true ∧ (need.w = true → pteD e.pte = true)

/-- The physical address that the section's TLB gives an engine. -/
def State.engPa (s : State) (sect ctx va : Nat) : Nat :=
  match tlbFind (s.sect sect).tlb (s.ctx ctx).asid va with
  | some e => leafAddr e.pte e.level va
  | none => 0

/-- An engine read whose sector is not poisoned. -/
def State.engReadable (s : State) (sect ctx va n : Nat) : Prop :=
  s.engMapped sect ctx va n ⟨true, false, false, true⟩ ∧ s.poisoned (s.engPa sect ctx va) n = false


/-- The box of a copy: whether an element lies within the tensor, its address from a base, the physical address of its source,
and its place in the window (R239, R240). -/
structure Box where
  inside : Nat → Bool
  va : Nat → Nat → Nat
  source : Nat → Nat
  place : Nat → Nat

/-- The box of a command's layout, of elements of whole bytes, at a coordinate. -/
def State.boxOf (s : State) (sect : Nat) (c : Cmd) (l : Layout) (dst : Nat) (crd : List Int) : Box :=
  let va := fun (base i : Nat) => (base + l.offset ((boxCoords l crd i).map Int.toNat) / 2) % 2 ^ 64
  { inside := fun i => !outOfBounds l.dims (boxCoords l crd i)
    va := va
    source := fun i => s.engPa sect c.ctx (va l.base i)
    place := fun i => dst + swizzle l.swz (i * 2 ^ l.fmt) }

/-- Workgroups that messages waiting for a permit count as cancelled (R330). -/
def Grid.waiting (g : Grid) : Nat := (g.messages.map fun m => m.2.2).sum

/-! ### The cube unit (R251 to R284) -/

/-- Counter class, destination registers, lanes and operations of a cube instruction. -/
structure CubeForm where
  cls : OpClass
  regs : List Nat
  lanes : List Nat
  jobs : List CubeJob

/-- The tile of CASTS or CALDS lies in the store, and its image, aligned to 16 bytes, in the window (R283). -/
def State.TileFits (s : State) (l : Nat) (afmt : BitVec 3) (t : AccTile) (offk : BitVec 5) : Prop :=
  let off := (s.kOf offk.toNat l).toNat
  let pitch := (s.kOf (offk.toNat + 1) l).toNat
  let bytes := tileCols t * cellBytes afmt.toNat
  tileOver t = false ∧ off % 16 = 0 ∧ pitch % 16 = 0 ∧ bytes ≤ pitch
    ∧ off + (tileRows t - 1) * pitch + bytes ≤ 4096 * s.wg.launch.scratch

/-- The cube instructions with legal fields that name no ring release, for the lanes in which they act, and the
operations they send to the unit, one for each octet or one in all (R251 to R253, R271, R275, R279 to R284, R409,
R410, R442). -/
def State.cubeForm (s : State) (ls : List Nat) : Instr → CubeForm → Prop
  | .cube _ m o, f => m.fmtA.toNat < 6 ∧ m.fmtB.toNat < 6 ∧ m.cfmt.toNat < 3 ∧ s.WidthMet 1
      ∧ (m.asrc = true → o.aopnd ≠ 127 ∧ (s.src.read (ls.headD 0) (o.aopnd.toNat + 1)).getLsbD 7 = false)
      ∧ f = ⟨.cbc, [], ls, (octetsOf ls).map fun q =>
          let p := cubeP m
          let size := tileRow m.fmtA.toNat p
          let tile := (s.src.read (8 * q) o.aopnd.toNat).toNat
          let row := fun l => if m.asrc then wordsOf (size / 4) (s.wg.scratch.read (tile + l % 8 * size) size)
            else (List.range (rowRegs m.fmtA.toNat p)).map fun i => s.src.read l (o.aopnd.toNat + i)
          let gate := fun l => if m.cmode = 1 then
            (List.range (gateRegs m.cfmt.toNat p)).map fun i => s.src.read l (64 + o.copnd.toNat + i) else []
          .octet m o ⟨q, octetMask ls q, octetRows ls q row, octetRows ls q gate,
            if m.cmode = 3 then (List.range (8 * p)).map fun i => s.kOf (o.copnd.toNat + i) (8 * q) else [],
            if m.asrc then tile else 0⟩ s.iss.assist⟩
  | .cldb _ c, f => c.fmt.toNat < 6 ∧ c.rel = false ∧ (c.space = false → c.srck.toNat % 2 = 0)
      ∧ (c.fmt = 4 → c.spn = 0) ∧ (c.fmt = 4 ∨ c.spn ≠ 0 → c.kext.toNat % 2 = 1)
      ∧ f = ⟨.cpc, [], ls.take 1, [.load c (if c.space then (s.kOf c.srck.toNat (ls.headD 0)).toNat
          else (s.kOf c.srck.toNat (ls.headD 0)).toNat + 2 ^ 32 * (s.kOf (c.srck.toNat + 1) (ls.headD 0)).toNat)]⟩
  | .card _ afmt relu scale sck row0 col0 d, f => d.toNat + cellRegs afmt.toNat ≤ 96 ∧ s.WidthMet 1
      ∧ (afmt = 0 → relu = false ∧ scale = false) ∧ (∀ q ∈ octetsOf ls, 8 * row0.toNat + 8 * q + 7 ≤ 255)
      ∧ f = ⟨.cbc, (List.range (cellRegs afmt.toNat)).map fun i => d.toNat + i, ls, (octetsOf ls).map fun q =>
          .card afmt.toNat relu scale (8 * row0.toNat) (16 * col0.toNat) d.toNat (octetMask ls q) q
            ((List.range 8).map fun i => (s.kOf sck.toNat (8 * q + i)).toNat % 256)⟩
  | .cawr _ afmt row0 col0 a, f => a.toNat + cellRegs afmt.toNat ≤ 96 ∧ s.WidthMet 1 ∧ afmt ≠ 1 ∧ afmt ≠ 4 ∧ afmt ≠ 5 ∧ afmt ≠ 6
      ∧ (∀ q ∈ octetsOf ls, 8 * row0.toNat + 8 * q + 7 ≤ 255)
      ∧ f = ⟨.cbc, [], ls, (octetsOf ls).map fun q =>
          .cawr afmt.toNat (8 * row0.toNat) (16 * col0.toNat) (octetMask ls q) q
            (octetRows ls q fun l => (List.range (cellRegs afmt.toNat)).map fun i => s.src.read l (a.toNat + i))⟩
  | .casts _ afmt relu scale rel _ t offk sck, f => rel = false ∧ offk.toNat < 30 ∧ (afmt = 0 → relu = false ∧ scale = false)
      ∧ s.TileFits (ls.headD 0) afmt t offk
      ∧ f = ⟨.cbc, [], ls.take 1, [.casts afmt.toNat relu scale (8 * t.row0.toNat) (16 * t.col0.toNat) (tileRows t) (tileCols t)
          (s.kOf offk.toNat (ls.headD 0)).toNat (s.kOf (offk.toNat + 1) (ls.headD 0)).toNat
          ((s.kOf sck.toNat (ls.headD 0)).toNat % 256)]⟩
  | .calds _ afmt rel _ t offk, f => rel = false ∧ offk.toNat < 30 ∧ afmt ≠ 1 ∧ afmt ≠ 4 ∧ afmt ≠ 5 ∧ afmt ≠ 6
      ∧ s.TileFits (ls.headD 0) afmt t offk
      ∧ f = ⟨.cbc, [], ls.take 1, [.calds afmt.toNat (8 * t.row0.toNat) (16 * t.col0.toNat) (tileRows t) (tileCols t)
          (s.kOf offk.toNat (ls.headD 0)).toNat (s.kOf (offk.toNat + 1) (ls.headD 0)).toNat]⟩
  | .cazeroMask _ kk, f => f = ⟨.cbc, [], ls.take 1, [.zeroMask (s.kOf kk.toNat (ls.headD 0))]⟩
  | .cazeroTile _ t, f => tileOver t = false
      ∧ f = ⟨.cbc, [], ls.take 1, [.zeroTile (8 * t.row0.toNat) (16 * t.col0.toNat) (tileRows t) (tileCols t)]⟩
  | _, _ => False

/-- The guard of a cube instruction. -/
def cubeGuard : Instr → Option Guard
  | .cube g _ _ | .cldb g _ | .card g _ _ _ _ _ _ _ | .cawr g _ _ _ _ | .casts g _ _ _ _ _ _ _ _ | .calds g _ _ _ _ _
  | .cazeroMask g _ | .cazeroTile g _ => some g
  | _ => none

/-- A cube operation of the wave in focus whose instruction has more of them outstanding, or this one alone. -/
def State.ofFocus (s : State) (o : CubeOp) : Prop := s.InFocus ∧ o.wave = s.wave.id ∧ o.wg = s.wg.id

/-- An operation has left the unit of a core: the queue holds every other. -/
def State.Leaves (s t : State) (core : Nat) (o : CubeOp) : Prop :=
  (t.core core).cube = (s.core core).cube.filter fun x => x.seq != o.seq

/-- The cube unit of a core has let go its references for a slot, and holds those for the others (R105). -/
def State.LetsGo (s t : State) (core slot : Nat) : Prop :=
  (t.core core).pins = (s.core core).pins.filter fun p => p.1 != slot

/-- Every byte of memory reads as before, but for the leaf entries that a cube unit referred to for a slot, whose EPIN
the end of the transfer may clear (R105). -/
def State.MemoryButPins (s t : State) (core slot : Nat) : Prop :=
  ∀ a, (∀ p ∈ (s.core core).pins, p.1 = slot → ¬ (p.2 ≤ a ∧ a < p.2 + 8)) → t.byteAt a = s.byteAt a

/-- Byte `j` of a row held in words, as a signed number (R253). -/
def rowInt (ws : List Word) (j : Nat) : Int := signedNat 8 ((ws.getD (j / 4) 0).toNat / 256 ^ (j % 4) % 256)

/-- Byte of an INT8 weight image at a K index and column, as a signed number (Table 13.6). -/
def weightInt (image : List Byte) (k n : Nat) : Int := signedNat 8 (image.getD (16 * k + n) 0).toNat


/-! ### Rays and textures (R294 to R302) -/

/-- Bytes that the ray or texture unit can read with no walk and no poison, within one page outside register space; a line
of the L1 that holds one of them is readable and agrees with memory (R92, R117, R296, R418). -/
def State.RtReadable (s : State) (va n : Nat) : Prop :=
  canonical va = true ∧ va % 2 ^ 14 + n ≤ 2 ^ 14 ∧ s.Mapped va ⟨true, false, false, false⟩ ∧ s.poisoned (s.paOf va) n = false
    ∧ isRegSpace (s.paOf va) = false
    ∧ ∀ i < n, ∀ l, lineOf (s.core s.wg.core) (s.ctx s.wg.ctx).asid (va + i) = some l →
        l.readable = true ∧ l.bad.getLsbD ((va + i) % 128 / 32) = false
          ∧ (l.data.drop ((va + i) % 128)).head? = some (s.byteAt (s.paOf va + i))

/-- The descriptor that a lane names, when it can be read and is of no reserved form (R298, R302). -/
def State.Textured (s : State) (va : Nat) (t : Texture) : Prop :=
  va % 32 = 0 ∧ s.RtReadable va 32 ∧ t = textureOf (s.readPhys (s.paOf va) 32) ∧ t.fmt < 5 ∧ t.base % 256 = 0

/-- The channels of the texel at an address (Table 14.8). -/
def State.texel (s : State) (t : Texture) (va : Nat) : List XVal := t.channels (s.readPhys (s.paOf va) t.bytes)

/-- A value delivered as FP32, round to nearest even. -/
def fpWord (x : XVal) : Word := nat32 (Fmt.round .fp32 .rne .none x)

/-- Channel `i` of the texel at an address as TEXG and TLD deliver it: the bits of a channel that memory holds as FP32, the
FP32 of any other's value (R302, Table 14.8). -/
def State.texelWord (s : State) (t : Texture) (va i : Nat) : Word :=
  if t.fmt = 4 ∨ (t.fmt = 0 ∧ i = 0) then nat32 (leValue (Cells.read s.mem (s.paOf va + 4 * i) 4))
  else fpWord ((s.texel t va).getD i (XVal.zero false))

/-- A quadruple of v registers. -/
def quadV (d : Reg) : Prop := d.toNat % 4 = 0 ∧ d.toNat ≤ 92

/-- A ray that can be traced (R295): finite origin and direction, a direction other than zero, no NaN in its interval.
-/
def State.rayOk (s : State) (a : Reg) (l : Nat) : Prop :=
  let x := fun i => Fmt.decode .fp32 (s.src.read l (a.toNat + i)).toNat
  (∀ i < 6, (x i).isNan = false ∧ (x i).isInf = false) ∧ (∃ i, 3 ≤ i ∧ i < 6 ∧ (x i).isZero = false)
    ∧ (x 6).isNan = false ∧ (x 7).isNan = false

/-- Guard, destination, its registers, each lane's words, and whether the texture unit does it. -/
structure RtForm where
  guard : Guard
  d : Reg
  n : Nat
  words : Nat → List Word
  texture : Bool

/-- The ray and texture instructions with legal fields whose lanes need no walk, and what each lane receives: a miss
of RAYT (Table 14.6), the words of RAYA, TEXQ, TLD, TEX and TEXG (R297, R301, R302). -/
def State.rtForm (s : State) : Instr → RtForm → Prop
  | .rayt g _ _ _ _ d a root, f => quadV d ∧ a.toNat % 8 = 0 ∧ a.toNat ≤ 88 ∧ kBase root
      ∧ (∀ l ∈ s.actG g, s.rayOk a l ∧ (s.u2 root l = 0 ∨ XVal.lt (Fmt.decode .fp32 (s.src.read l (a.toNat + 7)).toNat)
          (Fmt.decode .fp32 (s.src.read l (a.toNat + 6)).toNat) = true))
      ∧ f = ⟨g, d, 4, fun _ => [0x7F800000, 0xFFFFFFFF, 0xFFFFFFFF, 0], false⟩
  | .raya g d a b, f => d.toNat ≤ 87 ∧ a.toNat % 2 = 0
      ∧ (∀ l ∈ s.actG g, let va := (s.u2 a l + 48 * s.u b l) % 2 ^ 64
          va % 16 = 0 ∧ s.RtReadable va 48)
      ∧ f = ⟨g, d, 9, fun l => (List.range 9).map fun i => nat32 (leValue
          (((s.readPhys (s.paOf ((s.u2 a l + 48 * s.u b l) % 2 ^ 64)) 48).drop (4 * i)).take 4)), false⟩
  | .texq g d a desc, f => quadV d ∧ a.toNat + 1 ≤ 96 ∧ kBase desc ∧ ∃ t : Nat → Texture,
      (∀ l ∈ s.actG g, s.Textured (s.u2 desc l) (t l))
      ∧ f = ⟨g, d, 4, fun l =>
          let i := min (s.u a l) ((t l).levels - 1)
          [nat32 (max 1 ((t l).w / 2 ^ i)), nat32 (max 1 ((t l).h / 2 ^ i)), nat32 (t l).levels, nat32 (t l).fmt], true⟩
  | .tld g lodx d a desc, f => quadV d ∧ a.toNat + (if lodx then 3 else 2) ≤ 96 ∧ kBase desc ∧ ∃ t : Nat → Texture,
      let at' := fun l => (t l).texelVa (if lodx then min (s.src.read l (a.toNat + 2)).toNat ((t l).levels - 1) else 0)
        (s.src.read l a.toNat).toInt (s.src.read l (a.toNat + 1)).toInt
      (∀ l ∈ s.actG g, s.Textured (s.u2 desc l) (t l) ∧ s.RtReadable (at' l) (t l).bytes)
      ∧ f = ⟨g, d, 4, fun l => (List.range 4).map fun i => s.texelWord (t l) (at' l) i, true⟩
  | .tex g filter lodx d a desc, f => filter.toNat < 3 ∧ quadV d ∧ a.toNat + (if lodx then 3 else 2) ≤ 96 ∧ kBase desc
      ∧ ∃ (t : Nat → Texture) (smp : Nat → List (Nat × Nat) × Nat),
        (∀ l ∈ s.actG g, s.Textured (s.u2 desc l) (t l)
          ∧ (let x := s.texArgs a lodx l
             x.1.isNan = false ∧ x.1.isInf = false ∧ x.2.1.isNan = false ∧ x.2.1.isInf = false ∧ x.2.2.isNan = false
              ∧ smp l = (t l).sample filter.toNat x.1 x.2.1 x.2.2)
          ∧ ∀ x ∈ (smp l).1, s.RtReadable x.1 (t l).bytes)
        ∧ f = ⟨g, d, 4, fun l => (List.range 4).map fun i =>
            if i = 3 ∧ (t l).fmt < 2 then 0x3F800000
            else fpWord (weighted (smp l).2 ((smp l).1.map fun x => (x.2, (s.texel (t l) x.1).getD i (XVal.zero false)))), true⟩
  | .texg g lodx chan d a desc, f => quadV d ∧ a.toNat + (if lodx then 3 else 2) ≤ 96 ∧ kBase desc
      ∧ ∃ (t : Nat → Texture) (four : Nat → List (Nat × Nat)),
        (∀ l ∈ s.actG g, s.Textured (s.u2 desc l) (t l)
          ∧ (let x := s.texArgs a lodx l
             x.1.isNan = false ∧ x.1.isInf = false ∧ x.2.1.isNan = false ∧ x.2.1.isInf = false ∧ x.2.2.isNan = false
              ∧ four l = (t l).bilinear ((t l).levelOf x.2.2) x.1 x.2.1)
          ∧ ∀ x ∈ four l, s.RtReadable x.1 (t l).bytes)
        ∧ f = ⟨g, d, 4, fun l => (four l).map fun x => s.texelWord (t l) x.1 chan.toNat, true⟩
  | _, _ => False

/-! ### Mailbox (R356 to R360) -/

/-- The engine has taken the next message of a function, and turns to the function after it (R359). -/
def State.afterTaking (s : State) (fn : Nat) : State :=
  { s with
    mailbox := s.mailbox.upd fn fun m => { m with pending := m.pending.drop 1 }, fw := { s.fw with turn := (fn + 1) % 33 } }

/-- The message that is applied next is `i`, of the function in its header: its version, TAG and reserved fields are
good, the function may send it, and it may name the ASID (R358 to R360). -/
def State.sends (s : State) (i : Instr) (h : MsgHead) : Prop :=
  (∃ b, s.nextMessage = some (h.fn, b) ∧ sameMessage i (messageOf h.fn b) = true ∧ messageGood b i = true)
    ∧ (privileged i = true → h.fn = 0) ∧ (namesAsid i = true → s.owns h.fn h.asid = true)

/-- A completion entry of Table 18.4: TAG of a version 2 message, TYPE, STATUS, VALUE. -/
def entryOf (h : MsgHead) (type status value : Nat) : List Byte :=
  leBytes 2 (if h.version = 2 then h.tag else 0) ++ leBytes 1 type ++ leBytes 1 status ++ leBytes 4 0 ++ leBytes 8 value

/-- The completion ring of a function has room for an entry (R359). -/
def Mailbox.room (b : Mailbox) : Prop := (b.cqtail + 2 ^ 32 - b.cqhead) % 2 ^ 32 < 2 ^ b.cqsize

/-- Bus address of the next completion entry of a function (R357). -/
def Mailbox.nextEntry (b : Mailbox) : Nat := b.cqbase + 16 * (b.cqtail % 2 ^ b.cqsize)

/-- No TLB entry and no L1 line of an ASID overlaps a range (R106). -/
def State.Forgotten (s : State) (asid base len : Nat) : Prop :=
  (∀ n, ∀ e ∈ (s.sect n).tlb, e.asid = asid → ¬ (e.page < base + len ∧ base < e.page + pageSize e.level))
    ∧ ∀ c, ∀ l ∈ (s.core c).l1, l.asid = asid → ¬ (base ≤ l.va * 128 + 127 ∧ l.va * 128 < base + len)

/-- The issuing part is the only holder of its quads, in a chain of one that has parked nothing. -/
def State.Alone (s : State) : Prop :=
  s.InFocus ∧ s.iss.waited = false ∧ s.iss.parked = false ∧ (s.wave.parts.map Part.entry).Nodup
    ∧ ∀ p ∈ s.wave.parts, p.entry ≠ s.iss.entry → p.members &&& s.part.members = 0

/-- The quads of some lanes have left the issuing part as a part that waits at the instruction under an entry of the wait table
and its token, to reissue it for those lanes alone; the other quads, if any, go on (R57). -/
def State.Parks (s t : State) (lanes : List Nat) (entry token : Nat) : Prop :=
  let qs := s.part.members &&& quadsWith (maskOf lanes)
  let rest := s.part.members &&& ~~~quadsWith (maskOf lanes)
  (∃ r ∈ t.wave.parts, r.members = qs ∧ r.fws = .parked ∧ r.reason = .fault ∧ r.waitId = entry
    ∧ r.token = BitVec.ofNat 16 token ∧ r.pc = s.iss.pc ∧ r.redo.map Redo.lanes = some (maskOf lanes &&& spread qs))
  ∧ (rest ≠ 0 → ∃ r ∈ t.wave.parts, r.members = rest ∧ r.fws = s.part.fws ∧ r.pc = s.part.pc)

/-- The page-fault record that the issuing wave's context takes next, where its fault queue has room: its fields, the write
index after it, and every other byte of memory as it was (Table 6.4, R388). -/
def State.PageFaultAt (s t : State) (page token kind level : Nat) (pte : DWord) : Prop :=
  ∀ cb e w, s.RecordRoom cb e w →
    t.numberAt e 8 = page % 2 ^ 64 ∧ t.numberAt (e + 8) 2 = (s.ctx s.wg.ctx).asid % 2 ^ 16 ∧ t.numberAt (e + 12) 2 = token % 2 ^ 16
      ∧ t.numberAt (e + 14) 1 = kind ∧ t.numberAt (e + 15) 1 = level * 4 % 2 ^ 8 ∧ t.numberAt (e + 16) 8 = pte.toNat
      ∧ t.numberAt (e + 60) 2 = w % 2 ^ 16 ∧ t.numberAt cb 4 = (w + 1) % 2 ^ 32
      ∧ ∀ p, ¬ (e ≤ p ∧ p < e + 64) → ¬ (cb ≤ p ∧ p < cb + 4) → t.byteAt p = s.byteAt p

/-- A part after a replay that succeeded, under a token (R57, R112). -/
def Part.afterReplay (tok : Nat) (p : Part) : Part :=
  if p.under tok then { p with fws := .run, waitId := 0, token := 0, delay := 2 } else p

/-- A part, whether or not it waits for an entry of a wait table (R430). -/
def Part.fed (p : Part) : Part := { p with starved := false }

/-- No part of a resident wave waits under a token. -/
def State.NoneParked (s : State) (tok : Nat) : Prop := ∀ w ∈ s.allWaves, ∀ p ∈ w.parts, p.under tok = false

/-! ### Debug and errors (R387 to R394, R413, R414, R423) -/

/-- The wave in focus is stopped for the debugger, its record written, and the debug command block asks `op` of it (R389,
R413, R414). -/
def State.asked (s : State) (op ctx wave dump : Nat) : Prop :=
  s.InFocus ∧ s.saving = [] ∧ s.debugAsks op ctx wave dump = true ∧ s.wg.ctx = ctx ∧ waveWord s.wg.core s.wave = wave
    ∧ ∃ st, s.wave.stop = some st ∧ st.debug = true ∧ st.dump = dump ∧ st.stepping = none ∧ st.held = false

/-- STATUS of the debug command block (Table 25.4). -/
def State.debugDone (t : State) (status : Byte) : Prop := t.debugBlk.get 1 = status

/-- Everything a reset clears is at its reset value: no wave, no workgroup, no context, no queue, no grid; boot step 1
is next (R368). -/
def State.Restarted (t : State) : Prop :=
  t.allWaves = [] ∧ t.allWgs = [] ∧ t.ctxs = [] ∧ t.queues = [] ∧ t.grids = [] ∧ t.saved = [] ∧ t.saving = []
    ∧ t.cores = [] ∧ t.sects = [] ∧ t.dies = [] ∧ t.fw.step = 1 ∧ t.clock0 = none

/-- What a boot step or event leaves alone: everything but the firmware's state. -/
def State.OnlyFirmware (s t : State) : Prop := t = { s with fw := t.fw }

/-! ### Steps (R138 to R143) -/

/-- The state in which the one instruction of a chain runs: its part past the chain, its words and index latched, and its
page and line used (R100, R105, R140, R143). -/
def State.atInstr (t : State) (d : Decoded) : State :=
  let s := t.fetchTouch t.wg.core t.wg.ctx t.part.pc.toNat
  let next := t.part.pc + BitVec.ofNat 32 d.len
  let s := { s with iss := { s.iss with pc := t.part.pc, next := next, waited := false, word0 := d.word0, word1 := d.word1 } }
  s.onPart fun p => { p with pc := next, redo := none, serial := none, stalled := 0 }

/-- An instruction of a chain of several acts as it stands: nothing makes it wait, no status word or poison concerns it, and it
does not trap (R127, R140, R285, R399, R424). -/
def State.Acts (s : State) (x : Item) (t : State) : Prop :=
  s.mustWait x.2.instr = false ∧ (s.latch x).statusScope (guardOf x.2.instr) x.2.instr = 0
    ∧ (s.latch x).poisonTrap (guardOf x.2.instr) x.2.instr = none ∧ x.2.rsv = false
    ∧ exec x.2.instr (s.latch x) = .next t ∧ t.iss.traps = s.iss.traps

/-- The code line of a part is readable: inside the heap, past its header line, mapped for execution and poisoned neither in
memory nor in the L1 (R134, R136, R408, R421, R425); `pa` is its physical address. -/
def State.CodeAt (t : State) (pa : Nat) : Prop :=
  let i := t.part.pc.toNat
  let line := ((t.ctx t.wg.ctx).codebase + i / 30 * 128) % 2 ^ 64
  i / 30 * 128 + i % 30 * 4 < 16384 * (t.ctx t.wg.ctx).heapSize ∧ 30 ≤ i ∧ canonical line = true ∧ line % 128 = 0
    ∧ t.Mapped line ⟨false, false, true, false⟩ ∧ pa = t.paOf line ∧ t.poisoned pa 128 = false
    ∧ t.lineSpoilt t.wg.core t.wg.ctx line = false

end Sys2Proof.Machine
end

