-- ==== Sys2Proof/Certificates/Slice0/Obligations.lean ====
section
/-!
DEFINITION. Certificates/Slice0/Obligations.lean: the statements for the provers.
-/

open Sys2Proof Sys2Proof.Machine

/-! ### Registers and predicates -/

/-- R165 to R167, Tables 9.3 and 9.4: every short integer form writes its value in each active lane, a k register
taking that of its quad's lowest active lane (R64), and nothing else; NOP changes nothing (R148). -/
def Obligations.ShortIntegerResults : Prop :=
  (∀ s : State, exec .nop s = .next s)
    ∧ ∀ (s : State) (i : Instr) (d : Reg) (f : Nat → Word), shortInt s i = some (d, f) →
      Gives i s (oneWord s.act d f) noPred

/-- R168: ISETP with legal fields combines its comparison into the predicate in the active lanes; p7 discards the
write. R208, Table 10.4: FSETP with legal fields combines its comparison of exact values into the predicate. -/
def Obligations.ComparisonResults : Prop :=
  (∀ (s : State) (pd : BitVec 3) (comb : BitVec 2) (a b : Reg) (cond : BitVec 4) (type : BitVec 2) (f : Nat → Bool),
    comb.toNat < 3 → cond.toNat < 6 → (2 ≤ type.toNat → a.toNat % 2 = 0 ∧ b.toNat % 2 = 0) →
    (∀ l, f l = true ↔
      combHolds comb (s.src.p l pd.toNat) (intHolds cond (s.typed type a l) (s.typed type b l))) →
    Gives (.isetp pd comb a b cond type) s noWord (onePred s.act pd f))
  ∧ (∀ (s : State) (pd : BitVec 3) (comb : BitVec 2) (a b : Reg) (cond : BitVec 4) (type : BitVec 2) (f : Nat → Bool),
    comb.toNat < 3 → cond.toNat < 14 → type.toNat < 3 →
    (∀ l, f l = true ↔
      combHolds comb (s.src.p l pd.toNat) (floatHolds cond (s.floatTyped type a l) (s.floatTyped type b l))) →
    Gives (.fsetp pd comb a b cond type) s noWord (onePred s.act pd f))

/-- R169, R172 to R179: every long integer form that writes one register does so in the lanes whose guard holds. -/
def Obligations.LongIntegerResults : Prop :=
  ∀ (s : State) (i : Instr) (g : Guard) (d : Reg) (f : Nat → Word), longInt s i = some (g, d, f) →
    Gives i s (oneWord (s.actG g) d f) noPred

/-- R170, R172: every long integer form that writes a pair, with even pairs, writes its value modulo 2^64. R171: IADDC
and ISUBC write the sum modulo 2^32, and the carry out where CO is not 7. -/
def Obligations.PairAndCarryResults : Prop :=
  (∀ (s : State) (i : Instr) (g : Guard) (d : Reg) (f : Nat → DWord), longInt64 s i = some (g, d, f) →
    Gives i s (pairOf (s.actG g) d f) noPred)
  ∧ (∀ (s : State) (i : Instr) (g : Guard) (co : BitVec 3) (d : Reg) (t : Nat → Nat), carryForm s i = some (g, co, d, t) →
    Gives i s (oneWord (s.actG g) d fun l => nat32 (t l)) (onePred (s.actG g) co fun l => decide (2 ^ 32 ≤ t l)))

/-- R204, R210, R211: every short floating-point form writes its value, rounded once, in each active lane. The results
of FRSQ, FEX2, FLG2, FSIN, FCOS and FTANH that the manual bounds and does not state are free values (DESIGN CHOICE,
log entry 7). -/
def Obligations.ShortFloatResults : Prop :=
  ∀ (s : State) (i : Instr) (d : Reg) (f : Nat → Word), shortFloat s i = some (d, f) →
    Gives i s (oneWord s.act d f) noPred

/-- R205 to R207, R209: every long floating-point form whose RND and TYPE are legal writes its value, rounded once. -/
def Obligations.LongFloatResults : Prop :=
  ∀ (s : State) (i : Instr) (g : Guard) (d : Reg) (f : Nat → Word), longFloat s i = some (g, d, f) →
    Gives i s (oneWord (s.actG g) d f) noPred

/-- R212 to R214: a legal CVT to another format than .e2m1x writes its element, register or pair. R215: CVT to .e2m1x
of a block that the part covers: lanes 0 to 3 take the codes, the others the scale and extra byte. What DSEL and
inactive lanes do in an .e2m1x conversion is the model's reading (DEDUCED, log entries 30 and 77). -/
def Obligations.ConversionResults : Prop :=
  (∀ (s : State) (g : Guard) (df sf : BitVec 4) (rnd : BitVec 3) (sat : BitVec 2) (merge : Bool) (dsel : BitVec 2)
    (ssel : BitVec 3) (d a b : Reg), cvtLegal df sf rnd sat merge d a →
    Gives (.cvt g df sf rnd sat merge dsel ssel d a b) s
      (if 12 ≤ df.toNat then
        pairOf (s.actG g) d fun l => BitVec.ofNat 64 (cvtCodeOf df sf (s.rndMode rnd) sat (s.cvtSource sf ssel a b l))
       else oneWord (s.actG g) d (s.cvtWord df sf rnd sat merge dsel ssel a b)) noPred)
  ∧ (∀ (s : State) (g : Guard) (sf : BitVec 4) (rnd : BitVec 3) (merge : Bool) (dsel : BitVec 2) (ssel : BitVec 3) (d a b : Reg),
    sf.toNat < 3 → rnd.toNat < 5 → s.WidthMet 3 →
    let block := fun n => convertBlock ((List.range 32).map fun i =>
      if 32 * n + i ∈ s.actG g then s.cvtSource sf ssel a b (32 * n + i) else XVal.zero false)
    Gives (.cvt g 5 sf rnd 0 merge dsel ssel d a b) s
      (oneWord (s.actG g) d fun l =>
        if l % 32 < 4 then nat32 (((List.range 8).map fun j => (block (l / 32)).codes.getD (8 * (l % 32) + j) 0 * 16 ^ j).sum)
        else nat32 ((block (l / 32)).extra * 256 + (block (l / 32)).scale)) noPred)

/-- R81, R82: delivering in its own format the value of a code that is not NaN gives the code again, in every
rounding. -/
def Obligations.ExactValuesRoundToThemselves : Prop :=
  ∀ (f : Fmt) (mode : Rounding) (code : Nat), code < 2 ^ f.width → (f.decode code).isNan = false →
    f.convert (f.decode code) mode .none = code

/-- R217, R218: SHFL and QSWZ move A between the lanes of a segment, an exited source counting as none. R222: ELECT
names the lowest or highest active lane of each segment, in the predicate and in D. -/
def Obligations.ShuffleAndElectResults : Prop :=
  ((∀ (s : State) (g : Guard) (minw : BitVec 3) (mode : BitVec 2) (imm : Bool) (limm : BitVec 6) (zf : Bool) (d a b : Reg),
    s.WidthMet minw →
    Gives (.shfl g minw mode imm limm zf d a b) s
      (oneWord (s.actG g) d fun l =>
        match s.shflLane mode (4 * 2 ^ minw.toNat) (if imm then limm.toNat else s.u b l % 64) l with
        | some k => s.rd a k
        | none => if zf then 0 else s.rd a l) noPred)
  ∧ ∀ (s : State) (g : Guard) (minw : BitVec 3) (pattern : BitVec 8) (d a : Reg), s.WidthMet minw →
    Gives (.qswz g minw pattern d a) s
      (oneWord (s.actG g) d fun l =>
        let k := l / 4 * 4 + pattern.toNat / 4 ^ (l % 4) % 4
        if s.wave.exited.getLsbD k = true then s.rd a l else s.rd a k) noPred)
  ∧ (∀ (s : State) (g : Guard) (minw pd : BitVec 3) (wd high : Bool) (d : Reg) (e : Nat → Nat), s.WidthMet minw →
    (∀ l ∈ s.actG g, e l ∈ segOf (s.actG g) (4 * 2 ^ minw.toNat) l
      ∧ ∀ j ∈ segOf (s.actG g) (4 * 2 ^ minw.toNat) l, if high then j ≤ e l else e l ≤ j) →
    Gives (.elect g minw pd wd high d) s
      (if wd then oneWord (s.actG g) d fun l => nat32 (e l) else noWord)
      (onePred (s.actG g) pd fun l => decide (e l = l)))

/-- R219: VOTE over the contributing lanes of each segment: any, all, the ballot or its count, equal. R220: MATCH
groups the contributing lanes of a segment by value: the group's mask, or rank, size and leader. -/
def Obligations.VoteAndMatchResults : Prop :=
  (∀ (s : State) (g : Guard) (minw : BitVec 3) (mode : BitVec 2) (ps : BitVec 3) (neg : Bool) (pd : BitVec 3) (cnt : Bool)
    (d : Reg) (f : Nat → Bool), s.WidthMet minw → (mode = 2 → minw = 4 → cnt = false → d.toNat % 2 = 0) →
    let seg := segOf (s.actG g) (4 * 2 ^ minw.toNat)
    let v := fun l => s.src.p l ps.toNat != neg
    let yes := fun l => (seg l).filter v
    (∀ l, f l = true ↔ (mode = 0 ∧ ∃ j ∈ seg l, v j = true) ∨ (mode = 1 ∧ ∀ j ∈ seg l, v j = true)
      ∨ (mode = 3 ∧ ∀ i ∈ seg l, ∀ j ∈ seg l, v i = v j)) →
    Gives (.vote g minw mode ps neg pd cnt d) s
      (if mode ≠ 2 then noWord
       else if cnt then oneWord (s.actG g) d fun l => nat32 (yes l).length
       else if minw = 4 then pairOf (s.actG g) d fun l => BitVec.ofNat 64 (maskAt 64 (yes l))
       else oneWord (s.actG g) d fun l => nat32 (maskAt (4 * 2 ^ minw.toNat) (yes l)))
      (if mode = 2 then noPred else onePred (s.actG g) pd f))
  ∧ (∀ (s : State) (g : Guard) (minw : BitVec 3) (rank wide : Bool) (pd : BitVec 3) (d a : Reg), s.WidthMet minw →
    (minw = 4 → rank = false → d.toNat % 2 = 0) → (wide = true → a.toNat % 2 = 0) →
    let w := 4 * 2 ^ minw.toNat
    let group := fun l => (segOf (s.actG g) w l).filter fun j =>
      if wide then decide (s.u2 a j = s.u2 a l) else decide (s.u a j = s.u a l)
    Gives (.matchLanes g minw rank wide pd d a) s
      (if rank then oneWord (s.actG g) d fun l =>
          nat32 (((group l).filter fun j => decide (j < l)).length + 2 ^ 8 * (group l).length
            + 2 ^ 16 * (((group l).map (· % w)).foldl min 63))
       else if minw = 4 then pairOf (s.actG g) d fun l => BitVec.ofNat 64 (maskAt 64 (group l))
       else oneWord (s.actG g) d fun l => nat32 (maskAt w (group l)))
      (onePred (s.actG g) pd fun l => decide (∀ j ∈ group l, l ≤ j)))

/-- R221: REDUX and SCAN reduce the contributing lanes of a segment, all of them or those up to or below the lane. -/
def Obligations.ReductionResults : Prop :=
  ∀ (s : State) (g : Guard) (minw op : BitVec 3) (signed : Bool) (d a : Reg), s.WidthMet minw → op.toNat < 6 →
    let seg := segOf (s.actG g) (4 * 2 ^ minw.toNat)
    Gives (.redux g minw op signed d a) s
        (oneWord (s.actG g) d fun l => reduced op signed ((seg l).map (s.rd a))) noPred
      ∧ ∀ exc : Bool, Gives (.scan g minw op signed exc d a) s
        (oneWord (s.actG g) d fun l => reduced op signed
          (((seg l).filter fun j => if exc then decide (j < l) else decide (j ≤ l)).map (s.rd a))) noPred

/-! ### Memory -/

/-- R68, R225 to R229: a load whose lanes pass their checks and whose pages the TLB holds issues an operation that will
write what its lanes read, in ascending order; under the policy `.split miss` the lanes of quads that wait on a miss have
an operation of their own (R56). No register and no byte of memory changes at issue. R57, R109 to R111: a load that meets a
page that is not present parks its quads under the page's entry of the wait table, takes a free one where there is none and
writes the page-fault record; it stays counted. That a load reads as it issues (log entry 15) and which free entry is taken (log
entry 24) are the model's choices (DESIGN CHOICE). -/
def Obligations.LoadIssues : Prop :=
  (∀ (s : State) (i : Instr) (f : LoadForm), s.loadForm i f → f.lanes ≠ [] →
    (∀ l ∈ f.lanes, s.Loadable (f.addr l) (sizeBytes f.size)) → s.Quiet →
    ∃ t, exec i s = .next t
      ∧ (∀ n ls, (s.loadOps f)[n]? = some ls →
          t.Issued (s.names + 1 + n) .ldc ls (runOf f.d (sizeRegs f.size))
            (.regs (s.owned f.lanes (loadWrites f.size f.d ((s.loads f).filter fun x => decide (x.1 ∈ ls))))))
      ∧ s.SameMemory t ∧ (∀ n, f.acquire = some n → 2 ≤ n → (t.core s.wg.core).l1 = [])
      ∧ t.grids.map (fun g => { g with first := none }) = s.grids.map (fun g => { g with first := none })
      ∧ t = { s with
          wave := { s.wave with ops := t.wave.ops }, cores := t.cores, l2 := t.l2, mclog := t.mclog, msix := t.msix
          grids := t.grids, names := s.names + (s.loadOps f).length })
  ∧ (∀ (s : State) (i : Instr) (f : LoadForm) (level page : Nat) (pte : DWord), s.loadForm i f → s.Alone →
    quadsWith (maskOf f.lanes) ≠ 0 → quadsWith (maskOf f.lanes) &&& ~~~s.part.members = 0 → s.entriesFor 1 →
    let n := sectOf s.wg.core
    let asid := (s.ctx s.wg.ctx).asid
    let free := fun (e : Nat) => (let x := (s.sect n).waits.get e; !x.used && !x.held && x.answer.isNone)
    (∀ l ∈ f.lanes, canonical (f.addr l) = true ∧ f.addr l % sizeBytes f.size = 0
      ∧ (f.home = true ∨ lineOf (s.core s.wg.core) asid (f.addr l) = none) ∧ s.look n s.wg.ctx (f.addr l) false = .np level pte
      ∧ f.addr l / pageSize level * pageSize level = page) →
    (∀ e, (∀ l ∈ f.lanes, waitFind (s.sect n) asid (f.addr l) = some e) →
      ∃ t, exec i s = .next t ∧ s.Parks t f.lanes e (tokenOf n e ((s.sect n).waits.get e))
        ∧ t.Issued (s.names + 1) .ldc f.lanes (runOf f.d (sizeRegs f.size)) .none
        ∧ t.wave.rf = s.wave.rf ∧ t.sects = s.sects ∧ s.SameMemory t)
    ∧ ∀ e < 256, (∀ l ∈ f.lanes, waitFind (s.sect n) asid (f.addr l) = none) → free e = true → (∀ k < e, free k = false) →
      ∃ t, exec i s = .next t
        ∧ (let x := (t.sect n).waits.get e
           x.used = true ∧ x.asid = asid ∧ x.page = page ∧ x.level = level
             ∧ x.gen = (let old := (s.sect n).waits.get e; if old.fresh then !old.gen else old.gen)
             ∧ s.Parks t f.lanes e (tokenOf n e x) ∧ s.PageFaultAt t page (tokenOf n e x) 1 level pte)
        ∧ (∀ k, k ≠ e → (t.sect n).waits.get k = (s.sect n).waits.get k) ∧ (∀ m, m ≠ n → t.sect m = s.sect m)
        ∧ t.Issued (s.names + 1) .ldc f.lanes (runOf f.d (sizeRegs f.size)) .none ∧ t.wave.rf = s.wave.rf)

/-- R92, R118: one access of a load takes the bytes of its line in the L1, or those of memory once the core's stores
have reached it, and one performed at the home slice those of memory; bytes of a poisoned sector carry its mark
(R424), and one that the L1 does not serve misses where the L2 has no copy of its line (R56, R100). The moment of the read is the model's choice (DESIGN CHOICE, log entry 15). -/
def Obligations.LoadReadsLineOrHome : Prop :=
  ∀ (s : State) (grid va n hint : Nat) (home : Bool), s.Mapped va ⟨true, false, false, false⟩ → s.Quiet →
    (s.loadVa s.wg.core s.wg.ctx grid va n hint home).1.bytes =
      (match (if home then none else lineOf (s.core s.wg.core) (s.ctx s.wg.ctx).asid va) with
       | some l => (l.data.drop (va % 128)).take n
       | none => s.readPhys (s.paOf va) n)
    ∧ (s.loadVa s.wg.core s.wg.ctx grid va n hint home).1.bad =
      (match (if home then none else lineOf (s.core s.wg.core) (s.ctx s.wg.ctx).asid va) with
       | some l => l.bad.getLsbD (va % 128 / 32)
       | none => s.poisoned (s.paOf va) n)
    ∧ (s.loadVa s.wg.core s.wg.ctx grid va n hint home).1.missed =
      (match (if home then none else lineOf (s.core s.wg.core) (s.ctx s.wg.ctx).asid va) with
       | some _ => false
       | none => !s.inL2 (s.paOf va))

/-- R93, R117, R225 to R227: a store whose lanes pass their checks issues one operation that will store each lane's
bytes at its physical address, in ascending lane order; no register and no byte of memory changes at issue. That the
bytes reach their home after the issue is the model's choice (DESIGN CHOICE, log entry 15). -/
def Obligations.StoreIssues : Prop :=
  ∀ (s : State) (i : Instr) (f : LoadForm), s.storeForm i f → f.lanes ≠ [] →
    (∀ l ∈ f.lanes, s.Storable (f.addr l) (sizeBytes f.size) ⟨false, true, false, false⟩ ∧ s.LineAgrees (f.addr l)) → s.Quiet →
    ∃ t, exec i s = .next t
      ∧ t.Issued (s.names + 1) .stc f.lanes []
          (.home (f.lanes.map fun l =>
            ⟨s.paOf (f.addr l), s.dataBytes f.d (sizeBytes f.size) l, none, s.pageCp (f.addr l)⟩))
      ∧ s.SameMemory t
      ∧ t = { s with
          wave := { s.wave with ops := t.wave.ops }, cores := t.cores, l2 := t.l2, mclog := t.mclog, msix := t.msix
          names := s.names + 1 }

/-- R95, R97, R225, R228, R422: a scratchpad load whose offsets lie in the window, with no store on its way there,
issues an operation that will write the window's bytes, or zeros for a member that has exited. R97, R225, R228, R422:
a scratchpad store whose offsets lie in the window issues an operation that will store each lane's bytes at its
offset; a member that has exited takes none. The moment at which they take effect is the model's choice (DESIGN
CHOICE, log entry 15). -/
def Obligations.ScratchAccessesIssue : Prop :=
  (∀ (s : State) (i : Instr) (f : ScratchForm), s.ldsForm i f → f.lanes ≠ [] → s.InWindow f (sizeBytes f.size) →
    (∀ w, s.hopWg f.dx f.dy = some w → pendingSteps s.allWaves (w + 1) = []) →
    ∃ t, exec i s = .next t
      ∧ t.Issued (s.names + 1) .ldc f.lanes (runOf f.d (sizeRegs f.size))
          (.regs (s.owned f.lanes
            (loadedRegs f.lanes f.size f.d fun l => s.windowBytes f.dx f.dy (f.off l) (sizeBytes f.size))))
      ∧ s.SameMemory t
      ∧ t = { s with
          wave := { s.wave with ops := t.wave.ops }, cores := t.cores, mclog := t.mclog, msix := t.msix, names := s.names + 1 }
      ∧ (f.order = none → t.cores = s.cores))
  ∧ (∀ (s : State) (i : Instr) (f : ScratchForm), s.stsForm i f → f.lanes ≠ [] → s.InWindow f (sizeBytes f.size) → s.Quiet →
    ∃ t, exec i s = .next t
      ∧ t.Issued (s.names + 1) .stc f.lanes []
          (.home (match s.hopWg f.dx f.dy with
            | some _ => f.lanes.map fun l => ⟨f.off l, s.dataBytes f.d (sizeBytes f.size) l, none, 0⟩
            | none => []))
      ∧ s.SameMemory t ∧ t = { s with wave := { s.wave with ops := t.wave.ops }, names := s.names + 1 })

/-- R230, R231, R233: an ATOM with legal fields whose lanes pass their checks reads and writes memory lane by lane in
ascending order, and will write to D what each lane read; no other byte of memory changes. R230, R231: a RED with
legal fields and no acquire issues an operation that will perform its lanes' steps at the home slices in ascending
order; no byte of memory changes at issue. The moment at which they take effect is the model's choice (DESIGN CHOICE,
log entry 15). -/
def Obligations.GlobalAtomics : Prop :=
  (∀ (s : State) (g : Guard) (m : AtomicMods) (d a b c : Reg), atomLegal m a b c → (2 ≤ m.type.toNat → d.toNat % 2 = 0) →
    s.actG g ≠ [] → s.Quiet →
    (∀ l ∈ s.actG g, s.Storable (s.u2 a l) (atomicBytes m.type.toNat) ⟨true, true, false, false⟩
      ∧ isRegSpace (s.paOf (s.u2 a l)) = false ∧ s.poisoned (s.paOf (s.u2 a l)) (atomicBytes m.type.toNat) = false) →
    let run := atomRun m.aop.toNat m.type.toNat ((s.actG g).map fun l =>
      (s.paOf (s.u2 a l), s.atomArg m.type.toNat b l, s.atomArg m.type.toNat c l)) s.mem
    ∃ t, exec (.atom g m d a b c) s = .next t
      ∧ t.Issued (s.names + 1) .ldc (s.actG g) (runOf d (if 2 ≤ m.type.toNat then 2 else 1))
          (.regs (s.owned (s.actG g) (regWrites (((s.actG g).zip run.1).flatMap fun x =>
            (List.range (if 2 ≤ m.type.toNat then 2 else 1)).map fun i =>
              (x.1, d.toNat + i, nat32 (x.2 / 2 ^ (32 * i)), false)))))
      ∧ t.mem = run.2
      ∧ (∀ p, (∀ l ∈ s.actG g, ¬ (s.paOf (s.u2 a l) ≤ p ∧ p < s.paOf (s.u2 a l) + atomicBytes m.type.toNat)) →
          t.byteAt p = s.byteAt p)
      ∧ t = { s with
          mem := t.mem, wave := { s.wave with ops := t.wave.ops }, cores := t.cores, l2 := t.l2, mclog := t.mclog
          msix := t.msix, names := s.names + 1 })
  ∧ (∀ (s : State) (g : Guard) (m : AtomicMods) (a b c : Reg), atomLegal m a b c → m.ord.getLsbD 0 = false → s.actG g ≠ [] →
    s.Quiet →
    (∀ l ∈ s.actG g, s.Storable (s.u2 a l) (atomicBytes m.type.toNat) ⟨false, true, false, false⟩) →
    ∃ t, exec (.red g m a b c) s = .next t
      ∧ t.Issued (s.names + 1) .stc (s.actG g) []
          (.home ((s.actG g).map fun l => ⟨s.paOf (s.u2 a l), [],
            some (m.aop.toNat, m.type.toNat, s.atomArg m.type.toNat b l, s.atomArg m.type.toNat c l),
            s.pageCp (s.u2 a l)⟩))
      ∧ s.SameMemory t
      ∧ t = { s with
          wave := { s.wave with ops := t.wave.ops }, cores := t.cores, l2 := t.l2, mclog := t.mclog, msix := t.msix
          names := s.names + 1 })

/-- R97, R232, R422: an ATOMS, with or without a hop, that returns acts on the window it names lane by lane and will write to D
what each lane read, or 0 where that member has exited; one that does not return issues an operation that will act on the
window. R94, R124: one that acquires at CLUSTER scope or wider empties the L1. The moment at which they take effect is the
model's choice (DESIGN CHOICE, log entry 15). -/
def Obligations.ScratchAtomics : Prop :=
  ∀ (s : State) (g : Guard) (m : AtomicMods) (ret : Bool) (d a b : Reg) (dx dy : BitVec 5), m.aop.toNat < 13 →
    m.scope.toNat < 6 → (ret = false → ordAcq m.ord = false) → (m.aop = 7 → b.toNat % 2 = 0) →
    atomsType m.aop m.type = m.type.toNat → s.actG g ≠ [] → s.wg.id ≠ 0 → (m.ord = 0 ∨ s.Quiet) →
    (dx.toInt = 0 ∧ dy.toInt = 0 ∨ (hopCore s.wg dx.toInt dy.toInt).isSome = true) →
    (∀ l ∈ s.actG g, s.u a l + 4 ≤ 4096 * s.wg.launch.scratch ∧ s.u a l % 4 = 0) →
    let hop := s.hopWg dx.toInt dy.toInt
    (∀ w, hop = some w → pendingSteps s.allWaves (w + 1) = []) →
    let arg := fun l => (s.u a l, s.u b l, if m.aop = 7 then (s.src.read l (b.toNat + 1)).toNat else 0)
    let run := fun (w : Nat) => atomRun m.aop.toNat m.type.toNat ((s.actG g).map arg) (s.wgOf w).scratch
    let writes := fun (vs : List Nat) => OpKind.regs (s.owned (s.actG g)
      (regWrites (((s.actG g).zip vs).map fun x => (x.1, d.toNat, nat32 x.2, false))))
    ∃ t, exec (.atoms g m ret d a b dx dy) s = .next t
      ∧ (∀ w, ret = true → hop = some w → t.Issued (s.names + 1) .ldc (s.actG g) [d.toNat] (writes (run w).1)
          ∧ t.wgOf w = { s.wgOf w with scratch := (run w).2 })
      ∧ (ret = true → hop = none →
          t.Issued (s.names + 1) .ldc (s.actG g) [d.toNat] (writes ((s.actG g).map fun _ => 0)))
      ∧ (ret = false → t.Issued (s.names + 1) .stc (s.actG g) []
          (.home (match hop with
            | some _ => (s.actG g).map fun l => ⟨s.u a l, [], some (m.aop.toNat, m.type.toNat, (arg l).2), 0⟩
            | none => [])))
      ∧ (∀ v, ret = false ∨ hop ≠ some v → t.wgOf v = s.wgOf v)
      ∧ (ordAcq m.ord = true → 2 ≤ m.scope.toNat → (t.core s.wg.core).l1 = [])
      ∧ (ordAcq m.ord = false ∨ m.scope.toNat < 2 → t.cores = s.cores)
      ∧ s.SameMemory t
      ∧ t = { s with
          wave := { s.wave with ops := t.wave.ops }, wg := t.wg, wgs := t.wgs, cores := t.cores, mclog := t.mclog
          msix := t.msix, names := s.names + 1 }

/-- R68, R236: completing a load or atomic writes its registers, without poison unless a write carries it, and takes
its place in the order of completions; memory does not change. R93, R118: completing the oldest store of a core writes
its steps to memory in their order, at their addresses alone. The order of stores before their completion is the
model's choice (DESIGN CHOICE, log entry 15). -/
def Obligations.MemoryOperationsComplete : Prop :=
  (∀ (s : State) (op : Nat) (o : Op) (ws : List RegWrite), s.wave.id ≠ 0 → s.wave.ops.find? (fun o => o.id == op) = some o →
    op ≠ 0 → o.done = false → o.kind = .regs ws → (∀ w ∈ s.wave.ops, w.release = none) →
    (∀ w ∈ s.waves, w.id ≠ s.wave.id) →
    ∃ t, exec (.memOpComplete s.wave.id op) s = .next t
      ∧ t.wave.rf = ws.foldl RegFile.writeOne s.wave.rf
      ∧ t.wave.ops = (retireOps (s.wave.ops.map fun o => if o.id = op then { o with done := true } else o)).1
      ∧ s.SameMemory t
      ∧ t = { s with wave := { s.wave with rf := t.wave.rf, ops := t.wave.ops } })
  ∧ (∀ (s : State) (op : Nat) (o : Op) (steps : List HomeStep), s.wave.id ≠ 0 →
    s.wave.ops.find? (fun o => o.id == op) = some o → op ≠ 0 → o.done = false → o.kind = .home steps → o.target = 0 →
    (∀ w ∈ s.wave.ops, w.release = none) → (∀ w ∈ s.waves, w.id ≠ s.wave.id) →
    (∀ h ∈ steps, h.rmw = none ∧ isRegSpace h.addr = false) →
    (pendingSteps (s.wavesOn (s.wgOf s.wave.wg).core) 0).filter (fun x => decide (x.2.1 ≤ op)) = [(s.wave.id, op, steps)] →
    ∃ t, exec (.memOpComplete s.wave.id op) s = .next t
      ∧ t.mem = steps.foldl (fun m h => Cells.write m h.addr h.data) s.mem
      ∧ (∀ p, (∀ h ∈ steps, ¬ (h.addr ≤ p ∧ p < h.addr + h.data.length)) → t.byteAt p = s.byteAt p)
      ∧ t = { s with mem := t.mem, poison := t.poison, l2 := t.l2, wave := { s.wave with ops := t.wave.ops } })

/-- R234: PREF changes no register, no byte of memory and no counter, whatever its addresses, when their pages are in
the TLB. R235: CCTL.INV removes the lines its lanes address from the issuing core's L1, CCTL.INVALL all of them, and
CCTL.DEMOTE clears their evict-last marks; each counts in STC, and no register and no byte of memory changes. -/
def Obligations.PrefetchAndCacheControl : Prop :=
  (∀ (s : State) (g : Guard) (scope : BitVec 3) (hint : BitVec 2) (l2only : Bool) (a : Reg) (off : BitVec 18),
    scope.toNat < 6 → a.toNat % 2 = 0 → s.Quiet →
    (∀ l ∈ s.actG g, (s.entryOf (s.globalAddr a (off.signExtend 64) l)).isSome = true) →
    ∃ t, exec (.pref g 0 scope hint l2only a off) s = .next t ∧ s.SameMemory t
      ∧ t = { s with cores := t.cores, l2 := t.l2, mclog := t.mclog, msix := t.msix })
  ∧ (∀ (s : State) (g : Guard) (a : Reg) (off : BitVec 18), s.actG g ≠ [] → a.toNat % 2 = 0 →
    let addr := fun l => ((s.u2 a l + off.toInt) % 2 ^ 64).toNat
    let asid := (s.ctx s.wg.ctx).asid
    let frame := fun t : State => s.SameMemory t ∧ t.Issued (s.names + 1) .stc (s.actG g) [] (.home [])
      ∧ t = { s with
          wave := { s.wave with ops := t.wave.ops }, cores := t.cores, l2 := t.l2, mclog := t.mclog, msix := t.msix
          names := s.names + 1 }
    ((∀ l ∈ s.actG g, canonical (addr l) = true) →
      (∃ t, exec (.cctlInv g a off) s = .next t ∧ frame t
        ∧ (t.core s.wg.core).l1 = (s.core s.wg.core).l1.filter fun x =>
            !((s.actG g).any fun l => x.asid == asid && x.va == addr l / 128))
      ∧ ((∀ l ∈ s.actG g, s.walkSpoilt (addr l) = none) → ∃ t, exec (.cctlDemote g a off) s = .next t ∧ frame t
        ∧ ∀ l ∈ s.actG g, ∀ x ∈ (t.core s.wg.core).l1, x.asid = asid → x.va = addr l / 128 → x.el = false))
    ∧ ∃ t, exec (.cctlInvall g) s = .next t ∧ frame t ∧ (t.core s.wg.core).l1 = [])

/-! ### Control flow -/

/-- R47, R180, R184: BRA always, and BRC, BRL and CALL whose every active lane is taken, send the part whole to the
target; CALL also writes the index after the chain to k31 of each quad with a taken lane (R181). BRC and BRL that no
lane takes leave it at the index after its chain. R181, R182, R184: RET sends each quad of the part to its own k31;
BRX sends the part whole where its active lanes name one target. A part without an active lane goes to the target by
the model's reading of R180 (DEDUCED, log entry 64). -/
def Obligations.BranchesTakenWhole : Prop :=
  (∀ s : State, s.InFocus →
    (∀ off id, Moves (.bra off id) s (s.redirected (s.iss.pc + BitVec.ofInt 32 off.toInt)))
    ∧ (∀ i g target id, s.branchForm i = some (g, target, id) →
        ((∀ l ∈ lanesOf s.part.lanes, l ∈ s.actG g) → Moves i s (s.redirected target))
        ∧ (s.actG g = [] → s.part.lanes ≠ 0 → Moves i s (s.part.to s.iss.next)))
    ∧ ∀ g off id, s.iss.trapped = false → (∀ l ∈ lanesOf s.part.lanes, l ∈ s.actG g) →
        ∃ t, exec (.call g off id) s = .next t
          ∧ t.part = s.redirected (s.iss.pc + BitVec.ofInt 32 off.toInt)
          ∧ (∀ q n, n < 32 → t.wave.rf.k q n =
              if n = 31 ∧ ∃ l ∈ s.actG g, l / 4 = q then s.iss.next else s.wave.rf.k q n)
          ∧ t.wave.rf.lanes = s.wave.rf.lanes
          ∧ t = { s with
              wave := { s.wave with rf := t.wave.rf, parts := t.wave.parts }, iss := { s.iss with moved := true } })
  ∧ (∀ s : State, s.InFocus →
    (s.entriesFor ((quadsOf s.part.members).length - 1) →
      ∃ t, exec .ret s = .next t
        ∧ (∀ q ∈ quadsOf s.part.members, ∃ r ∈ t.wave.parts, r.members.getLsbD q = true
            ∧ r.goes s.part (s.src.k q 31) ∧ nibble r.masks q = nibble s.part.masks q)
        ∧ t = { s with
            wave := { s.wave with parts := t.wave.parts }, iss := { s.iss with moved := t.iss.moved } })
    ∧ ∀ (g : Guard) (id : BitVec 8) (a : Reg) (target : Word), s.actG g ≠ [] →
        (∀ q ∈ quadsOf s.part.members, ∃ j < 4, (nibble s.part.masks q).getLsbD j = true) →
        (∀ q ∈ quadsOf s.part.members, ∀ j < 4, (nibble s.part.masks q).getLsbD j = true →
          4 * q + j ∈ s.actG g ∧ s.rd a (4 * q + j) = target) → quadsOf s.part.members ≠ [] →
        Moves (.brx g id a) s (s.redirected target))

/-- R47, R181: where active lanes disagree, a quad all of whose lanes are taken by a BRC, BRL or CALL goes to the target, one
with none to the index after the chain, and a mixed one to the target with its taken lanes and pushes the other path; a CALL
also writes the index after the chain to k31 of each quad with a taken lane. R48, R182: a BRX whose lanes name several targets
sends each quad to the lowest of its own and pushes an entry for each of the others. No other register and no byte of memory
changes. -/
def Obligations.DivergentBranches : Prop :=
  (∀ (s : State) (i : Instr) (g : Guard) (target : Word) (id : BitVec 8), s.InFocus →
    (∃ l ∈ lanesOf s.part.lanes, l ∉ s.actG g) → s.actG g ≠ [] → s.entriesFor 2 →
    (∀ q ∈ quadsOf s.part.members, hasRoom s.wg.launch (s.wave.quads.get q) 1 = true) →
    (s.branchForm i = some (g, target, id) →
      ∃ t, exec i s = .next t ∧ s.Divided t (quadLanes (s.actG g)) target id
        ∧ t = { s with
            wave := { s.wave with parts := t.wave.parts, quads := t.wave.quads }, iss := { s.iss with moved := true } })
    ∧ ∀ off : BitVec 24, i = .call g off id → target = s.iss.pc + BitVec.ofInt 32 off.toInt → s.iss.trapped = false →
      ∃ t, exec i s = .next t ∧ s.Divided t (quadLanes (s.actG g)) target id
        ∧ (∀ q n, n < 32 → t.wave.rf.k q n = if n = 31 ∧ ∃ l ∈ s.actG g, l / 4 = q then s.iss.next else s.wave.rf.k q n)
        ∧ t.wave.rf.lanes = s.wave.rf.lanes
        ∧ t = { s with
            wave := { s.wave with rf := t.wave.rf, parts := t.wave.parts, quads := t.wave.quads }
            iss := { s.iss with moved := true } })
  ∧ ∀ (s : State) (g : Guard) (id : BitVec 8) (a : Reg), s.InFocus →
    let p := s.part
    let target := fun (l : Nat) => if l ∈ s.actG g then s.rd a l else s.iss.next
    let active := fun (l : Nat) => l / 4 ∈ quadsOf p.members ∧ p.masks.getLsbD l = true
    let named := fun (q : Nat) => distinct (((List.range 4).filter fun j => (nibble p.masks q).getLsbD j).map fun j =>
      (target (4 * q + j)).toNat)
    ((∃ l k, active l ∧ active k ∧ target l ≠ target k)
      ∨ ∃ q ∈ quadsOf p.members, nibble p.masks q = 0 ∧ ∃ l, active l ∧ target l ≠ s.iss.next) →
    s.entriesFor ((quadsOf p.members).length - 1) →
    (∀ q ∈ quadsOf p.members, 1 < (named q).length →
      hasRoom s.wg.launch (s.wave.quads.get q) ((named q).length - 1) = true) →
    ∃ t, exec (.brx g id a) s = .next t ∧ (∀ q ∈ quadsOf p.members, s.Scattered t target id q)
      ∧ t = { s with
          wave := { s.wave with parts := t.wave.parts, quads := t.wave.quads }, iss := { s.iss with moved := true } }

/-- R52 to R54: a part none of whose quads has an entry of the id waits at a FUSE of another class than 0 that does
not complete, goes on at once at one of class 0, and, when it completes the group, goes on merged with the parts that
waited there, with reason WHOLE; quads whose top entries name one index divert there. -/
def Obligations.FuseActs : Prop :=
  ∀ (s : State) (cls : BitVec 4) (id : BitVec 8), s.InFocus → (s.wave.parts.map Part.entry).Nodup →
    let p := s.part
    let others := s.wave.parts.filter fun q => q.entry != s.iss.entry
    let frame := fun t : State => t = { s with wave := { s.wave with parts := t.wave.parts, quads := t.wave.quads } }
    p.members ≠ 0 →
    ((∀ q ∈ quadsOf p.members, fullStack s.wg s.wave q = []) →
      (cls ≠ 0 → (∀ q ∈ others, q.fws = .run) → s.wave.live &&& ~~~p.members ≠ 0 →
        ∃ t, exec (.fuse cls id) s = .next t ∧ frame t ∧ t.part.fws = .fuse ∧ t.part.pc = s.iss.pc
          ∧ t.part.after = some s.iss.next ∧ t.part.cls = cls.toNat ∧ t.part.members = p.members)
      ∧ (cls = 0 →
        ∃ t, exec (.fuse cls id) s = .next t ∧ frame t ∧ t.part.fws = .run ∧ t.part.pc = s.iss.next
          ∧ t.part.members = p.members)
      ∧ (cls ≠ 0 → (∀ q ∈ others, q.fws = .fuse ∧ q.pc = s.iss.pc ∧ q.after = some s.iss.next) →
          s.wave.live &&& ~~~(others.foldl (fun m q => m ||| q.members) p.members) = 0 →
        ∃ t r, exec (.fuse cls id) s = .next t ∧ frame t ∧ t.wave.parts = [r] ∧ r.fws = .run ∧ r.pc = s.iss.next
          ∧ r.reason = .whole ∧ r.members = others.foldl (fun m q => m ||| q.members) p.members))
    ∧ ∀ (dest : Word) (e : Nat → DefEntry),
        (∀ q ∈ quadsOf p.members, (s.wave.quads.get q).spilled = 0
          ∧ (∃ rest, (s.wave.quads.get q).stack = e q :: rest) ∧ (e q).fuseId = id ∧ (e q).running = false
          ∧ (e q).resume = dest) →
        ∃ t, exec (.fuse cls id) s = .next t ∧ frame t ∧ t.part.goes p dest ∧ t.part.members = p.members
          ∧ ∀ q ∈ quadsOf p.members, nibble t.part.masks q = (e q).defMask
            ∧ (t.wave.quads.get q).stack.head? = some { e q with running := true, resume := s.iss.pc }

/-- R58, R59: REGANG of a width whose blocks the part covers changes nothing; where quads are missing the part waits
in state FORCED at the instruction, and once the parts that wait there cover them the merged part goes on after the
chain. R69, R185, R190 to R192, R194: WAITCNT whose bounds hold, YIELD without a request, BRK without the debug enable and
SLEEP of 0 change nothing; WAITCNT waits at its instruction for its bounds, SLEEP holds the part 16 cycles for each unit,
SETPRIO sets its priority, and YIELD under a request stops it with its live-tile mask; the mask of a part with no active
lane is the model's choice (DESIGN CHOICE, log entry 74). R183: EXIT ends the active lanes for good; no register and no
byte of memory changes. -/
def Obligations.PartsWaitAndExit : Prop :=
  (∀ (s : State) (w : BitVec 3), s.InFocus → w.toNat < 5 → 4 * 2 ^ w.toNat ≤ s.wave.width →
    (lacking s.wave (4 * 2 ^ w.toNat) s.iss.members = 0 → exec (.regang w) s = .next s)
    ∧ (lacking s.wave (4 * 2 ^ w.toNat) s.iss.members ≠ 0 → (s.wave.parts.map Part.entry).Nodup →
        let others := s.wave.parts.filter fun q => q.entry != s.iss.entry
        (lacking s.wave (4 * 2 ^ w.toNat) s.part.members ≠ 0 → (∀ q ∈ others, q.fws = .run) →
          ∃ t, exec (.regang w) s = .next t ∧ s.OnlyPart t ∧ t.part.fws = .forced ∧ t.part.pc = s.iss.pc
            ∧ t.part.members = s.part.members ∧ t.part.waitId = w.toNat ∧ t.part.after = some s.iss.next)
        ∧ ((∀ q ∈ others, q.fws = .forced ∧ q.pc = s.iss.pc) →
          lacking s.wave (4 * 2 ^ w.toNat) (others.foldl (fun m q => m ||| q.members) s.part.members) = 0 →
          ∃ t r, exec (.regang w) s = .next t ∧ t.wave.parts = [r] ∧ r.fws = .run ∧ r.pc = s.iss.next
            ∧ r.members = others.foldl (fun m q => m ||| q.members) s.part.members
            ∧ t = { s with wave := { s.wave with parts := t.wave.parts } })))
  ∧ (∀ s : State, s.InFocus →
    (∀ l st c cb r : BitVec 4,
      (∀ x ∈ [(l, OpClass.ldc), (st, .stc), (c, .cpc), (cb, .cbc), (r, .rtc)],
        x.1 = 15 ∨ s.wave.count s.iss.members x.2 ≤ x.1.toNat) →
      exec (.waitcnt l st c cb r) s = .next s)
    ∧ (∀ l st c cb r : BitVec 4, s.iss.waited = false →
      (∃ x ∈ [(l, OpClass.ldc), (st, .stc), (c, .cpc), (cb, .cbc), (r, .rtc)],
        x.1 ≠ 15 ∧ x.1.toNat < s.wave.count s.iss.members x.2) →
      Moves (.waitcnt l st c cb r) s { s.part with pc := s.iss.pc, redo := s.iss.redo })
    ∧ (∀ k nt, (s.ctx s.wg.ctx).yieldReq = false → exec (.yield k nt) s = .next s)
    ∧ (∀ k nt, (s.ctx s.wg.ctx).yieldReq = true →
        Moves (.yield k nt) s { s.part with
          pc := if s.part.redo = none then s.iss.pc else s.part.pc
          after := if s.part.redo = none then some s.iss.next else s.part.after
          hold := .yielded (if nt then 0 else s.src.k (s.act.headD 0 / 4) k.toNat) })
    ∧ (∀ tag, (s.ctx s.wg.ctx).debug = false → exec (.brk tag) s = .next s)
    ∧ (∀ n, n ≠ 0 → Moves (.sleep n) s { s.part with hold := .sleep (16 * n.toNat) })
    ∧ exec (.sleep 0) s = .next s
    ∧ ∀ n, exec (.setprio n) s = .next (s.issuedParts fun p => { p with prio := n }))
  ∧ (∀ s : State, ∃ t, exec .exit s = .next t ∧ t.wave.exited = s.wave.exited ||| s.iss.lanes
    ∧ t.wave.rf = s.wave.rf ∧ t.wave.ops = s.wave.ops ∧ s.SameMemory t)

/-- R62, R193, R194, R390, R402: with the debug enable set, TRAP, BRK, a reserved word and a long head in slot 2 stop
the wave for the debugger, with the part at the instruction and a record that carries the code, the words and EXTRA of
Table 25.1. -/
def Obligations.TrapsStopWaves : Prop :=
  ∀ s : State, s.InFocus → s.wave.stop = none → s.iss.trapped = false → s.iss.parked = false → (s.ctx s.wg.ctx).debug = true →
    (∀ code : BitVec 16, 0x80 ≤ code.toNat → ∃ t, exec (.trap code) s = .next t ∧ s.StoppedAt t code.toNat 8 0 0)
    ∧ (∀ code : BitVec 16, code.toNat < 0x80 →
        ∃ t, exec (.trap code) s = .next t ∧ s.StoppedAt t 0x03 8 (code.toNat * 2 ^ 16) 0)
    ∧ (∀ tag : BitVec 16, ∃ t, exec (.brk tag) s = .next t ∧ s.StoppedAt t tag.toNat 9 0 0)
    ∧ (∀ (op : BitVec 6) (sel : BitVec 8),
        ∃ t, exec (.illop (.reserved op sel)) s = .next t ∧ s.StoppedAt t 0x00 8 (op.toNat + 2 ^ 6 * sel.toNat) 0)
    ∧ (∃ t, exec (.illop .shiftKind) s = .next t ∧ s.StoppedAt t 0x03 8 (9 + 3 * 2 ^ 16) 0)
    ∧ ∃ t, exec .pktstraddle s = .next t ∧ s.StoppedAt t 0x01 8 s.iss.pc.toNat 0

/-! ### Barriers, rings, ordering, special registers -/

/-- R30, R31, R186: an arrival that completes the wave's counts once, fixes the phase's expected count, and completes
the phase at its target; BAR.SYNC then waits for a phase it did not complete. Where quads are still to arrive, the
quads are noted. R31, R139: BAR.WAIT keeps its part until the phase in progress has passed, and then lets it go on.
What BAR.WAIT waits for after its wave's phase has completed is the model's reading (DEDUCED, log entry 20). -/
def Obligations.BarriersCountAndWait : Prop :=
  (∀ (s : State) (id : BitVec 4) (exp : BitVec 10), s.InFocus → s.Quiet → id.toNat < s.wg.launch.barriers → exp.toNat ≤ 32 →
    arrivalPending s.wg s.wave id.toNat = false →
    let b := s.wg.barriers.get id.toNat
    let want := b.expected.getD exp.toNat
    let target := if want = 0 then s.wg.live.length else want
    let seen := s.wave.arrived.get id.toNat ||| s.iss.members
    let frame := fun t : State => s.SameMemory t ∧ t.wave.rf = s.wave.rf ∧ t.wave.ops = s.wave.ops
    (s.wave.live &&& ~~~seen = 0 →
      (∃ t, exec (.barArv id exp) s = .next t ∧ frame t
        ∧ t.wg.barriers.get id.toNat = (if target ≤ b.count + 1 then ⟨0, none, b.phase + 1⟩ else ⟨b.count + 1, some want, b.phase⟩)
        ∧ t.wave.phases.get id.toNat = some b.phase ∧ t.wave.arrived.get id.toNat = 0)
      ∧ ∃ t, exec (.barSync id exp) s = .next t ∧ frame t
        ∧ t.wg.barriers.get id.toNat = (if target ≤ b.count + 1 then ⟨0, none, b.phase + 1⟩ else ⟨b.count + 1, some want, b.phase⟩)
        ∧ t.part.hold = (if target ≤ b.count + 1 then .none else .barrier id.toNat b.phase false))
    ∧ (s.wave.live &&& ~~~seen ≠ 0 →
        ∃ t, exec (.barArv id exp) s = .next t ∧ frame t ∧ t.wg = s.wg ∧ t.wave.arrived.get id.toNat = seen))
  ∧ (∀ (s : State) (id : BitVec 4), s.InFocus → id.toNat < s.wg.launch.barriers →
    (s.part.hold = .passed → Moves (.barWait id) s { s.part with hold := .none })
    ∧ (s.part.hold ≠ .passed → Moves (.barWait id) s { s.part with
        pc := s.iss.pc, redo := s.iss.redo, hold := .barrier id.toNat (s.wg.barriers.get id.toNat).phase true }))

/-- R36, R188, R189: STAGE.ACQ and RTT take the slot at the cursor of the wave's stage when it is free for the stage,
move the cursor and give its index; otherwise STAGE.ACQ claims it and waits for it, as it does where another part already
waits for the slot, and RTT answers false. STAGE.REL hands a held slot to the next stage. -/
def Obligations.RingSlots : Prop :=
  ∀ (s : State) (g : Guard) (q : BitVec 2), s.InFocus → s.WidthMet (BitVec.ofNat 3 s.wave.widthCode) → s.wave.widthCode < 5 →
    (ringOf s.wg q.toNat).valid = true → s.actG g ≠ [] →
    let st := stageOf s.wg s.wave
    let i := s.wg.cursors.get (8 * q.toNat + st)
    let slot := s.wg.slots.get (16 * q.toNat + i)
    let taken := fun t : State =>
      t.wg.cursors.get (8 * q.toNat + st) = (i + 1) % max 1 (ringOf s.wg q.toNat).slots
        ∧ t.wg.slots.get (16 * q.toNat + i) = ⟨true, st, some s.wave.id, false⟩
        ∧ ∀ k, k ≠ 16 * q.toNat + i → t.wg.slots.get k = s.wg.slots.get k
    let got := fun (t : State) (d : Reg) => ∀ lane r, r < 128 →
      t.wave.rf.read lane r = ((oneWord (s.actG g) d fun _ => nat32 i) lane r).getD (s.wave.rf.read lane r)
    let wanted := ∃ w ∈ s.allWaves, w.wg = s.wg.id ∧ ∃ p ∈ w.parts, p.hold = .ring q.toNat i
    (∀ d : Reg, slot.owner = st → slot.full = false → ¬ wanted → (∀ k, s.part.hold ≠ .got k) →
      ∃ t, exec (.stageAcq g q d) s = .next t ∧ taken t ∧ got t d ∧ s.SameMemory t ∧ t.part = s.part)
    ∧ (∀ (d : Reg) (pd : BitVec 3), slot.owner = st → slot.full = false →
      ∃ t, exec (.rtt g q pd d) s = .next t ∧ taken t ∧ got t d ∧ s.SameMemory t
        ∧ ∀ lane n, n < 8 → t.wave.rf.p lane n = ((onePred (s.actG g) pd fun _ => true) lane n).getD (s.wave.rf.p lane n))
    ∧ (∀ (d : Reg) (pd : BitVec 3), ¬ (slot.owner = st ∧ slot.full = false) →
      Gives (.rtt g q pd d) s noWord (onePred (s.actG g) pd fun _ => false))
    ∧ (∀ d : Reg, ¬ (slot.owner = st ∧ slot.full = false) ∨ wanted → (∀ k, s.part.hold ≠ .got k) →
      ∃ t, exec (.stageAcq g q d) s = .next t ∧ t.part.hold = .ring q.toNat i ∧ t.part.pc = s.iss.pc
        ∧ t.wg.cursors.get (8 * q.toNat + st) = (i + 1) % max 1 (ringOf s.wg q.toNat).slots
        ∧ t.wg.slots = s.wg.slots ∧ t.wave.rf = s.wave.rf ∧ s.SameMemory t)
    ∧ ∀ a : Reg,
        let n := s.u a ((s.actG g).headD 0)
        s.Quiet → s.holds q.toNat n = true →
        ∃ t, exec (.stageRel g q a) s = .next t
          ∧ t.wg.slots.get (16 * q.toNat + n) = ⟨false, (st + 1) % stageCount s.wg, none, false⟩
          ∧ t.wave = s.wave ∧ s.SameMemory t

/-- R94, R121, R123, R127: a FENCE that acquires waits at its instruction while a load or returning atomic of its part is
outstanding, and then, at CLUSTER scope or wider, empties the L1; one that releases there leaves no store of its core on its
way; kind 3 holds later engine commands behind those outstanding. That a release pushes out every store of its core as it
issues is the model's choice (DESIGN CHOICE, log entry 15). -/
def Obligations.FenceOrders : Prop :=
  ∀ (s : State) (scope kind : BitVec 3), s.InFocus → scope.toNat < 6 → kind.toNat < 4 →
    ((kind.toNat < 2 → s.wave.count s.iss.members .ldc = 0) →
      ∃ t, exec (.fence scope kind) s = .next t ∧ t.wave.rf = s.wave.rf
        ∧ (2 ≤ scope.toNat → kind ≠ 1 → pendingSteps (t.wavesOn s.wg.core) 0 = [])
        ∧ (2 ≤ scope.toNat → kind.toNat < 2 → (t.core s.wg.core).l1 = [])
        ∧ (kind = 3 → t.part.fenced = s.engineCmds ++ s.part.fenced))
    ∧ (kind.toNat < 2 → s.wave.count s.iss.members .ldc ≠ 0 → s.iss.waited = false →
      Moves (.fence scope kind) s { s.part with pc := s.iss.pc, redo := s.iss.redo })

/-- R70, R195, Table 4.4: GETSR writes each active lane the value of its register for that lane: the numbers of the
work hierarchy, the launch values, the part, the clock, and the copies of the chain. R45, R70, R73, R195, R409: SETSR
takes its leader's value: SR_ROUND and SR_CUBEMODE of the wave, the bits of SR_PENNANT that are cleared by writing
ones; a read-only register discards it and sets MODFB. -/
def Obligations.SpecialRegisters : Prop :=
  (∀ (s : State) (g : Guard) (id : BitVec 8) (d : Reg) (v : Nat → Word), s.wave.id ≠ 0 →
    (∀ l ∈ s.actG g, (id, v l) ∈ [
      (0x00#8, nat32 l), (0x01, nat32 (l / 4)), (0x02, nat32 s.wave.num), (0x03, nat32 s.wave.width),
      (0x04, nat32 (s.iss.members.toNat * 2 ^ 16 + blockBase s.iss.members * 2 ^ 8 + blockLog s.iss.members)),
      (0x05, nat32 (stageOf s.wg s.wave)), (0x06, nat32 s.wg.x), (0x07, nat32 s.wg.y), (0x08, nat32 s.wg.z),
      (0x09, nat32 s.wg.launch.nwgx), (0x0A, nat32 s.wg.launch.nwgy), (0x0B, nat32 s.wg.launch.nwgz),
      (0x0C, nat32 s.wg.rank),
      (0x0D, nat32 (s.wg.launch.cw % 16 + s.wg.launch.ch % 16 * 2 ^ 4 + s.wg.launch.cw * s.wg.launch.ch * 2 ^ 8)),
      (0x0F, nat32 (max 1 (s.gridOf s.wg.grid).span.length)), (0x1C, nat32 (coreWord s.wg.core)),
      (0x11, (s.wave.quads.get (l / 4)).clockHi.getD (nat32 (s.clock / 2 ^ 32))),
      (0x13, nat32 (s.wave.quads.get (l / 4)).resumed.toNat), (0x0E, nat32 (s.gridOf s.wg.grid).place), (0x10, nat32 s.clock),
      (0x12, nat32 (s.ctx s.wg.ctx).yieldReq.toNat), (0x14, nat32 s.iss.pennant.toNat), (0x15, nat32 s.iss.assist.toNat),
      (0x16, nat32 (s.gridOf s.wg.grid).gen), (0x17, nat32 s.iss.lanes.toNat), (0x18, nat32 (s.iss.lanes.toNat / 2 ^ 32)),
      (0x19, (s.ctx s.wg.ctx).capbase), (0x1A, nat32 s.wg.launch.param), (0x1B, nat32 (s.wg.launch.param / 2 ^ 32)),
      (0x1D, nat32 s.iss.round.toNat), (0x1E, nat32 (4096 * s.wg.launch.scratch)), (0x1F, nat32 s.wg.launch.waves)]) →
    (id = 0x10 → ∀ l ∈ s.actG g, ∀ t, exec (.getsr g id d) s = .next t →
      (t.wave.quads.get (l / 4)).clockHi = some (nat32 (s.clock / 2 ^ 32)))
    ∧ (s.actG g ≠ [] → ∃ t, exec (.getsr g id d) s = .next t
      ∧ (∀ lane r, r < 128 → t.wave.rf.read lane r = ((oneWord (s.actG g) d v) lane r).getD (s.wave.rf.read lane r))
      ∧ s.SameMemory t ∧ t = { s with wave := { s.wave with rf := t.wave.rf, quads := t.wave.quads } }))
  ∧ (∀ (s : State) (g : Guard) (a : Reg), s.InFocus → s.actG g ≠ [] →
    let x := s.rd a ((s.actG g).headD 0)
    (∃ t, exec (.setsr g 0x1D a) s = .next t ∧ t = { s with wave := { s.wave with round := bits 0 2 x } })
    ∧ (∃ t, exec (.setsr g 0x15 a) s = .next t ∧ t = { s with wave := { s.wave with assist := x.getLsbD 0 } })
    ∧ exec (.setsr g 0x14 a) s
        = .next (s.issuedParts fun p => { p with pennant := p.pennant &&& (~~~(bits 0 10 x) ||| s.iss.flags) })
    ∧ ∀ id : BitVec 8, id.toNat < 0x20 → id ≠ 0x14 → id ≠ 0x15 → id ≠ 0x1D →
        ∃ t, exec (.setsr g id a) s = .next t ∧ t.part.pennant = s.part.pennant ||| 1 ∧ t.wave.rf = s.wave.rf
          ∧ t.wave.round = s.wave.round ∧ t.wave.assist = s.wave.assist ∧ s.SameMemory t)

/-! ### Events of waves -/

/-- R50, R54, R56, R191, R412: a fuse group whose class's count has run out goes on merged, with FUSETO short of the
wave; a forced fuse of 2^24 cycles stops the wave with FUSEHANG; a miss splits a part; a spill or fill keeps the
deferred-path entries of its quad; a sleep ends. That a hung part
is left running at its chain is the model's reading (DEDUCED, log entry 39). -/
def Obligations.WaveEvents : Prop :=
  ∀ s : State, s.InFocus → s.saving = [] →
    (∀ (pc : Word) (p : Part) (rest : List Part), s.wave.stop = none →
      (s.wave.parts.filter fun q => q.fws == .fuse && q.pc == pc) = p :: rest → p.cls ≠ 0 → p.cls ≠ 15 →
      s.wg.launch.fusetab.getD (p.cls - 1) 0 ≤ p.clock →
      ∃ t, exec (.fuseTimeout s.wave.id pc) s = .next t
        ∧ (∃ r ∈ t.wave.parts, r.members = rest.foldl (fun m q => m ||| q.members) p.members ∧ r.fws = .run
          ∧ r.pc = p.after.getD (pc + 1)
          ∧ (s.wave.live &&& ~~~r.members ≠ 0 → r.reason = .merged ∧ r.pennant.getLsbD 3 = true))
        ∧ t = { s with wave := { s.wave with parts := t.wave.parts } })
    ∧ (s.wave.stop = none → (s.ctx s.wg.ctx).debug = true → s.part.fws = .forced → 2 ^ 24 ≤ s.part.clock →
      ∃ t, exec (.fusehang s.wave.id s.iss.entry) s = .next t
        ∧ (∃ st, t.wave.stop = some st ∧ st.debug = true) ∧ t.part.fws = .run ∧ t.part.pc = s.part.pc ∧ t.wave.rf = s.wave.rf
        ∧ ∀ cb e w, s.RecordRoom cb e w →
            t.numberAt e 2 = 0x11 ∧ t.numberAt (e + 8) 4 = s.part.first.toNat
              ∧ t.numberAt (e + 32) 8 =
                ((lacking s.wave (4 * 2 ^ s.part.waitId) s.part.members).toNat + s.part.waitId * 2 ^ 16) % 2 ^ 64)
    ∧ (∀ m : BitVec 16, s.wg.launch.splitMiss = true → s.wave.awake s.part = true → 32 ≤ s.part.stalled →
      (s.aim s.wave.id s.iss.entry).missQuads = some m → s.entriesFor 1 →
      ∃ t, exec (.missSplit s.wave.id s.iss.entry) s = .next t
        ∧ (∃ a ∈ t.wave.parts, ∃ b ∈ t.wave.parts, a.members = m ∧ b.members = s.part.members &&& ~~~m
          ∧ a.reason = .miss ∧ b.reason = .miss ∧ a.pc = s.part.pc ∧ b.pc = s.part.pc)
        ∧ s.SameMemory t ∧ t.wave = { s.wave with parts := t.wave.parts })
    ∧ (∀ q : Nat, (s.wave.quads.get q).moves ≠ 0 → pendingSteps s.allWaves (s.wg.id + 1) = [] →
      ∃ t, exec (.deferredSpillFill s.wave.id q) s = .next t
        ∧ fullStack t.wg t.wave q = fullStack s.wg s.wave q
        ∧ (t.wave.quads.get q).moves + 1 = (s.wave.quads.get q).moves
        ∧ t.wave = { s.wave with quads := t.wave.quads } ∧ s.SameMemory t)
    ∧ (s.part.hold = .sleep 0 → Moves (.sleepExpire s.wave.id s.iss.entry) s { s.part with hold := .none })

/-- R105, R107: a walk that ends at a leaf with the permissions asked sets A, and D for a write, at the leaf's home
slice, and the section's TLB remembers it. R22, R183, R334: a wave whose lanes have all exited and whose operations
have completed leaves; with its workgroup's last wave the workgroup leaves its core and its grid counts it, at once
where the section controller's link has a permit and no message waits on it (R330). -/
def Obligations.WalksAndRetirement : Prop :=
  (∀ (s : State) (sect asid c : Nat) (va : DWord) (kind : BitVec 4) (pte : DWord) (a level : Nat), sect < 128 →
    s.liveOfAsid asid = some c → (s.ctx c).asid = asid → canonical va.toNat = true →
    tlbFind (s.sect sect).tlb asid va.toNat = none → s.walk c va.toNat = .leaf pte a level → isRegSpace a = false →
    grants pte ⟨kind.getLsbD 0, kind.getLsbD 1, kind.getLsbD 2, kind.getLsbD 3⟩ = true →
    let new := pte ||| (if kind.getLsbD 1 then 0x300 else 0x100)
    ∃ t, exec (.pageWalk sect asid va kind) s = .next t
      ∧ (t.sect sect).tlb.head? = some ⟨asid, va.toNat / pageSize level * pageSize level, level, new⟩
      ∧ t.numberAt a 8 = new.toNat ∧ (∀ p, ¬ (a ≤ p ∧ p < a + 8) → t.byteAt p = s.byteAt p)
      ∧ t = { s with mem := t.mem, poison := t.poison, l2 := t.l2, sects := t.sects })
  ∧ (∀ s : State, s.wave.id ≠ 0 → s.wg.id ≠ 0 → s.wave.wg = s.wg.id → s.wave.live = 0 → s.wave.ops = [] →
    ∃ t, exec (.waveRetire s.wave.id) s = .next t ∧ t.hasWave s.wave.id = false ∧ s.SameMemory t
      ∧ ((∃ w ∈ s.waves, w.id ≠ 0 ∧ w.id ≠ s.wave.id ∧ w.wg = s.wg.id) → t.allWgs = s.allWgs)
      ∧ ((∀ w ∈ s.waves, w.wg ≠ s.wg.id) → (∀ g ∈ t.allWgs, g.id ≠ s.wg.id)
        ∧ (s.wg.descendant = false → (∃ g ∈ s.grids, g.id = s.wg.grid) →
          s.permits.get (2 * sectOf s.wg.core) < 8 → (∀ m ∈ (s.gridOf s.wg.grid).messages, m.1 ≠ 2 * sectOf s.wg.core) →
          (t.gridOf s.wg.grid).completed = (s.gridOf s.wg.grid).completed + 1)))

/-! ### Engines -/

/-- R127, R237, R238: an engine instruction with legal fields puts one command of its leader at the end of its
section's queue; its operation holds the status register, and counts in CPC for a CPY or COLL and in no counter for the shadow
and splat instructions (R245, R247, R318); no register and no byte of memory changes; a scope that the instruction does not
have sets MODFB (R409). -/
def Obligations.EngineCommandsIssue : Prop :=
  ∀ (s : State) (i : Instr) (f : EngineForm) (ld : Nat) (rest : List Nat), s.engineForm i f → s.actG f.guard = ld :: rest →
    s.Quiet → s.InFocus →
    let n := sectOf s.wg.core
    let c : Cmd := { (default : Cmd) with
      id := s.names + 1, job := f.job ld, wave := s.wave.id, wg := s.wg.id, op := s.names + 2, quad := ld / 4
      reg := f.status.toNat - 96, ctx := s.wg.ctx, grid := s.wg.grid, core := s.wg.core
      after := s.part.fenced.filter s.cmdLive }
    ∃ t, exec i s = .next t ∧ t.Issued (s.names + 2) f.cls [ld] [f.status.toNat] (.engine n (s.names + 1))
      ∧ t.sect n = (if f.splat then { s.sect n with splatQ := (s.sect n).splatQ ++ [c] }
        else { s.sect n with copyQ := (s.sect n).copyQ ++ [c] })
      ∧ (∀ m, m ≠ n → t.sect m = s.sect m)
      ∧ t.part.pennant = (if f.fallback then s.part.pennant ||| 1 else s.part.pennant)
      ∧ t = { s with
          wave := { s.wave with ops := t.wave.ops, parts := t.wave.parts }, sects := t.sects, iss := t.iss, names := s.names + 2 }

/-- R105, R239, R242, R248, R310, R437, R446, R449: an engine that takes a command reads its record and pins the pages it
targets; a grid whose queue's ENGMASK lacks the engine gives ERR 10 instead. R129, R238, R245, R247 to R249, R318, R321,
R436, R438, R440, R441: the other engine commands complete: SHDW with a handle or its cause, PUBLISH with the pages it
exchanged and its region closed, a collective with the bytes of its result or ERR 8, a splat command, which goes on tile
by tile, with its pass's figures and SPLATCAP. That ERR 1 comes before ERR 11 (log entry 38), a tile an event (log entry 46) and
which pages are pinned (log entry 57) are the model's readings (DEDUCED), and the region's index and the SERIAL after the last one
its choice (DESIGN CHOICE, log entry 79). -/
def Obligations.EngineCommandsRun : Prop :=
  (∀ (s : State) (n : Nat) (c : Cmd),
    ((s.sect n).copyQ.find? (fun c => !c.taken && s.runnable c) = some c →
      ((∃ base count, c.job = .shdw base count) ∨ (∃ scope h, c.job = .publish scope h) →
        exec (.copyEngineTake n) s = .next (s.onCmd n c.id fun c => { c with taken := true }))
      ∧ ∀ dir scope layout crd dst, c.job = .cpy dir scope none layout crd dst →
        (s.denied c = true → exec (.copyEngineTake n) s = .next (s.onCmd n c.id fun c => { c with taken := true, err := 10 }))
        ∧ (s.denied c = false → s.engReadable n c.ctx layout 64 →
          let r := s.readPhys (s.engPa n c.ctx layout) 64
          (∀ d ∈ (s.sect n).copyQ ++ (s.sect n).splatQ, d.id = c.id → d.slot = none) →
          ∃ t, exec (.copyEngineTake n) s = .next t
            ∧ s.Takes t n c r
              (if (layoutOf r).good dir dst (crd.map BitVec.toInt) = false then 1
                else if dir ≠ 2 ∧ 4096 * (s.wgOf c.wg).launch.scratch < dst + (layoutOf r).bytes then 11 else 0)
              (s.entriesOf c.ctx (copySpans (layoutOf r) dir dst (crd.map BitVec.toInt)))))
    ∧ ((s.sect n).splatQ.head? = some c → c.taken = false → s.runnable c = true → ∀ bwd scope record,
        c.job = .splat bwd scope record → s.denied c = false → record % 64 = 0 →
        (∀ i < 6, s.engReadable n c.ctx (record + 32 * i) 32) →
        let r := (List.range 6).flatMap fun i => s.readPhys (s.engPa n c.ctx (record + 32 * i)) 32
        ∃ t, exec (.splatEngineTake n) s = .next t
          ∧ s.Takes t n c r ((passOf r).err bwd) (s.entriesOf c.ctx ((passOf r).spans bwd c))))
  ∧ (∀ (s : State) (sect cmd : Nat) (c : Cmd),
    (s.copying sect cmd c →
      (∀ base count, c.job = .shdw base count → s.publishFirst c.ctx base count = false →
        ((base % 2 ^ 14 ≠ 0 ∨ count = 0 ∨ 65536 < count) →
          ∃ t, exec (.shadowRegionOpened sect cmd) s = .next t ∧ s.Finishes t c 1 ∧ s.MemoryBut t (s.pinsOf c)
            ∧ t.ctxs = s.ctxs)
        ∧ (s.regionCause c.ctx base count = 0 → ∃ t serial index, exec (.shadowRegionOpened sect cmd) s = .next t
          ∧ s.Finishes t c (nat32 (serial * 2 ^ 8 + index)) ∧ serial = (s.ctx c.ctx).serial % (2 ^ 24 - 1) + 1
          ∧ index < 16 ∧ (∀ r ∈ (s.ctx c.ctx).regions, r.index ≠ index)
          ∧ (t.ctx c.ctx).regions = (s.ctx c.ctx).regions ++ [⟨index, serial, base, count, []⟩]))
      ∧ (∀ scope h, c.job = .publish scope h → c.err = 0 →
        ((s.ctx c.ctx).regionOfHandle h = none →
          ∃ t, exec (.publishExchange sect cmd) s = .next t ∧ s.Finishes t c (nat32 (2 ^ 31 + 7 * 2 ^ 27))
            ∧ s.MemoryBut t (s.pinsOf c))
        ∧ ∀ r, (s.ctx c.ctx).regionOfHandle h = some r → ∃ t, exec (.publishExchange sect cmd) s = .next t
          ∧ s.Finishes t c (nat32 (2 ^ 31 + r.frames.length % 2 ^ 23))
          ∧ (t.ctx c.ctx).regions = (s.ctx c.ctx).regions.filter fun x => x.index != r.index)
      ∧ (∀ kind op type scope record h, c.job = .coll kind op type scope record h → c.err = 0 →
        let count := fieldAt c.record 16 4
        let n := if scope = 4 then max 1 (s.gridOf c.grid).span.length else 1
        let spans := collSpans kind type count n (fieldAt c.record 0 8) (fieldAt c.record 8 8)
        (∀ r own s' t', n = 1 → (s.ctx c.ctx).regionOfHandle h = some r → r.base ≤ fieldAt c.record 8 8 →
          fieldAt c.record 8 8 + collBytes kind type count 1 ≤ r.base + r.pages * 2 ^ 14 →
          c.data = [] → c.out = [] → c.progress = 0 →
          (s.refer sect { c with shares := [] } spans).2.engReadAll sect c.ctx c.grid (fieldAt c.record 0 8)
            (collSize type * count) = .ok (own, s') →
          s'.engWriteAll sect c.ctx c.grid (fieldAt c.record 8 8)
            (collResult kind op type count (if scope = 4 then (s.gridOf c.grid).place else 0) s'.fresh [own]
              (fieldAt c.record 25 1)) = (collBytes kind type count 1, t', none) →
          (scope = 4 → (s.gridOf c.grid).place = 0) →
          ∃ t, exec (.collComplete sect cmd []) s = .next t
            ∧ s.Finishes t c (nat32 (2 ^ 31 + collBytes kind type count 1 % 2 ^ 23))
            ∧ t'.MemoryBut t (s.pinsOf c ++ s.entriesOf c.ctx spans))
        ∧ (n ≠ 1 → ∃ t b, exec (.collPeerLost sect cmd) s = .next t ∧ b < 2 ^ 23
          ∧ s.Finishes t c (nat32 (2 ^ 31 + 8 * 2 ^ 27 + b)))))
    ∧ ((s.sect sect).splatQ.head? = some c → c.taken = true → s.runnable c = true → s.NotSaved c.wave → s.InFocus →
      c.wave = s.wave.id → ∀ bwd scope record, c.job = .splat bwd scope record →
        (c.err ≠ 0 → ∃ t, exec (.splatComplete sect) s = .next t ∧ s.Finishes t c (splatStatus c.err c.trunc
            (if c.data = [] then 0 else (passOf c.record).nvis bwd c)) ∧ s.MemoryBut t (s.pinsOf c))
        ∧ (c.err = 0 →
          let p := passOf c.record
          let r := s.refer sect c (p.spans bwd c)
          ∀ c' s', p.advance sect bwd r.1 r.2 = (c', s', none) →
            (p.finished c' = false → exec (.splatComplete sect) s = .next (s'.onCmd sect c.id fun _ => c'))
            ∧ (p.finished c' = true →
              ∃ t, exec (.splatComplete sect) s = .next t ∧ s.Finishes t c (splatStatus 0 c'.trunc (p.nvis bwd c'))
                ∧ s'.MemoryBut t (s.pinsOf c ++ s.entriesOf c.ctx (p.spans bwd c))
                ∧ (c'.trunc = true →
                  ∀ p ∈ t.wave.parts, p.members.getLsbD c.quad = true → p.pennant.getLsbD 9 = true)))))

/-- R238 to R242: a CPY of an uncompressed box of whole bytes moves its elements and writes DONE and its bytes to its status
register. From memory to the window, each element lies at its swizzled place in the packed box, with OOBFILL where it is out of
bounds; to memory, from the window or from a tensor of the same layout, each element within bounds lies at its offset from the
base, and the others are not written. Every other byte of the window and of memory is as it was, but for EPIN in the leaf entries
of the pages (R105), those which log entry 57 names (DEDUCED). First the same for a box of one dimension within bounds, in plain
numbers. -/
def Obligations.CopyIntoWindow : Prop :=
  (∀ (s : State) (sect cmd : Nat) (c : Cmd) (scope layout dst x n f : Nat) (crd : List Word), s.copying sect cmd c →
    c.job = .cpy 0 scope none layout crd dst → c.err = 0 → c.progress = 0 → c.nibbles = 0 → c.methods = 0 →
    let l := layoutOf c.record
    f < 5 → l.fmt = f → l.rank = 1 → l.swz = 0 → l.comp = false → l.box = [n] → crd.headD 0 = BitVec.ofNat 32 x →
    crd ≠ [] → x + n < 2 ^ 31 → x + n ≤ l.dims.headD 0 → l.dims.length = 1 → l.base + (x + n) * 2 ^ f < 2 ^ 64 →
    n * 2 ^ f < 2 ^ 23 →
    (∀ i < n, s.engReadable sect c.ctx (l.base + (x + i) * 2 ^ f) (2 ^ f)) → pendingSteps s.allWaves (s.wg.id + 1) = [] →
    let entries := s.entriesOf c.ctx (copySpans l 0 dst (crd.map BitVec.toInt))
    (∀ p ∈ entries, ∀ i < n, let a := s.engPa sect c.ctx (l.base + (x + i) * 2 ^ f)
      isRegSpace a = false ∧ (a + 2 ^ f ≤ p ∨ p + 8 ≤ a)) →
    ∃ t, exec (.copyComplete sect cmd) s = .next t ∧ s.Finishes t c (nat32 (2 ^ 31 + n * 2 ^ f))
      ∧ s.MemoryBut t (s.pinsOf c ++ entries)
      ∧ (∀ i < n, t.wg.scratch.read (dst + i * 2 ^ f) (2 ^ f)
          = s.readPhys (s.engPa sect c.ctx (l.base + (x + i) * 2 ^ f)) (2 ^ f))
      ∧ ∀ p, ¬ (dst ≤ p ∧ p < dst + n * 2 ^ f) → t.wg.scratch.get p = s.wg.scratch.get p)
  ∧ ∀ (s : State) (sect cmd : Nat) (c : Cmd) (scope layout dir dst f : Nat) (crd : List Word), s.copying sect cmd c →
    c.job = .cpy dir scope none layout crd dst → dir < 3 → c.err = 0 → c.progress = 0 → c.nibbles = 0 → c.methods = 0 →
    let l := layoutOf c.record
    let b := s.boxOf sect c l dst (crd.map BitVec.toInt)
    f < 5 → l.fmt = f → l.comp = false → l.count * 2 ^ f < 2 ^ 23 → dst % (if dir = 2 then 1 else if l.swz = 0 then 16 else 128) = 0 →
    pendingSteps s.allWaves (s.wg.id + 1) = [] → (s.ctx c.ctx).regions = [] →
    let entries := s.pinsOf c ++ s.entriesOf c.ctx (copySpans l dir dst (crd.map BitVec.toInt))
    let reads := fun (i : Nat) => i < l.count ∧ b.inside i = true ∧ dir ≠ 1
    let writes := fun (i : Nat) => i < l.count ∧ b.inside i = true ∧ dir ≠ 0
    let dest := fun (i : Nat) => s.engPa sect c.ctx (b.va (if dir = 2 then dst else l.base) i)
    (∀ i, reads i → s.engReadable sect c.ctx (b.va l.base i) (2 ^ f) ∧ isRegSpace (b.source i) = false) →
    (∀ i, writes i → s.engMapped sect c.ctx (b.va (if dir = 2 then dst else l.base) i) (2 ^ f) ⟨false, true, false, true⟩
      ∧ isRegSpace (dest i) = false) →
    (∀ i j, writes i → writes j → i ≠ j → dest i + 2 ^ f ≤ dest j ∨ dest j + 2 ^ f ≤ dest i) →
    (∀ i j, reads i → writes j → b.source i + 2 ^ f ≤ dest j ∨ dest j + 2 ^ f ≤ b.source i) →
    (∀ p ∈ entries, ∀ i, (reads i → b.source i + 2 ^ f ≤ p ∨ p + 8 ≤ b.source i)
      ∧ (writes i → dest i + 2 ^ f ≤ p ∨ p + 8 ≤ dest i)) →
    let moved := if dir = 0 then l.count else ((List.range l.count).filter b.inside).length
    ∃ t, exec (.copyComplete sect cmd) s = .next t ∧ s.Finishes t c (nat32 (2 ^ 31 + moved * 2 ^ f))
      ∧ (dir = 0 → ∀ i < l.count, t.wg.scratch.read (b.place i) (2 ^ f)
          = if b.inside i then s.readPhys (b.source i) (2 ^ f) else l.fillBytes)
      ∧ (∀ p, (dir = 0 → ∀ i < l.count, ¬ (b.place i ≤ p ∧ p < b.place i + 2 ^ f)) → t.wg.scratch.get p = s.wg.scratch.get p)
      ∧ (∀ i, writes i → t.readPhys (dest i) (2 ^ f)
          = if dir = 1 then s.wg.scratch.read (b.place i) (2 ^ f) else s.readPhys (b.source i) (2 ^ f))
      ∧ ∀ a, (∀ p ∈ entries, ¬ (p ≤ a ∧ a < p + 8)) → (∀ i, writes i → ¬ (dest i ≤ a ∧ a < dest i + 2 ^ f)) →
          t.byteAt a = s.byteAt a

/-! ### Launches -/

/-- R196 to R200: LAUNCH, EMIT, JOIN, GLAUNCH and GCANCEL do what they ask of the die, the join block and the root,
and write their registers: 0 for a record that found room and 1, with LAUNCHFULL, for one that did not. The die that a JOIN's
parent record enters is the model's choice (DESIGN CHOICE, log entry 76), and that GLAUNCH counts nowhere its reading (DEDUCED,
log entry 59). -/
def Obligations.LaunchesAndCancels : Prop :=
  ∀ (s : State) (g : Guard) (d a : Reg), s.InFocus →
    let die := dieOf s.wg.core
    let gives := fun (t : State) (ls : List Nat) (x : Word) => ∀ lane r, r < 128 →
      t.wave.rf.read lane r = ((oneWord ls d fun _ => x) lane r).getD (s.wave.rf.read lane r)
    (a.toNat ≤ 88 → a.toNat % 8 = 0 → s.actG g ≠ [] → s.Quiet →
      let record := fun l => (List.range 8).flatMap fun i => leBytes 4 (s.src.read l (a.toNat + i)).toNat
      ((s.die die).ring = [] → (s.die die).store.length + (s.actG g).length ≤ 4096 →
        ∃ t, exec (.launch g d a) s = .next t ∧ gives t (s.actG g) 0
          ∧ t.die die = { s.die die with store := (s.die die).store ++ (s.actG g).map fun l =>
              ⟨s.wg.ctx, s.wg.grid, min (fieldAt (record l) 5 1 % 8) (s.gridOf s.wg.grid).launch.prio.toNat, .cont (record l)⟩ }
          ∧ t = { s with wave := { s.wave with rf := t.wave.rf }, dies := t.dies })
      ∧ (4096 ≤ (s.die die).store.length → 65536 ≤ (s.die die).ring.length →
        ∃ t, exec (.launch g d a) s = .next t ∧ gives t (s.actG g) 1 ∧ t.dies = s.dies ∧ s.SameMemory t
          ∧ t.part.pennant = s.part.pennant ||| 0x100))
    ∧ (∀ (b : Reg) (l : Nat) (n : Node), s.actG g = [l] → s.emitNode b l = some n → a.toNat + n.stride / 4 ≤ 96 → a.toNat < 96 →
      s.Quiet →
      let record := (List.range (n.stride / 4)).map fun i => s.src.read l (a.toNat + i)
      let mine := fun (x : Batch) => x.named s.wg.ctx n.id s.wg.grid
      let add := fun (x : Batch) => if mine x then { x with records := x.records ++ [record] } else x
      (∀ x, (s.die die).batches.find? (fun x => mine x && decide (x.records.length < n.width)) = some x →
        x.records.length + 1 < n.width →
        ∃ t, exec (.emit g d a b) s = .next t ∧ gives t [l] 0
          ∧ t.die die = { s.die die with batches := (s.die die).batches.map add }
          ∧ t = { s with wave := { s.wave with rf := t.wave.rf }, dies := t.dies })
      ∧ ((∀ x ∈ (s.die die).batches, mine x = false) → 1 < n.width →
        ((s.die die).batches.filter fun x => x.ctx == s.wg.ctx).length < 256 →
        ∃ t, exec (.emit g d a b) s = .next t ∧ gives t [l] 0
          ∧ t.die die = { s.die die with
              batches := (s.die die).batches ++ [⟨s.wg.ctx, s.wg.grid, n.id, [record], 0, s.cycle⟩] }
          ∧ t = { s with wave := { s.wave with rf := t.wave.rf }, dies := t.dies }))
    ∧ (∀ l : Nat, s.actG g = [l] → a.toNat % 2 = 0 → s.Quiet → s.Storable (s.u2 a l) 16 ⟨true, true, false, false⟩ →
      let pa := s.paOf (s.u2 a l)
      isRegSpace pa = false → s.poisoned pa 16 = false →
      ∃ t, exec (.joinBlock g a) s = .next t
        ∧ t.numberAt pa 4 = (s.numberAt pa 4 + (2 ^ 32 - 1)) % 2 ^ 32
        ∧ (∀ p, ¬ (pa ≤ p ∧ p < pa + 4) → t.byteAt p = s.byteAt p)
        ∧ t.die die = (if s.numberAt pa 4 = 1 ∧ s.numberAt (pa + 8) 8 ≠ 0 then
            { s.die die with parents := (s.die die).parents ++
              [⟨s.wg.ctx, s.wg.grid, s.numberAt (pa + 8) 8, s.wg.core, none⟩] } else s.die die)
        ∧ t = { s with
            mem := t.mem, poison := t.poison, cores := t.cores, l2 := t.l2, mclog := t.mclog, msix := t.msix, dies := t.dies })
    ∧ (∀ (l : Nat) (rest : List Nat), s.actG g = l :: rest →
      (a.toNat % 2 = 0 → s.Quiet →
        ∃ t, exec (.glaunch g d a) s = .next t
          ∧ t.Issued (s.names + 1) .uncounted [l] [d.toNat] (.launch (s.u2 a l) 0)
          ∧ t = { s with wave := { s.wave with ops := t.wave.ops }, names := s.names + 1 })
      ∧ (s.rootGrid (s.u a l) = none →
        Gives (.gcancelDrain g d a) s (oneWord [l] d fun _ => 1) noPred
          ∧ Gives (.gcancelKill g d a) s (oneWord [l] d fun _ => 1) noPred)
      ∧ ∀ r : Grid, s.rootGrid (s.u a l) = some r → r.id ≠ 0 → s.gridOf r.id = r →
        r.sums.1 + r.sums.2 < r.launch.groups →
        (∃ t, exec (.gcancelDrain g d a) s = .next t ∧ gives t [l] 0
          ∧ t.gridOf r.id = { r with
              dealing := false, undealt := [], dieRanges := [], sectRanges := [], dieAsks := [], sectAsks := [], poolEnd := r.pool
              begun := true, killing := false, cancelled := (t.gridOf r.id).cancelled, messages := (t.gridOf r.id).messages
              mode := max r.mode 1 }
          ∧ (t.gridOf r.id).cancelled + (t.gridOf r.id).waiting
              = r.cancelled + r.waiting + r.unstarted * (r.launch.cw * r.launch.ch)
          ∧ t.pod = (r.children.map fun m => PodMsg.cancel m r.root r.gen false).reverse ++ s.pod
          ∧ t = { s with
              wave := { s.wave with rf := t.wave.rf }, grids := t.grids, pod := t.pod, permits := t.permits })
        ∧ ∃ t, exec (.gcancelKill g d a) s = .next t ∧ (t.gridOf r.id).mode = max r.mode 2 ∧ (t.gridOf r.id).dealing = false
          ∧ t.pod = (r.children.map fun m => PodMsg.cancel m r.root r.gen true).reverse ++ s.pod
          ∧ ∀ w ∈ t.allWgs, w.grid ≠ r.id)

/-- R197, R199, R304, R337, R338: a batch whose timer has run out enters the store of its die; a parent record is read
and pushed; a core pops a continuation record, whose wave begins as Table 4.5 says; the root takes a grid, its priority
lowered to the queue's limit (R328), and answers its generation, or 0. That the
LAUNCH packets carry the lowered priority is the model's reading (DEDUCED, log entry 61). -/
def Obligations.PendingLaunches : Prop :=
  ∀ s : State,
    (∀ (die : Nat) (b : Batch) (n : Node),
      (s.die die).batches.find? (fun x => x.named b.ctx b.node b.grid) = some b → nodeOf (s.gridOf b.grid) b.node = some n →
      n.timer ≤ b.clock → (s.die die).store.length < 4096 → (s.die die).ring = [] →
      ∃ t, exec (.batchTimeout die b.ctx b.node b.grid) s = .next t
        ∧ t.die die = { s.die die with
            store := (s.die die).store ++ [⟨b.ctx, b.grid, (s.gridOf b.grid).launch.prio.toNat, .batch b.node b.records⟩]
            batches := (s.die die).batches.filter fun x => !x.named b.ctx b.node b.grid }
        ∧ t = { s with dies := t.dies })
    ∧ (∀ (die pa : Nat) (p : ParentRead) (rest : List ParentRead), (s.die die).parents = p :: rest → p.parked = none →
      p.addr % 32 = 0 → s.fwCheck p.ctx p.addr needRead = .ok pa → (s.die die).store.length < 4096 → (s.die die).ring = [] →
      pendingSteps (s.wavesOn p.core) 0 = [] →
      ∃ t, exec (.joinParentPush die) s = .next t
        ∧ (t.die die).store = (s.die die).store ++ [s.contEntry p.ctx p.grid (t.readPhys pa 32)] ∧ (t.die die).parents = rest)
    ∧ (∀ (core i ctx grid prio : Nat) (r : List Byte), core < 2048 → s.entryToPop core = some (i, ⟨ctx, grid, prio, .cont r⟩) →
      badCont r = false →
      ∃ t w p, exec (.pendingLaunchPop core) s = .next t ∧ w ∈ t.waves ∧ w.parts = [p] ∧ w.wg = t.wg.id ∧ w.num = 0
        ∧ w.width = 4 * 2 ^ fieldAt r 4 1 ∧ p.pc = BitVec.ofNat 32 (fieldAt r 0 4) ∧ p.fws = .run
        ∧ p.masks = BitVec.ofNat 64 (2 ^ w.width - 1) ∧ p.prio = BitVec.ofNat 3 prio
        ∧ (∀ q < w.width / 4, ∀ k < 4, w.rf.k q k = BitVec.ofNat 32 (fieldAt r (8 + 4 * k) 4))
        ∧ w.rf.lanes = [] ∧ t.wg.core = core ∧ t.wg.ctx = ctx ∧ t.wg.grid = grid ∧ t.wg.descendant = true)
    ∧ (∀ (op addr l : Nat) (d : Nat) (o : Op) (rest : List Nat), s.InFocus → op ≠ 0 →
      s.wave.ops.find? (fun o => o.id == op) = some o → o.done = false → o.kind = .launch addr 0 → o.regs = [d] → d < 128 →
      lanesOf o.lanes = l :: rest → s.rootTurn s.wave.id op = true →
      (addr % 128 ≠ 0 → ∃ t, exec (.rootReturnsGeneration s.wave.id op) s = .next t
        ∧ t.wave.rf = s.wave.rf.write l d 0 ∧ t.grids = s.grids ∧ t.pod = s.pod ∧ s.SameMemory t)
      ∧ ∀ record span nodes, s.rootAnswer s.wg.ctx s.wg.grid addr = .accept record span nodes → (∀ x ∈ s.grids, x.id ≤ s.names) →
        let prio := min (fieldAt record 54 1 % 8) (s.queues.get (s.gridOf s.wg.grid).queue).maxprio
        ∃ t, exec (.rootReturnsGeneration s.wave.id op) s = .next t
          ∧ t.wave.rf = s.wave.rf.write l d (BitVec.ofNat 32 s.nextGen) ∧ t.gens = s.nextGen
          ∧ (let n := t.gridOf (s.names + 1)
             n.gen = s.nextGen ∧ n.ctx = s.wg.ctx ∧ n.root = s.fw.podNumber ∧ n.span = span ∧ n.place = 0 ∧ n.nodes = nodes
               ∧ n.started = decide (n.children = []) ∧ n.launch.prio.toNat = prio ∧ t.pod =
                 (n.children.map fun m => PodMsg.launch m s.fw.podNumber s.nextGen s.wg.ctx
                   (record.set 54 (BitVec.ofNat 8 prio)) span).reverse ++ s.pod))

/-! ### Grids -/

/-- R24, R74, R327 to R331: units are asked for, granted in consecutive ranges under permits and started: every wave
of a workgroup begins at the entry index with zero registers; a grid whose work has ended writes its completion word
once. The order of origins, partitions and entries is the model's reading (DEDUCED, log entry 26), and
so is which messages spend a permit (DEDUCED, log entry 41). -/
def Obligations.GridsDealAndComplete : Prop :=
  ∀ s : State,
    (∀ link : Nat, 0 < s.permits.get link →
      ((∀ g ∈ s.grids, ∀ m ∈ g.messages, m.1 ≠ link) → ∃ t, exec (.permitReturn link) s = .next t
        ∧ t.permits.get link = s.permits.get link - 1 ∧ (∀ k, k ≠ link → t.permits.get k = s.permits.get k)
        ∧ t = { s with permits := t.permits })
      ∧ ∀ id completed cancelled, s.waitingMessage link = some (id, completed, cancelled) →
        ∃ t, exec (.permitReturn link) s = .next t ∧ (∀ k, t.permits.get k = s.permits.get k)
          ∧ (t.gridOf id).completed = (s.gridOf id).completed + completed
          ∧ (t.gridOf id).cancelled = (s.gridOf id).cancelled + cancelled
          ∧ t = { s with permits := t.permits, grids := t.grids })
    ∧ (∀ (g : Grid), s.gridOf g.id = g → s.deals g = true →
      (∀ die < 8, wantsRange (g.dieRanges.get die) = true → die ∉ g.dieAsks → s.permits.get (upLink (dieHolder die)) < 8 →
        ∃ t, exec (.guidonRangeRequest g.id 1 die) s = .next t ∧ t.gridOf g.id = { g with dieAsks := g.dieAsks ++ [die] }
          ∧ t.permits.get (upLink (dieHolder die)) = s.permits.get (upLink (dieHolder die)) + 1
          ∧ t = { s with grids := t.grids, permits := t.permits })
      ∧ (∀ n < 128, wantsRange (g.sectRanges.get n) = true → n ∉ g.sectAsks → s.permits.get (2 * n) < 8 →
        ∃ t, exec (.guidonRangeRequest g.id 2 n) s = .next t ∧ t.gridOf g.id = { g with sectAsks := g.sectAsks ++ [n] }
          ∧ t.permits.get (2 * n) = s.permits.get (2 * n) + 1 ∧ t = { s with grids := t.grids, permits := t.permits })
      ∧ (∀ (die : Nat) (r : URange), die ∈ g.dieAsks → g.undealt = [r] → r.lo < r.hi →
        s.permits.get (downLink (dieHolder die)) < 8 →
        let n := min 1024 (max 1 ((r.hi - r.lo) / 16))
        ∃ t, exec (.guidonGrant g.id 1 die) s = .next t
          ∧ (t.gridOf g.id).dieRanges.get die = g.dieRanges.get die ++ [⟨r.lo, r.lo + n, n⟩]
          ∧ (t.gridOf g.id).undealt = (if r.lo + n = r.hi then [] else [{ r with lo := r.lo + n }])
          ∧ (t.gridOf g.id).dieAsks = g.dieAsks.filter (· != die)
          ∧ t.permits.get (downLink (dieHolder die)) = s.permits.get (downLink (dieHolder die)) + 1
          ∧ t = { s with grids := t.grids, permits := t.permits })
      ∧ (∀ (sect : Nat) (r : URange), sect ∈ g.sectAsks → g.dieRanges.get (sect / 16) = [r] → r.lo < r.hi →
        s.permits.get (2 * sect + 1) < 8 →
        let n := min 64 (max 1 ((r.hi - r.lo) / 32))
        ∃ t, exec (.guidonGrant g.id 2 sect) s = .next t
          ∧ (t.gridOf g.id).sectRanges.get sect = g.sectRanges.get sect ++ [⟨r.lo, r.lo + n, n⟩]
          ∧ (t.gridOf g.id).dieRanges.get (sect / 16) = (if r.lo + n = r.hi then [] else [{ r with lo := r.lo + n }])
          ∧ t.permits.get (2 * sect + 1) = s.permits.get (2 * sect + 1) + 1
          ∧ t = { s with grids := t.grids, permits := t.permits }))
    ∧ (∀ (sect u o : Nat) (g : Grid), sect < 128 → s.unitToStart sect = some (g, u, o) → g.launch.cw = 1 → g.launch.ch = 1 →
      ∃ t, exec (.workgroupStart sect) s = .next t ∧ t.wg.core = o ∧ t.wg.ctx = g.ctx ∧ t.wg.grid = g.id
        ∧ t.wg.x = u % g.launch.nwgx ∧ t.wg.y = u / g.launch.nwgx % g.launch.nwgy
        ∧ t.wg.z = u / g.launch.nwgx / g.launch.nwgy ∧ t.wg.scratch = [] ∧ t.wg.live = List.range g.launch.waves
        ∧ (t.core o).l1 = [] ∧ (t.core o).ctx = some g.ctx
        ∧ ∀ k < g.launch.waves, ∃ w ∈ t.waves, ∃ p, w.num = k ∧ w.wg = t.wg.id ∧ w.width = g.launch.width ∧ w.partition = k % 4
          ∧ w.rf = default ∧ w.exited = 0 ∧ w.round = g.launch.round ∧ w.assist = g.launch.assist ∧ w.parts = [p]
          ∧ p.pc = g.launch.code ∧ p.fws = .run ∧ p.prio = g.launch.prio ∧ p.pennant = 0
          ∧ p.masks = BitVec.ofNat 64 (2 ^ g.launch.width - 1))
    ∧ ∀ (g : Grid) (pa : Nat), s.gridOf g.id = g → s.gridEnds g = true → g.gen = 0 → g.place = 0 → g.reports = [] → g.lost = 0 →
      s.ctxPa g.ctx g.launch.compl = some pa → s.Written g.ctx g.launch.compl → isRegSpace pa = false →
      ∃ t, exec (.gridComplete g.id) s = .next t
        ∧ t.numberAt pa 8 = (2 ^ 63 + g.err * 2 ^ 59 + g.mode * 2 ^ 57 + g.cancelled % 2 ^ 48) % 2 ^ 64
        ∧ (∀ p, ¬ (pa ≤ p ∧ p < pa + 8) → t.byteAt p = s.byteAt p) ∧ (t.gridOf g.id).done = true
        ∧ t.msix = (if (s.queues.get g.queue).irqdone then [(s.queues.get g.queue).msix] else []) ++ s.msix

/-- R332 to R336, R450, R451: a module holds, acknowledges, starts, aborts, cancels and counts a pod-wide grid as the
packets of its tree ask, and passes each on; its own report carries the sums of its subtree to
its parent. When a module asks and reports, and a loss for want of a route, are the model's choices (DESIGN CHOICE, log entry
62). -/
def Obligations.PodGrids : Prop :=
  ∀ (s : State) (root gen : Nat),
    (∀ (ctxid place : Nat) (span : List Nat) (record : List Byte), span.findIdx? (· == s.fw.podNumber) = some place → place ≠ 0 →
      gen ≠ 0 → s.podOf root gen = none → s.relayOf root gen = [] → (s.ctx ctxid).installed = true → (s.ctx ctxid).killed = false →
      launchGood record = true → fieldAt record 104 8 = 0 → (∀ x ∈ s.grids, x.id ≤ s.names) →
      ∃ t, exec (.halyardLaunch ctxid root gen span record) s = .next t
        ∧ (let n := t.gridOf (s.names + 1)
           n.ctx = ctxid ∧ n.gen = gen ∧ n.root = root ∧ n.span = span ∧ n.place = place ∧ n.begun = false ∧ n.dealing = true
             ∧ n.acked = decide (n.children = [])
             ∧ t.pod = (if n.children = [] then [PodMsg.ack n.parent root gen] else []) ++
               (n.children.map fun m => PodMsg.launch m root gen ctxid record span).reverse ++ s.pod))
    ∧ (s.podOf root gen = none → ∃ t, exec (.halyardAbort root gen) s = .next t ∧ t.relayOf root gen = []
      ∧ t.pod = ((s.relayOf root gen).map fun m => PodMsg.abort m root gen).reverse ++ s.pod)
    ∧ ∀ g : Grid, s.podOf root gen = some g → g.id ≠ 0 → s.gridOf g.id = g →
      (∀ child ∈ childPlaces g.place g.span.length, child ∉ g.acks →
        (g.place = 0 → g.started = false →
          (∀ p ∈ childPlaces g.place g.span.length, p = child ∨ p ∈ g.acks) →
          ∃ t, exec (.halyardAck root gen child) s = .next t ∧ (t.gridOf g.id).started = true
            ∧ (t.gridOf g.id).acks = g.acks ++ [child]
            ∧ t.pod = (g.children.map fun m => PodMsg.start m root gen).reverse ++ s.pod)
        ∧ ((∃ p ∈ childPlaces g.place g.span.length, p ≠ child ∧ p ∉ g.acks) →
          ∃ t, exec (.halyardAck root gen child) s = .next t ∧ t.gridOf g.id = { g with acks := g.acks ++ [child] }
            ∧ t.pod = s.pod))
      ∧ (g.place ≠ 0 → g.started = false →
        ∃ t, exec (.halyardStart root gen) s = .next t ∧ (t.gridOf g.id).started = true
          ∧ t.pod = (g.children.map fun m => PodMsg.start m root gen).reverse ++ s.pod)
      ∧ (g.place ≠ 0 → g.started = false →
        ∃ t, exec (.halyardAbort root gen) s = .next t ∧ (t.gridOf g.id).done = true ∧ (t.gridOf g.id).dealing = false
          ∧ t.pod = (g.children.map fun m => PodMsg.abort m root gen).reverse ++ s.pod)
      ∧ (g.place ≠ 0 → ∀ kill : Bool,
        ∃ t, exec (.halyardCancel root gen kill) s = .next t ∧ (t.gridOf g.id).mode = max g.mode (if kill then 2 else 1)
          ∧ (t.gridOf g.id).dealing = false ∧ (t.gridOf g.id).undealt = []
          ∧ t.pod = (g.children.map fun m => PodMsg.cancel m root gen kill).reverse ++ s.pod)
      ∧ (g.place = 0 → g.begun = true → ∀ place lo hi, place ≠ 0 → place < g.span.length →
        let left := g.poolEnd - g.pool
        let n := min left (min 64 (max 1 (left / (2 * g.span.length))))
        ∃ t, exec (.poolRangeRequest root gen place lo hi) s = .next t
          ∧ t.gridOf g.id = { g with pool := g.pool + n }
          ∧ t.pod = PodMsg.poolGrant (g.span.getD place 0) root gen g.pool (g.pool + n) :: s.pod)
      ∧ (g.place ≠ 0 → ∀ lo hi,
        (g.poolAsked = false → s.asksPool g = true → ∃ t, exec (.poolRangeRequest root gen g.place lo hi) s = .next t
          ∧ t.gridOf g.id = { g with poolAsked := true } ∧ t.pod = PodMsg.poolRequest g.root root gen :: s.pod)
        ∧ (g.poolAsked = true → g.mode = 0 → lo < hi → ∃ t, exec (.poolRangeRequest root gen g.place lo hi) s = .next t
          ∧ t.gridOf g.id = { g with poolAsked := false, undealt := g.undealt ++ [⟨lo, hi, hi - lo⟩] } ∧ t.pod = s.pod))
      ∧ (∀ place ∈ childPlaces g.place g.span.length, (∀ r ∈ g.reports, r.place = place → r.final = false) →
        ∀ completed cancelled final err lost counts recs,
        ∃ t, exec (.countReport root gen place completed cancelled final err lost counts recs) s = .next t
          ∧ t.gridOf g.id = { g with
              reports := (g.reports.filter fun r => r.place != place) ++
                [⟨place, completed, cancelled, final, err, lost, counts, recs⟩]
              heard := g.heard.set place s.time }
          ∧ t = { s with grids := t.grids })
      ∧ (g.place ≠ 0 →
        ∃ t, exec (.countReport root gen g.place 0 0 false 0 0 [] []) s = .next t ∧ (t.gridOf g.id).reported = s.time
          ∧ t.pod = PodMsg.count g.parent root gen
              ⟨g.place, g.sums.1, g.sums.2, false, g.errAll, g.lostAll, g.countsAll, g.recsAll⟩ :: s.pod)
      ∧ (∀ place, g.place ≠ 0 → g.place < place → place < g.span.length →
        (∀ r ∈ g.reports, r.place = place → r.final = false) →
        ∃ t, exec (.moduleLost root gen place) s = .next t ∧ t.pod = PodMsg.lost g.parent root gen place :: s.pod)
      ∧ (root = s.fw.podNumber → g.place = 0 → g.started = false →
        (∃ p ∈ childPlaces 0 g.span.length, p ∉ g.acks) → g.sent + micros 20 ≤ s.time →
        ∃ t, exec (.startTimeout gen) s = .next t ∧ (t.gridOf g.id).done = true ∧ (t.gridOf g.id).err = 4
          ∧ (t.gridOf g.id).mode = 2 ∧ t.pod = (g.children.map fun m => PodMsg.abort m root gen).reverse ++ s.pod)

/-! ### The cube unit -/

/-- R265, R271, R275, R279 to R284: a cube instruction with legal fields puts its operations behind those that have reached its
core's unit, but ahead of those of higher partitions that reached it in this cycle, in order of octets, and is outstanding until all have ended; no register, cell or byte of memory changes at
issue. -/
def Obligations.CubeInstructionsIssue : Prop :=
  ∀ (s : State) (i : Instr) (g : Guard) (f : CubeForm), cubeGuard i = some g → s.actG g ≠ [] → s.cubeForm (s.actG g) i f →
    s.Quiet → pendingSteps s.allWaves (s.wg.id + 1) = [] →
    let u := s.core s.wg.core
    ∃ t, exec i s = .next t ∧ t.Issued (s.names + 1) f.cls f.lanes f.regs (.cube f.jobs.length)
      ∧ t.core s.wg.core = { u with
          cube := u.cube.filter (fun o => !s.follows o)
            ++ f.jobs.zipIdx.map (fun j =>
              ⟨u.cubeSeq + 1 + j.2 - (u.cube.filter s.follows).length, s.cycle, s.wave.id, s.wg.id, s.names + 1, j.1, none,
                false, none, [], false⟩)
            ++ (u.cube.filter s.follows).map fun o => { o with seq := o.seq + f.jobs.length }
          cubeSeq := u.cubeSeq + f.jobs.length }
      ∧ (∀ c, c ≠ s.wg.core → t.core c = s.core c)
      ∧ t = { s with wave := { s.wave with ops := t.wave.ops }, cores := t.cores, names := s.names + 1 }

/-- R256 to R258, R266 to R268: a pass begins with the oldest ready octet and occupies the array; when it is written
each cell of an active row takes its K-groups' sums over the slots as the pass read them, exactly for INT8, and no other
cell changes; an assisted octet keeps its subnormals. R261, R262, R278, R279: the oldest CLDB whose slot is free fills it from its source; a slot kept
as its header reads its storage again; memory changes at most in the leaf entries that the unit referred to for the slot
(R105). -/
def Obligations.CubePassesAndSlots : Prop :=
  (∀ (s : State) (core : Nat),
    (∀ (a : CubeOp) (rest : List CubeOp) (m : CubeMods) (p : CubeOperands) (op : OctetOp) (b : Bool),
      s.nextPass core = a :: rest → a.job = .octet m p op b → (∀ o ∈ (s.core core).cube, s.octetFails core o = false) →
      ∃ t, exec (.cubePassBegin core) s = .next t ∧ (t.core core).arrayFree = s.cycle + passCycles m
        ∧ (t.core core).cube = (s.core core).cube.map (fun o =>
            if o.seq ∈ (a :: rest).map CubeOp.seq then
              { o with
                ends := some (s.cycle + passCycles m + 11)
                held := o.job.slots.foldl (fun (h : Cells Slot) n => h.set n ((s.core core).slots.get n)) [] }
            else o)
        ∧ (∀ c, c ≠ core → t.core c = s.core c) ∧ t = { s with cores := t.cores })
    ∧ ∀ (o : CubeOp) (m : CubeMods) (p : CubeOperands) (op : OctetOp) (assist : Bool), s.ofFocus o →
      o.job = .octet m p op assist → op.lanes ≠ 0 → p.col0.toNat < 16 →
      let c := (s.core core).under o
      let key := fun i n => 256 * (8 * p.row0.toNat + 8 * op.octet + i) + 16 * p.col0.toNat + n
      let done := fun (t : State) (keep : Bool) =>
        (∀ i < 8, ∀ n < 16, op.lanes.getLsbD i = true → (t.core core).acc.get (key i n) = (cellSteps c m p op keep i n).headD 0)
        ∧ (∀ k, (∀ i < 8, ∀ n < 16, op.lanes.getLsbD i = true → k ≠ key i n) → (t.core core).acc.get k = c.acc.get k)
        ∧ s.Leaves t core o ∧ t.wave.rf = s.wave.rf ∧ s.SameMemory t
      (s.duePass core = [o] → assist = false → (∀ i < 8, ∀ n < 16, key i n ∉ c.accBad) →
        (c.slots.get p.bslot.toNat).sparse = 0 →
        ∃ t, exec (.cubePassWrite core) s = .next t ∧ done t false
          ∧ (m.fmtA = 5 → m.fmtB = 5 → m.cfmt = 0 → m.cmode = 0 → m.sparse = false → (c.slots.get p.bslot.toNat).fmt = 5 →
            ∀ i < 8, ∀ n < 16, op.lanes.getLsbD i = true → (t.core core).acc.get (key i n) =
              int32 ((if m.acc then (c.acc.get (key i n)).toInt else 0)
                + ((List.range 16).map fun j => rowInt (op.rows.getD i []) j
                    * weightInt (c.slots.get p.bslot.toNat).image (16 * p.koff.toNat + j) n).sum)))
      ∧ (c.cube.find? (fun o => o.assisted) = some o →
        ∃ t, exec (.cubeAssistComplete core) s = .next t ∧ done t true))
  ∧ (∀ (s : State) (core : Nat) (o : CubeOp),
    (∀ (f : CldbFields) (src : Nat) (rest : List CubeOp), s.ofFocus o → (s.core core).readyLoads = o :: rest → o.job = .load f src →
      let n := spnCount f.spn
      let kext := 16 * (f.kext.toNat + 1)
      let len := imageBytes f.fmt.toNat n kext
      (f.fmt = 4 → n = 0) → (f.fmt = 4 ∨ n ≠ 0 → f.kext.toNat % 2 = 1) → kext ≤ maxKext f.fmt.toNat n → src % 16 = 0 →
      (∀ x ∈ (s.core core).pendingFills, x.job.fills ≠ some f.slot.toNat) →
      let gets := fun (t : State) (image : List Byte) =>
        (t.core core).slots.get f.slot.toNat = ⟨true, f.fmt.toNat, n, kext, f.space, src, image, false, s.wg.ctx⟩
          ∧ (∀ k, k ≠ f.slot.toNat → (t.core core).slots.get k = (s.core core).slots.get k) ∧ s.Leaves t core o
          ∧ (t.core core).acc = (s.core core).acc ∧ s.LetsGo t core f.slot.toNat
      (f.space = true → src + len ≤ 4096 * s.wg.launch.scratch → pendingSteps s.allWaves (s.wg.id + 1) = [] →
        ∃ t, exec (.weightSlotFill core) s = .next t ∧ gets t (s.wg.scratch.read src len)
          ∧ s.MemoryButPins t core f.slot.toNat)
      ∧ (f.space = false → ∀ bs s', s.engSpan (sectOf core) s.wg.ctx s.wg.grid 3 src len = .ok (bs, s') →
        ∃ t, exec (.weightSlotFill core) s = .next t ∧ gets t bs ∧ s'.MemoryButPins t core f.slot.toNat))
    ∧ ∀ (n : Nat) (bs : List Byte) (s' : State), (s.core core).refillFor n = some o →
      (∀ x ∈ (s.core core).pendingFills, x.job.fills ≠ some n) →
      let x := (s.core core).slots.get n
      s.engSpan (sectOf core) x.ctx (s.wgOf o.wg).grid 3 x.src (imageBytes x.fmt x.sparse x.kext) = .ok (bs, s') →
      ∃ t, exec (.lazyRefill core n) s = .next t ∧ (t.core core).slots.get n = { x with image := bs, refill := false }
        ∧ (∀ k, k ≠ n → (t.core core).slots.get k = (s.core core).slots.get k) ∧ (t.core core).cube = (s.core core).cube
        ∧ s.LetsGo t core n ∧ s'.MemoryButPins t core n)

/-- R272, R280 to R284: a move occupies the accumulator port, and when it is written it converts and carries its
cells: CARD to its lanes' registers, CAWR from them, CASTS to the window, CALDS from it, CAZERO to zero; nothing else
changes. -/
def Obligations.AccumulatorMoves : Prop :=
  ∀ (s : State) (core : Nat) (o : CubeOp),
    (s.nextMove core = some o →
      ∃ t, exec (.accMoveBegin core) s = .next t ∧ (t.core core).portFree = s.cycle + o.job.moveCycles
        ∧ (t.core core).cube = (s.core core).cube.map (fun x =>
            if x.seq = o.seq then { x with ends := some (s.cycle + o.job.moveCycles + 7) } else x)
        ∧ t = { s with cores := t.cores })
    ∧ (s.ofFocus o → s.dueMove core = some o → (s.core core).accBad = [] →
      let acc := (s.core core).acc
      (∀ afmt relu scale row0 col0 d lanes oct scales, o.job = .card afmt relu scale row0 col0 d lanes oct scales → afmt < 8 →
        d + cellRegs afmt ≤ 96 →
        let code := fun i j => cellOut afmt relu scale (signedNat 8 (scales.getD i 0)) (acc.get (256 * (row0 + 8 * oct + i) + col0 + j))
        let per := 16 / cellRegs afmt
        ∃ t, exec (.accMoveWrite core) s = .next t ∧ s.Leaves t core o ∧ (t.core core).acc = acc ∧ s.SameMemory t
          ∧ t.wg.scratch = s.wg.scratch
          ∧ (∀ i < 8, lanes.getLsbD i = true → ∀ k < cellRegs afmt, t.wave.rf.read (8 * oct + i) (d + k) =
              nat32 ((List.range per).map fun j => code i (per * k + j) % 2 ^ (32 / per) * 2 ^ (32 / per * j)).sum)
          ∧ (∀ lane r, r < 128 → ¬ (d ≤ r ∧ r < d + cellRegs afmt ∧ ∃ i < 8, lanes.getLsbD i = true ∧ lane = 8 * oct + i) →
              t.wave.rf.read lane r = s.wave.rf.read lane r))
      ∧ (∀ afmt row0 col0 lanes oct rows, o.job = .cawr afmt row0 col0 lanes oct rows → afmt < 8 → col0 + 16 ≤ 256 →
        let key := fun i j => 256 * (row0 + 8 * oct + i) + col0 + j
        let per := 16 / cellRegs afmt
        ∃ t, exec (.accMoveWrite core) s = .next t ∧ s.Leaves t core o ∧ s.SameMemory t ∧ t.wave.rf = s.wave.rf
          ∧ (∀ i < 8, lanes.getLsbD i = true → ∀ j < 16, (t.core core).acc.get (key i j) =
              cellIn afmt (((rows.getD i []).getD (j / per) 0).toNat / 2 ^ (32 / per * (j % per)) % 2 ^ (32 / per)))
          ∧ ∀ k, (∀ i < 8, lanes.getLsbD i = true → ∀ j < 16, k ≠ key i j) → (t.core core).acc.get k = acc.get k)
      ∧ (∀ afmt relu scale row0 col0 rows cols off pitch sc, o.job = .casts afmt relu scale row0 col0 rows cols off pitch sc →
        afmt < 8 → cols * cellBytes afmt ≤ pitch →
        let e := cellBytes afmt
        ∃ t, exec (.accMoveWrite core) s = .next t ∧ s.Leaves t core o ∧ s.SameMemory t ∧ t.wave.rf = s.wave.rf
          ∧ (t.core core).acc = acc
          ∧ (∀ r < rows, ∀ c < cols, t.wg.scratch.read (off + r * pitch + c * e) e =
              leBytes e (cellOut afmt relu scale (signedNat 8 sc) (acc.get (256 * (row0 + r) + col0 + c))))
          ∧ ∀ p, (∀ r < rows, ¬ (off + r * pitch ≤ p ∧ p < off + r * pitch + cols * e)) →
              t.wg.scratch.get p = s.wg.scratch.get p)
      ∧ (∀ afmt row0 col0 rows cols off pitch, o.job = .calds afmt row0 col0 rows cols off pitch → afmt < 8 → col0 + cols ≤ 256 →
        let e := cellBytes afmt
        ∃ t, exec (.accMoveWrite core) s = .next t ∧ s.Leaves t core o ∧ s.SameMemory t ∧ t.wave.rf = s.wave.rf
          ∧ t.wg.scratch = s.wg.scratch
          ∧ (∀ r < rows, ∀ c < cols, (t.core core).acc.get (256 * (row0 + r) + col0 + c) =
              cellIn afmt (leValue (s.wg.scratch.read (off + r * pitch + c * e) e)))
          ∧ ∀ k, (∀ r < rows, ∀ c < cols, k ≠ 256 * (row0 + r) + col0 + c) → (t.core core).acc.get k = acc.get k)
      ∧ (∀ row0 col0 rows cols, o.job = .zeroTile row0 col0 rows cols →
        ∃ t, exec (.accMoveWrite core) s = .next t ∧ s.Leaves t core o ∧ s.SameMemory t ∧ t.wave.rf = s.wave.rf
          ∧ ∀ k, (t.core core).acc.get k =
              if ∃ r < rows, ∃ c < cols, k = 256 * (row0 + r) + col0 + c then 0 else acc.get k)
      ∧ (∀ m : Word, o.job = .zeroMask m →
        ∃ t, exec (.accMoveWrite core) s = .next t ∧ s.Leaves t core o ∧ s.SameMemory t ∧ t.wave.rf = s.wave.rf
          ∧ ∀ k < 2 ^ 16, (t.core core).acc.get k = if m.getLsbD (k / 8192 * 4 + k % 256 / 64) = true then 0 else acc.get k))

/-! ### Rays and textures -/

/-- R294 to R297, R301, R302: a ray or texture instruction whose lanes need no walk issues one operation that will
write what each lane's read or sample gives, and enters its partition's queue of the RT port (R14); RAYT gives a miss its
words, an unusable ray its own with RAYINV, and any other its trace; once its unit has taken it, completing it writes the
registers. That the unit reads memory as the instruction issues is the model's reading (DEDUCED, log entry 35). -/
def Obligations.RaysAndTextures : Prop :=
  ∀ s : State,
    let enters := fun (t : State) (texture : Bool) =>
      (t.core s.wg.core).rtQ.get s.wave.partition =
        (s.core s.wg.core).rtQ.get s.wave.partition ++ [(s.wave.id, s.names + 1, texture)]
    (∀ (i : Instr) (f : RtForm), s.rtForm i f → s.actG f.guard ≠ [] → s.Quiet →
      ∃ t, exec i s = .next t ∧ enters t f.texture ∧ s.SameMemory t
        ∧ t.Issued (s.names + 1) .rtc (s.actG f.guard) (runOf f.d f.n) (.rt s.iss.pc s.iss.word0 s.iss.word1
            (regWrites ((s.actG f.guard).flatMap fun l => (f.words l).zipIdx.map fun w => (l, f.d.toNat + w.2, w.1, false))))
        ∧ t = { s with
            wave := { s.wave with ops := t.wave.ops }, cores := t.cores, l2 := t.l2, mclog := t.mclog, msix := t.msix
            names := s.names + 1 })
    ∧ (∀ (g : Guard) (first cullb cullf : Bool) (mask : BitVec 8) (d a root : Reg) (l : Nat), quadV d → a.toNat % 8 = 0 →
      a.toNat ≤ 88 → kBase root → s.actG g = [l] → s.Quiet → s.InFocus →
      let ends := fun (t : State) (ws : List Word) (bad : Bool) => enters t false ∧
        t.Issued (s.names + 1) .rtc [l] (runOf d 4) (.rt s.iss.pc s.iss.word0 s.iss.word1
          (regWrites (ws.zipIdx.map fun w => (l, d.toNat + w.2, w.1, bad))))
      ((∃ i < 6, (Fmt.decode .fp32 (s.src.read l (a.toNat + i)).toNat).isNan = true) →
        ∃ t, exec (.rayt g first cullb cullf mask d a root) s = .next t
          ∧ ends t [0x7F800000, 0xFFFFFFFF, 0xFFFFFFFF, 1] false ∧ t.part.pennant = s.part.pennant ||| 0x80 ∧ s.SameMemory t)
      ∧ ∀ ws bad inv s', s.trace s.wg.core s.wg.ctx s.wg.grid first cullb cullf mask.toNat
          ((List.range 8).map fun i => s.src.read l (a.toNat + i)) (s.u2 root l) = .ok (ws, bad, inv) s' → s'.wave = s.wave →
        s'.iss = s.iss → s'.names = s.names → s'.wg = s.wg →
        (s'.core s.wg.core).rtQ = (s.core s.wg.core).rtQ →
        ∃ t, exec (.rayt g first cullb cullf mask d a root) s = .next t ∧ ends t ws bad ∧ s'.SameMemory t)
    ∧ ∀ (op : Nat) (o : Op) (pc word0 word1 : Word) (ws : List RegWrite), s.InFocus →
      s.wave.ops.find? (fun o => o.id == op) = some o → op ≠ 0 → o.done = false → o.kind = .rt pc word0 word1 ws → o.faults = [] → s.rtTaken s.wave o = true →
      (∀ x ∈ s.wave.ops, x.group = o.group → x.id = op ∨ x.done = true) → (∀ x ∈ s.wave.ops, x.release = none) →
      (∀ w ∈ s.waves, w.id ≠ s.wave.id) →
      ∃ t, exec (.rtComplete s.wave.id op) s = .next t ∧ t.wave.rf = ws.foldl RegFile.writeOne s.wave.rf
        ∧ t = { s with wave := { s.wave with rf := t.wave.rf, ops := t.wave.ops } }

/-! ### Host queues -/

/-- R71, R323 to R328, R365, R393: the scheduler core loads a queue, takes its next command, advances READIDX and does
what the command asks: a grid to deal, a copy for an engine, one 64-bit step or time stamp in memory, stubs for a
container; a malformed block halts the queue with code 3. Corners of the scheduler core that the manual leaves open
are the model's (DESIGN CHOICE, log entry 47), and the engine of a host COPY is free (log entry 11). -/
def Obligations.QueueCommands : Prop :=
  ∀ (s : State) (q : Nat),
    let v := s.queues.get q
    let took := fun (t : State) (n : Nat) => (t.queues.get q).readidx = (v.readidx + n) % 2 ^ 32
      ∧ t.fw.serving = some (q, true) ∧ t.allWaves = s.allWaves
    (∀ (version record param tag n pa : Nat), s.due q (.grid q version record param tag) = some n →
      s.fwRange v.ctx record 128 = .ok pa →
      let r := (s.ctxTouchRange v.ctx record 128 false).fwBytes v.ctx record 128
      launchGood r = true → fieldAt r 88 8 = 0 → fieldAt r 104 8 = 0 → (∀ g ∈ s.grids, g.id ≤ s.names) →
      ∃ t, exec (.grid q version record param tag) s = .next t ∧ took t n
        ∧ (let g := t.gridOf (s.names + 1)
           g.ctx = v.ctx ∧ g.queue = q ∧ g.addr = record ∧ g.tag = tag ∧ g.begun = true ∧ g.dealing = true ∧ g.done = false
             ∧ g.completed = 0 ∧ g.cancelled = 0 ∧ unitsIn g.undealt = (launchOf r).units
             ∧ g.launch = { launchOf r with
                 param := if param = 0 then (launchOf r).param else param
                 prio := BitVec.ofNat 3 (min (launchOf r).prio.toNat v.maxprio) })
        ∧ (t.queues.get q).taken = v.taken ++ [(true, s.names + 1)])
    ∧ (∀ (scope record dst n : Nat) (crd : List Word), s.due q (.copy q scope record dst crd) = some n →
      v.engmask.getLsbD 0 = true →
      ∃ t, exec (.copy q scope record dst crd) s = .next t ∧ took t n
        ∧ (t.sect s.hostSect).copyQ = (s.sect s.hostSect).copyQ ++
            [{ (default : Cmd) with id := s.names + 1, job := .host q scope record dst crd, ctx := v.ctx }]
        ∧ (t.queues.get q).taken = v.taken ++ [(false, s.names + 1)])
    ∧ (∀ (addr value n pa : Nat), s.fwCheck v.ctx addr needBoth = .ok pa → isRegSpace pa = false →
      (s.due q (.signal q false addr value) = some n →
        ∃ t, exec (.signal q false addr value) s = .next t ∧ took t n ∧ t.numberAt pa 8 = value % 2 ^ 64)
      ∧ (s.due q (.signal q true addr value) = some n →
        let s' := (s.takeBlock q n).fwTouch v.ctx addr needBoth
        s'.poisoned pa 8 = false →
        ∃ t, exec (.signal q true addr value) s = .next t ∧ took t n
          ∧ t.numberAt pa 8 = (s'.numberAt pa 8 + value) % 2 ^ 64))
    ∧ (∀ cond addr value n pa : Nat, s.due q (.wait q cond addr value) = some n → s.fwCheck v.ctx addr needRead = .ok pa →
      condMet cond (s.cmdWord pa) value = true ∧ ∃ t, exec (.wait q cond addr value) s = .next t ∧ took t n)
    ∧ (∀ n, s.due q (.barrier q) = some n → v.taken = [] ∧ ∃ t, exec (.barrier q) s = .next t ∧ took t n)
    ∧ (∀ addr n pa : Nat, s.due q (.timestamp q addr) = some n → s.fwCheck v.ctx addr needWrite = .ok pa → isRegSpace pa = false →
      v.taken = [] ∧ ∃ t, exec (.timestamp q addr) s = .next t ∧ took t n ∧ t.numberAt pa 8 = s.clock % 2 ^ 64)
    ∧ (∀ container result n a b : Nat, s.due q (.umxload q container result) = some n → v.engmask.getLsbD 4 = true →
      let h := s.fwRead v.ctx container 64
      let nf := fieldAt h 8 4
      let fs := (List.range nf).map fun i => s.functionEntry v.ctx container i h
      let s' := s.ctxTouchRange v.ctx container 64 false
      firstFail [s.fwSpan v.ctx container 64 needRead, s.fwSpan v.ctx result 32 needWrite] = .ok a → containerGood h = true →
      firstFail [s'.fwSpan v.ctx (container + fieldAt h 16 8) (64 * nf) needBoth,
        s'.fwSpan v.ctx container (fieldAt h 56 8) needRead, s'.fwSpan v.ctx (result + 32) (4 * nf) needWrite] = .ok b →
      fs.all (((s'.takeBlock q n).ctxTouchRange v.ctx container (fieldAt h 56 8) false).functionKnown v.ctx container h) = true →
      (s.ctx v.ctx).heapNext + nf ≤ (s.ctx v.ctx).packets →
      ∃ t, exec (.umxload q container result) s = .next t ∧ took t n
        ∧ (t.queues.get q).umx = some (container, result, (List.range nf).map fun i => (s.ctx v.ctx).heapNext + i)
        ∧ (t.ctx v.ctx).heapNext = (s.ctx v.ctx).heapNext + nf)
    ∧ (∀ (container result : Nat) (stubs : List Nat) (bodies : List TranslatedBody), v.umx = some (container, result, stubs) →
      let r := s.placeBodies v.ctx container (s.fwRead v.ctx container 64) (numbered stubs) bodies
      ∃ t, exec (.umxloadFinish q bodies) s = .next t ∧ (t.queues.get q).umx = none
        ∧ (t.ctx v.ctx).heapNext = (r.2.ctx v.ctx).heapNext ∧ t.allWaves = s.allWaves)
    ∧ (s.toServe = some q → s.serves q = false →
      let user := (s.ctxRead v.ctx v.user 32).getD (List.replicate 32 0)
      let h := s.readPhys v.shadow 64
      loadCode (s.ctx v.ctx) user h = 0 →
      ∃ t, exec (.queueLoad q) s = .next t ∧ t.fw.serving = some (q, false)
        ∧ (let w := t.queues.get q
           w.loaded = true ∧ w.prio = min (fieldAt user 20 1) (fieldAt h 56 1) ∧ w.ringbase = fieldAt user 0 8
             ∧ w.ringsize = fieldAt user 8 4 ∧ w.writeidx = fieldAt user 12 4 ∧ w.readidx = fieldAt user 16 4
             ∧ w.deadline = fieldAt h 60 1 ∧ w.maxspan = fieldAt h 58 2 ∧ w.maxprio = fieldAt h 56 1 ∧ w.msix = fieldAt h 61 2)
        ∧ ((∀ i < 2, s.Written v.ctx (max v.user ((v.user / 2 ^ 14 + i) * 2 ^ 14) % 2 ^ 64)) → s.SameMemory t))
    ∧ (s.serves q = true → s.block q = .bad →
      ∃ t, exec (.unknownCommandType q) s = .next t ∧ (t.queues.get q).halt = 3 ∧ t.msix = v.msix :: s.msix)

/-! ### Pre-emption -/

/-- R341, R342, R344, R346, R350 to R354, R391, R453, R454: a yield request ends sleeps and starts deadlines; a
deadline forces its cluster's save; a save frees the cluster's cores and a resume places every member again with its
registers; a save that lasts too long and a hang kill the context. Corners of saving and resuming are the model's
reading (DEDUCED, log entry 55). -/
def Obligations.Preemption : Prop :=
  ∀ s : State,
    (∀ c : Nat, s.InFocus → s.wg.ctx = c → (s.ctx c).installed = true → (s.ctx c).killed = false → (s.ctx c).yieldReq = false →
      let l := (s.gridOf s.wg.grid).launch
      let d := 2 ^ (s.queueOf s.wg.grid).deadline
      ∃ t, exec (.yieldRequest c) s = .next t ∧ (t.ctx c).yieldReq = true
        ∧ t.wg = { s.wg with deadline := some (if l.yieldDl = 0 then d else min d (2 ^ l.yieldDl)) }
        ∧ (∀ p ∈ t.wave.parts, ∀ n, p.hold ≠ .sleep n) ∧ t.wave.rf = s.wave.rf ∧ t.mem = s.mem)
    ∧ (s.wg.id ≠ 0 → s.wg.deadline = some 0 → (∀ v ∈ s.saving, v.cluster ≠ s.wg.cluster) →
      exec (.deadlineExpire s.wg.id) s = .next { s with saving := s.saving ++ [⟨s.wg.cluster, true, 0⟩] })
    ∧ (∀ (v : Saving) (g : WG) (rest : List WG), s.saving.find? (fun x => x.cluster == v.cluster) = some v →
      s.membersOf v.cluster = g :: rest →
      (s.settled v.cluster = true →
        let gs := g :: rest
        let u := (gs.map WG.id).foldl State.flushWindow ((gs.map WG.core).foldl State.flushCore s)
        let s' := u.uncountParked (gs.flatMap fun g => (u.wavesOf g.id).map Wave.id)
        s'.poisonedMember gs v.forced = none →
        ∀ c ms, allocImages (s'.ctx g.ctx) (gs.map fun g => s'.capture g v.forced) = some (c, ms) →
          ∃ t, exec (.clusterSave v.cluster) s = .next t ∧ t.saved = s.saved ++ [⟨v.cluster, g.ctx, ms⟩]
            ∧ (∀ x ∈ t.allWgs, x.id ∉ gs.map WG.id) ∧ (∀ w ∈ t.allWaves, w.wg ∉ gs.map WG.id)
            ∧ (∀ x ∈ t.saving, x.cluster ≠ v.cluster))
      ∧ (micros 50 ≤ v.clock →
        ∃ t, exec (.saveTimeout v.cluster) s = .next t ∧ (t.ctx g.ctx).killed = true ∧ ∀ x ∈ t.allWgs, x.ctx ≠ g.ctx))
    ∧ (∀ (v : Saved) (core : Nat), s.saved.find? (fun x => x.cluster == v.cluster) = some v → s.resumeFits v core = true →
      let l := ((v.members.head?.map SavedWg.wg).getD default).launch
      ∃ t, exec (.clusterResume v.cluster core) s = .next t ∧ (∀ x ∈ t.saved, x.cluster ≠ v.cluster)
        ∧ ∀ m ∈ v.members, (∃ g ∈ t.allWgs, g.id = m.wg.id ∧ g.core = core + m.wg.rank % l.cw + 16 * (m.wg.rank / l.cw))
          ∧ ∀ w ∈ m.waves, ∃ u ∈ t.allWaves, u.id = w.id ∧ u.num = w.num ∧ u.rf = w.rf ∧ u.exited = w.exited
              ∧ ∀ k < w.quadCount, (u.quads.get k).resumed = true)
    ∧ ∀ c : Nat, s.hangs c = true →
      ∃ t, exec (.hangWatchdog c) s = .next t ∧ (t.ctx c).killed = true ∧ (∀ g ∈ t.allWgs, g.ctx ≠ c)
        ∧ ∀ q, (s.queues.get q).installed = true → (s.queues.get q).ctx = c → (t.queues.get q).halt = 6

/-! ### Mailboxes -/

/-- R356, R357, R359, R389, R394, R397: a write of SQTAIL fetches the messages up to it, one of CQHEAD re-arms the
vector, and the host writes its registers alone; a completion goes to the completion ring by DMA with its vector,
waits while the ring is full, and is held while the link is down; RDIDX of a fault queue re-arms its vector, and RDIDX
of the machine-check log lets a held record in. Corners of the mailbox engine that the manual leaves open are the
model's reading (DEDUCED, log entry 48), and so are the vector raised while the link is down (DEDUCED, log entry 49) and MCVEC for a
record that is let in late (DEDUCED, log entry 32). -/
def Obligations.MailboxRegistersAndCompletions : Prop :=
  ∀ s : State,
    (∀ (h : MsgHead) (type status value : Nat),
      let b := s.box h.fn
      let t := s.answerMsg h type status value
      let e := entryOf h type status value
      b.owed = [] →
      (b.room → t.box h.fn = { b with cqtail := (b.cqtail + 1) % 2 ^ 32, unarmed := b.unarmed || decide (b.vecCount ≠ 0) }
        ∧ t.msix = (if b.unarmed = true ∨ b.vecCount = 0 then [] else [b.vector]) ++ s.msix
        ∧ (s.fw.linkUp = true → t.host.read b.nextEntry 16 = e
          ∧ ∀ p, ¬ (b.nextEntry ≤ p ∧ p < b.nextEntry + 16) → t.host.get p = s.host.get p)
        ∧ (s.fw.linkUp = false → s.fw.downLong = false →
          t.host = s.host ∧ t.fw.heldHost = s.fw.heldHost ++ [(b.nextEntry, e)]))
      ∧ (¬ b.room → t.box h.fn = { b with owed := [(0, e)] } ∧ t.host = s.host ∧ t.msix = s.msix)
      ∧ ∀ fn, fn ≠ h.fn → t.box fn = s.box fn)
    ∧ (∀ fn : Nat, fn ≤ 32 → s.booted = true →
      let b := s.box fn
      (∀ (tail : Nat) (fetched : List Byte),
        let n := if b.mbctl % 2 = 0 then 0 else
          (tail % 2 ^ b.sqsize + 2 ^ b.sqsize - b.sqhead % 2 ^ b.sqsize) % 2 ^ b.sqsize
        fetched.length = 64 * n →
        ∃ t, exec (.sqtailWrite fn tail fetched) s = .next t
          ∧ t.box fn = { b with
              sqtail := tail % 2 ^ 32, sqhead := if b.mbctl % 2 = 0 then b.sqhead else tail % 2 ^ b.sqsize
              pending := b.pending ++ (List.range n).map fun i => (fetched.drop (64 * i)).take 64 }
          ∧ (∀ k, k ≠ fn → t.box k = s.box k) ∧ t = { s with mailbox := t.mailbox })
      ∧ (∀ head : Nat, b.owed = [] → ∃ t, exec (.cqheadWrite fn head) s = .next t
        ∧ t.box fn = { b with cqhead := head % 2 ^ 32, unarmed := false } ∧ (∀ k, k ≠ fn → t.box k = s.box k)
        ∧ t = { s with mailbox := t.mailbox })
      ∧ ∀ offset value : Nat, ∃ t, exec (.mailboxRegWrite fn offset value) s = .next t
        ∧ t.box fn = (if offset = 0x00 then { b with sqbase := value % 2 ^ 64 }
            else if offset = 0x08 then { b with sqsize := value % 2 ^ 32 }
            else if offset = 0x18 then { b with cqbase := value % 2 ^ 64 }
            else if offset = 0x20 then { b with cqsize := value % 2 ^ 32 }
            else if offset = 0x2C then { b with mbctl := value % 2 ^ 12 } else b)
        ∧ (∀ k, k ≠ fn → t.box k = s.box k) ∧ t = { s with mailbox := t.mailbox })
    ∧ (∀ ctx value cb : Nat, (s.ctx ctx).installed = true → s.ctxPa ctx ((s.ctx ctx).faultq + 4) = some (cb + 4) →
      isRegSpace (cb + 4) = false → (s.ctx ctx).held = [] → s.Written ctx ((s.ctx ctx).faultq + 4) →
      let u := s.ctxWrite ctx ((s.ctx ctx).faultq + 4) (leBytes 4 value)
      u.ctxPa ctx (s.ctx ctx).faultq = some cb → u.Written ctx (s.ctx ctx).faultq → isRegSpace cb = false →
      ∃ t, exec (.faultqRdidxWrite ctx value) s = .next t ∧ t.numberAt (cb + 4) 4 = value % 2 ^ 32
        ∧ (∀ p, ¬ (cb + 4 ≤ p ∧ p < cb + 8) → t.byteAt p = s.byteAt p) ∧ (t.ctx ctx).armed = true
        ∧ t = { s with mem := t.mem, poison := t.poison, l2 := t.l2, ctxs := t.ctxs })
    ∧ ∀ value : Nat,
      let l := { s.mclog with rdidx := value % 2 ^ 32 }
      (l.waiting = [] → exec (.machineCheckLogRdidxWrite value) s = .next { s with mclog := l })
      ∧ ∀ dev body, l.waiting = [(dev, body)] → l.used < 255 → exec (.machineCheckLogRdidxWrite value) s = .next { s with
          mclog := { l with
            entries := l.entries.set (l.wridx % 255) (body ++ trailer l.wridx dev 4), wridx := (l.wridx + 1) % 2 ^ 32, waiting := [] }
          msix := l.mcvec :: s.msix }

/-- R358, R359, R360: a message of a reserved TYPE or OPT, of another version, or with a reserved field that is not
zero completes BADMSG; one that only the physical function may send, from another, and one that names an ASID of
another function complete DENIED; nothing of it is applied. Corners of the mailbox engine that the manual leaves open
are the model's reading (DEDUCED, log entry 48). -/
def Obligations.MessagesRefused : Prop :=
  ∀ (s : State) (i : Instr) (fn : Nat) (b : List Byte), s.nextMessage = some (fn, b) → sameMessage i (messageOf fn b) = true →
    s.translating = false →
    let h := headOf fn b
    let ends := fun status => exec i s = .next ((s.afterTaking fn).answerMsg h (fieldAt b 0 1) status 0)
    (messageGood b i = false → ends 2)
    ∧ (∀ type, i = .reservedMessageType h type → exec (.reservedMessageType h type) s =
        .next ((s.afterTaking fn).answerMsg h type 2 0))
    ∧ (messageGood b i = true → privileged i = true → fn ≠ 0 → ends 3)
    ∧ (messageGood b i = true → namesAsid i = true → s.owns fn h.asid = false → ends 3)

/-- R106, R131, R132, R358: WRITE and READ of a range within a page that the context maps, FENCE, INVAL and EVICT
complete with what they did: the bytes at their home slices, the bytes to host memory, no translation or line of the
range left, NP in the leaf. -/
def Obligations.MemoryMessages : Prop :=
  ∀ (s : State) (h : MsgHead),
    let u := s.afterTaking h.fn
    (∀ data : List Byte, s.sends (.write h data) h → data ≠ [] → data.length ≤ 48 → h.len ≤ 48 →
      (u.ctxOfAsid h.asid = none → exec (.write h data) s = .next (u.answerMsg h 1 6 0))
      ∧ ∀ c pa, u.ctxOfAsid h.asid = some c → h.addr % 2 ^ 14 + data.length ≤ 2 ^ 14 → u.fwCheck c h.addr needWrite = .ok pa →
        isRegSpace pa = false →
        ∃ w : State, exec (.write h data) s = .next ((w.afterWrite pa data.length).answerMsg h 1 0 0)
          ∧ Cells.read w.mem pa data.length = data
          ∧ (∀ p, ¬ (pa ≤ p ∧ p < pa + data.length) → w.byteAt p = (u.fwTouch c h.addr needWrite).byteAt p)
          ∧ w = { u.fwTouch c h.addr needWrite with mem := w.mem, poison := w.poison, l2 := w.l2 })
    ∧ (∀ bus count : Nat, s.sends (.read h bus count) h → 1 ≤ count → count ≤ 4096 →
      (u.ctxOfAsid h.asid = none → exec (.read h bus count) s = .next (u.answerMsg h 5 6 0))
      ∧ ∀ c pa, u.ctxOfAsid h.asid = some c → h.addr % 2 ^ 14 + count ≤ 2 ^ 14 → u.fwCheck c h.addr needRead = .ok pa →
        isRegSpace pa = false →
        let v := u.ctxUse c h.addr count false
        v.poisoned pa count = false →
        exec (.read h bus count) s = .next ((v.hostWrite bus (Cells.read v.mem pa count)).answerMsg h 5 0 count))
    ∧ (s.sends (.fenceOrder h) h → exec (.fenceOrder h) s = .next (u.answerMsg h 4 0 0))
    ∧ (∀ length : Nat, s.sends (.inval h length) h →
      ∃ v : State, exec (.inval h length) s = .next (v.answerMsg h 4 0 0) ∧ v.Forgotten h.asid h.addr length ∧ u.flushAll.SameMemory v)
    ∧ (s.sends (.evict h) h → canonical h.addr = true → ∀ (c : Nat) (pte : DWord) (a level : Nat),
      u.ctxOfAsid h.asid = some c → u.walk c h.addr = .leaf pte a level → isRegSpace a = false →
      (ptePin pte = true ∨ pteEpin pte = true ∨ pteShd pte = true → exec (.evict h) s = .next (u.answerMsg h 4 1 0))
      ∧ (ptePin pte = false → pteEpin pte = false → pteShd pte = false →
        ∃ v : State, exec (.evict h) s = .next (v.answerMsg h 4 0 0)
          ∧ v.Forgotten h.asid (h.addr / pageSize level * pageSize level) (pageSize level)
          ∧ v.numberAt a 8 = (BitVec.ofNat 64 (u.numberAt a 8) ||| 0x1000#64).toNat
          ∧ ∀ p, ¬ (a ≤ p ∧ p < a + 8) → v.byteAt p = u.flushAll.byteAt p))

/-- R322 to R324, R358: PUT loads a queue and serves it where none is served; INSTALL fixes a context's state with its
first queue; REMOVE frees an idle queue's number at once, and one that drains when its last command has completed, and
then completes. Corners of the mailbox engine that the manual leaves open are the model's reading (DEDUCED, log entry
48). -/
def Obligations.QueueMessages : Prop :=
  ∀ (s : State) (h : MsgHead) (q : Nat),
    let u := s.afterTaking h.fn
    let v := s.queues.get q
    (s.sends (.queuePut h q) h →
      (v.installed = false → exec (.queuePut h q) s = .next (u.answerMsg h 2 2 0))
      ∧ (v.installed = true → h.fn ≠ 0 → s.owns h.fn (s.ctx v.ctx).asid = false →
        exec (.queuePut h q) s = .next (u.answerMsg h 2 3 0))
      ∧ (v.installed = true → (h.fn = 0 ∨ s.owns h.fn (s.ctx v.ctx).asid = true) → v.draining = none → v.halt = 0 →
        exec (.queuePut h q) s = .next ({ u.loadQueue q with
          fw := { u.fw with serving := some (s.fw.serving.getD (q, false)) } }.answerMsg h 2 0 0)))
    ∧ (∀ (shadow pool poolSize heapSize : Nat) (debug : Bool) (capbase : Word),
      let i : Instr := .install h q shadow pool poolSize heapSize debug capbase
      let half := s.readPhys shadow 64
      let id := fieldAt half 54 2
      let vector := if fieldAt half 61 2 ≤ 2047 then fieldAt half 61 2 else 0
      s.sends i h → q < 1024 →
      (v.installed = true → exec i s = .next (u.answerMsg h 2 8 0))
      ∧ (v.installed = false → (s.ctx id).installed = false → (s.ctx id).killed = false →
        ∃ w : State, exec i s = .next (w.answerMsg h 2 0 0)
          ∧ w.queues.get q =
              { (default : Queue) with installed := true, ctx := id, user := h.addr, shadow := shadow, msix := vector }
          ∧ (∀ k, k ≠ q → w.queues.get k = s.queues.get k) ∧ (∀ k, k ≠ id → w.ctx k = s.ctx k)
          ∧ (let c := w.ctx id
             c.installed = true ∧ c.killed = false ∧ c.id = id ∧ c.ptroot = fieldAt half 0 8 ∧ c.codebase = fieldAt half 8 8
              ∧ c.faultq = fieldAt half 16 8 / 4096 * 4096 ∧ c.faultLog = fieldAt half 16 8 % 32
              ∧ c.shpool = fieldAt half 24 8 ∧ c.shpooln = fieldAt half 32 4 ∧ c.asid = fieldAt half 52 2 ∧ c.pool = pool
              ∧ c.poolSize = poolSize ∧ c.heapSize = heapSize ∧ c.debug = debug ∧ c.capbase = capbase ∧ c.yieldReq = false
              ∧ c.regions = [])
          ∧ w = { u with queues := w.queues, ctxs := w.ctxs, fw := w.fw })
      ∧ (v.installed = false → (s.ctx id).installed = true → (s.ctx id).killed = true →
        (s.ctx id).same half pool poolSize heapSize debug capbase = true →
        ∃ w : State, exec i s = .next (w.answerMsg h 2 0 0) ∧ (w.queues.get q).installed = true ∧ (w.queues.get q).halt = 6
          ∧ w.msix = vector :: s.msix))
    ∧ (s.sends (.remove h q) h → (s.box h.fn).owed = [] → v.installed = true → v.draining = none →
      (v.taken = [] → v.umx = none →
        ∃ w : State, exec (.remove h q) s = .next (w.answerMsg h 2 0 0) ∧ w.queues.get q = default
          ∧ (∀ k, k ≠ q → w.queues.get k = s.queues.get k) ∧ (∀ x, w.fw.serving ≠ some (q, x))
          ∧ ((∀ x ∈ s.queues, x.1 ≠ q → x.2.ctx ≠ v.ctx) → w.ctx v.ctx = default ∧ ∀ c, (w.core c).ctx ≠ some v.ctx)
          ∧ w = { u with queues := w.queues, ctxs := w.ctxs, fw := w.fw, cores := w.cores })
      ∧ (v.taken ≠ [] →
        ∃ t, exec (.remove h q) s = .next t
          ∧ t.queues.get q = { v with draining := some (h.fn, if h.version = 2 then h.tag else 0), parked := none }
          ∧ (t.box h.fn).owed = [(q + 1, entryOf h 2 0 0)] ∧ t.host = s.host ∧ t.msix = s.msix ∧ t.ctxs = s.ctxs))
    ∧ ∀ (fn tag : Nat) (e : List Byte), v.draining = some (fn, tag) → v.taken = [] → v.umx = none →
      (s.box fn).owed = [(q + 1, e)] → (s.box fn).room → s.fw.linkUp = true →
      ∃ t, exec (.removeDrainEnd q) s = .next t ∧ t.queues.get q = default
        ∧ (∀ k, k ≠ q → t.queues.get k = s.queues.get k)
        ∧ (t.box fn).owed = [] ∧ (t.box fn).cqtail = ((s.box fn).cqtail + 1) % 2 ^ 32
        ∧ t.host.read (s.box fn).nextEntry e.length = e

/-- R57, R112, R348, R389, R427, R428: a replay that succeeds frees the entries it names and lets go on everything parked
under them, or marks it replayed where its cluster is being saved; one that fails leaves nothing parked; while an entry's
page-fault record is held, what is parked under it stays so; one that names a killed context is STALE and counted, one that
finds no entry NOMATCH. -/
def Obligations.Replays : Prop :=
  ∀ (s : State) (h : MsgHead) (result : Nat),
    let u := s.afterTaking h.fn
    let stale := { u with fw := { u.fw with stalecnt := (u.fw.stalecnt + 1) % 2 ^ 32 } }
    (∀ token : Nat, s.sends (.replayByToken h token result) h →
      let i : Instr := .replayByToken h token result
      let sect := token / 2 ^ 8 % 128
      let w := (s.sect sect).waits.get (token % 256)
      let hit := w.used = true ∧ tokenOf sect (token % 256) w = token
      (1 < result → exec i s = .next (u.answerMsg h 3 2 0))
      ∧ (result ≤ 1 → h.asid ∈ s.fw.killedAsids → exec i s = .next (stale.answerMsg h 3 5 0))
      ∧ (result ≤ 1 → h.asid ∉ s.fw.killedAsids → ¬ hit → exec i s = .next (u.answerMsg h 3 4 0))
      ∧ (h.asid ∉ s.fw.killedAsids → hit → w.held = false →
        (result = 0 → ∃ v : State, exec i s = .next (v.answerMsg h 3 0 0) ∧ ((v.sect sect).waits.get (token % 256)).used = false
          ∧ (∀ w ∈ s.allWaves, ∃ x ∈ v.allWaves, x.id = w.id ∧ x.rf = w.rf ∧ x.quads = w.quads ∧ x.exited = w.exited
            ∧ x.parts.map Part.fed =
                w.parts.map fun p => (if s.frozen w.id = true then p.marked token else p.afterReplay token).fed)
          ∧ (s.saving = [] → v.NoneParked token) ∧ s.SameMemory v)
        ∧ (result = 1 → ∃ v : State, exec i s = .next (v.answerMsg h 3 0 0) ∧ (s.saving = [] → v.NoneParked token)))
      ∧ (result ≤ 1 → h.asid ∉ s.fw.killedAsids → hit → w.held = true →
        ∃ v : State, exec i s = .next (v.answerMsg h 3 0 0) ∧ ((v.sect sect).waits.get (token % 256)).used = false
          ∧ (∀ w ∈ s.allWaves, ∃ x ∈ v.allWaves, x.id = w.id ∧ x.parts.map Part.fed = w.parts.map Part.fed) ∧ s.SameMemory v))
    ∧ (s.sends (.replayByPage h result) h →
      let i : Instr := .replayByPage h result
      let hit := fun (n e : Nat) => let w := (s.sect n).waits.get e
        w.used = true ∧ w.asid = h.asid ∧ h.addr / pageSize w.level = w.page / pageSize w.level
      (1 < result → exec i s = .next (u.answerMsg h 3 2 0))
      ∧ (result ≤ 1 → h.asid ∈ s.fw.killedAsids → exec i s = .next (stale.answerMsg h 3 5 0))
      ∧ (result = 0 → h.asid ∉ s.fw.killedAsids → (∃ n e, hit n e) →
        ∃ v : State, exec i s = .next (v.answerMsg h 3 0 0) ∧ s.SameMemory v
          ∧ ∀ n e, hit n e → ((v.sect n).waits.get e).used = false
            ∧ (s.saving = [] → ((s.sect n).waits.get e).held = false → v.NoneParked (tokenOf n e ((s.sect n).waits.get e)))))

/-- R360, R369 to R371, R455: the messages of attestation, hand-over and configuration: REPORT writes its
measurements, EXTEND extends one, STAGE verifies, COMMIT passes the state on and completes when the staged firmware is
ready or has timed out; VFASID, VFMSIX and POWER set what they name within its limits. Digests, signatures and
verification are opaque functions (DESIGN CHOICE, log entry 10); BADMSG for an index of EXTEND outside 4 to 7 and for a
range of ASIDs beyond 2^16 is the model's reading (DEDUCED, log entry 48). -/
def Obligations.FirmwareMessages : Prop :=
  ∀ (s : State) (h : MsgHead),
    let u := s.afterTaking h.fn
    (∀ (nonce : List Byte) (bus : Nat), s.sends (.report h nonce bus) h → nonce.length = 32 →
      (∀ i < 8, (s.fw.m i).length = 64) →
      ∃ bytes : List Byte, exec (.report h nonce bus) s = .next ((u.hostWrite bus bytes).answerMsg h 6 0 0) ∧ bytes.length = 5376
        ∧ fieldAt bytes 0 4 = 0x52455031 ∧ fieldAt bytes 4 4 = 1 ∧ fieldAt bytes 8 8 = (if s.fw.staged.isSome then 1 else 0)
        ∧ (bytes.drop 16).take 32 = nonce ∧ (∀ i < 8, (bytes.drop (48 + 64 * i)).take 64 = s.fw.m i)
        ∧ fieldAt bytes 624 8 = s.clock % 2 ^ 64)
    ∧ (∀ (i : Nat) (value : List Byte), s.sends (.extend h i value) h →
      (i < 4 ∨ 7 < i → exec (.extend h i value) s = .next (u.answerMsg h 6 2 0))
      ∧ (4 ≤ i → i ≤ 7 → exec (.extend h i value) s = .next ({ u with
          fw := { u.fw with measures := u.fw.measures.set i (digest (s.fw.m i ++ value)) } }.answerMsg h 6 0 0)))
    ∧ (∀ (bus size : Nat) (image : List Byte), s.sends (.stage h bus size image) h →
      exec (.stage h bus size image) s = .next (if Config.verifies image = true
        then { u with fw := { u.fw with staged := some image } }.answerMsg h 7 0 0 else u.answerMsg h 7 7 0))
    ∧ (s.sends (.commit h) h → s.translating = false →
      (s.fw.staged = none → exec (.commit h) s = .next (u.answerMsg h 7 7 0))
      ∧ (s.fw.staged ≠ none → exec (.commit h) s = .next { u with
          fw := { u.fw with committing := some (h.fn, h.tag, h.version, s.time) } }))
    ∧ (∀ (fn tag version at' : Nat), s.fw.committing = some (fn, tag, version, at') →
      let head : MsgHead := ⟨fn, version, tag, 0, 1, 0, 0⟩
      (∀ image, s.fw.staged = some image → ∃ w : State, exec .stagedFirmwareReady s = .next (w.answerMsg head 7 0 0)
        ∧ w.fw.m 3 = digest (s.fw.m 3 ++ s.fw.m 0) ∧ w.fw.measures.get 0 = digest image
        ∧ (∀ k, k ≠ 0 → k ≠ 3 → w.fw.m k = s.fw.m k) ∧ w.fw.staged = none ∧ w.fw.committing = none
        ∧ w = { s with fw := w.fw })
      ∧ (at' + micros 10000 ≤ s.time → exec .handoverTimeout s =
          .next ({ s with fw := { s.fw with staged := none, committing := none } }.answerMsg head 7 7 0)))
    ∧ (∀ vf base count : Nat, s.sends (.vfasid h vf base count) h →
      let own := u.box vf
      let bad := vf = 0 ∨ 32 < vf ∨ 2 ^ 16 < base + count
      (bad → exec (.vfasid h vf base count) s = .next (u.answerMsg h 8 2 0))
      ∧ (¬ bad → (∀ b ∈ u.mailbox, b.1 ≠ vf → b.1 ≠ 0 → rangesMeet base count b.2.asidBase b.2.asidCount = false) →
        (∀ x ∈ u.queues, x.2.installed = true → ¬ (own.asidBase ≤ (u.ctx x.2.ctx).asid
          ∧ (u.ctx x.2.ctx).asid < own.asidBase + own.asidCount)) →
        exec (.vfasid h vf base count) s =
          .next ((u.onBox vf fun b => { b with asidBase := base, asidCount := count }).answerMsg h 8 0 0))
      ∧ (¬ bad → (∃ b ∈ u.mailbox, b.1 ≠ vf ∧ b.1 ≠ 0 ∧ rangesMeet base count b.2.asidBase b.2.asidCount = true) →
        exec (.vfasid h vf base count) s = .next (u.answerMsg h 8 8 0)))
    ∧ (∀ fn first count : Nat, s.sends (.vfmsix h fn first count) h →
      let bad := 32 < fn ∨ 2047 < first ∨ 2048 < first + count
      (bad → exec (.vfmsix h fn first count) s = .next (u.answerMsg h 8 2 0))
      ∧ (¬ bad → (u.box fn).vecCount = 0 →
        (∀ b ∈ u.mailbox, b.1 ≠ fn → rangesMeet first count b.2.vecFirst b.2.vecCount = false) →
        exec (.vfmsix h fn first count) s =
          .next ((u.onBox fn fun b => { b with vecFirst := first, vecCount := count }).answerMsg h 8 0 0))
      ∧ (¬ bad → (∃ b ∈ u.mailbox, b.1 ≠ fn ∧ rangesMeet first count b.2.vecFirst b.2.vecCount = true) →
        exec (.vfmsix h fn first count) s = .next (u.answerMsg h 8 8 0)))
    ∧ ∀ watts : Nat, s.sends (.power h watts) h →
      (watts < 4000 ∨ 10000 < watts → exec (.power h watts) s = .next (u.answerMsg h 8 2 0))
      ∧ (4000 ≤ watts → watts ≤ 10000 → exec (.power h watts) s =
          .next ({ u with fw := { u.fw with limit := watts } }.answerMsg h 8 0 0))

/-! ### Debug, errors, boot, links -/

/-- R62, R414: a command of the debug command block acts on the stopped wave it names: RESUME lets its parts go on,
STEP issues one chain of each, KILL cancels its grid, READREGS and WRITEREGS move its quad records; a wave that runs
is status 2, one not found status 3. Corners of the debug commands that the manual leaves open are the model's reading
(DEDUCED, log entry 50). -/
def Obligations.DebugCommands : Prop :=
  ∀ (s : State) (ctx wave dump : Nat),
    (s.asked 1 ctx wave dump → ∃ t, exec (.debugResume ctx wave dump) s = .next t ∧ t.debugDone 0 ∧ t.wave.stop = none
      ∧ t.wave.rf = s.wave.rf ∧ t.wave.parts = s.wave.parts.map Part.resume ∧ s.SameMemory t)
    ∧ (s.asked 2 ctx wave dump → ∃ t st es, exec (.debugStep ctx wave dump) s = .next t ∧ t.wave.stop = some st
      ∧ st.stepping = some es ∧ (∀ e ∈ es, ∃ p ∈ s.wave.parts, p.entry = e ∧ p.fws = .run) ∧ t.wave.rf = s.wave.rf
      ∧ s.SameMemory t ∧ t.debugBlk = s.debugBlk)
    ∧ (s.asked 3 ctx wave dump → ∀ g, s.gridOf s.wg.grid = g → g.id = s.wg.grid → g.id ≠ 0 → g.done = false →
      ∃ t, exec (.debugKill ctx wave dump) s = .next t ∧ t.debugDone 0 ∧ (∀ w ∈ t.allWgs, w.grid ≠ g.id)
        ∧ (t.gridOf g.id).mode = max g.mode 2 ∧ (t.gridOf g.id).dealing = false ∧ (t.gridOf g.id).err = lowErr g.err 1)
    ∧ (∀ addr : Nat, s.debugAddr = addr →
      let n := s.wave.quadCount
      (s.asked 4 ctx wave dump →
        let bytes := (List.range n).flatMap (quadRecord s.wave)
        (s.debugRange ctx addr bytes.length needWrite = true →
          ∃ t, exec (.readregs ctx wave dump addr) s = .next t ∧ t.debugDone 0 ∧ t = (s.fwWrite ctx addr bytes).debugStatus 0
            ∧ ∀ q i r, i < 4 → r < 96 → fieldAt (quadRecord s.wave q) (384 * i + 4 * r) 4 = (s.wave.rf.read (4 * q + i) r).toNat)
        ∧ (s.debugRange ctx addr bytes.length needWrite = false →
          exec (.readregs ctx wave dump addr) s = .next (s.debugStatus 2)))
      ∧ (s.asked 5 ctx wave dump →
        (s.debugRange ctx addr (1728 * n) needRead = true →
          let bytes := s.fwRead ctx addr (1728 * n)
          ∃ t, exec (.writeregs ctx wave dump addr) s = .next t ∧ t.debugDone 0
            ∧ (s.ctxTouchRange ctx addr (1728 * n) false).SameMemory t
            ∧ t.wave.parts = s.wave.parts ∧ t.wave.stop = s.wave.stop
            ∧ (∀ q < n, ∀ i < 4, ∀ r < 96, t.wave.rf.v (4 * q + i) r = nat32 (fieldAt bytes (1728 * q + 384 * i + 4 * r) 4))
            ∧ ∀ q < n, ∀ r < 32, t.wave.rf.k q r = nat32 (fieldAt bytes (1728 * q + 1536 + 4 * r) 4))
        ∧ (s.debugRange ctx addr (1728 * n) needRead = false →
          exec (.writeregs ctx wave dump addr) s = .next (s.debugStatus 2))))
    ∧ ∀ (op addr : Nat) (i : Instr),
      (op, i) ∈ [(1, .debugResume ctx wave dump), (2, .debugStep ctx wave dump), (3, .debugKill ctx wave dump),
        (4, .readregs ctx wave dump addr), (5, .writeregs ctx wave dump addr)] →
      s.debugAsks op ctx wave dump = true → s.debugAddr = addr →
      (s.target ctx wave dump = .running → exec i s = .next (s.debugStatus 2))
        ∧ (s.target ctx wave dump = .missing → exec i s = .next (s.debugStatus 3))

/-- R387, R391, R394, R423, R425, R452: a detected error is corrected and logged, or poisons a cell or a sector, drops
a line or an entry or has a slot read its storage again, or kills its context, or resets the module, by its unit; the
standby scheduler core takes over once. Units and fields that the manual leaves open are the model's reading (DEDUCED,
log entries 23, 32 and 54). -/
def Obligations.DetectedErrors : Prop :=
  ∀ s : State,
    (∀ m : McInfo, m.sev ≠ 1 → s.mclog.used < 255 → s.mcheck m = { s with
      mclog := { s.mclog with
        entries := s.mclog.entries.set (s.mclog.wridx % 255) (mcBytes m 1 s.clock ++ trailer s.mclog.wridx m.dev 4)
        wridx := (s.mclog.wridx + 1) % 2 ^ 32 }
      msix := s.mclog.mcvec :: s.msix })
    ∧ (∀ e : EccReport,
      let done := fun t => exec (.eccError e) s = .next t
      let log := fun sev event => s.mcheck (s.eccInfo e sev event)
      (e.beyond = false → (e.unit ∈ [0, 1, 4, 5, 7, 8]) → done (log 1 0))
      ∧ (e.unit = 1 → e.beyond = true → e.target < 65536 →
        ∃ t, done t ∧ e.target ∈ (t.core (coreOfLoc e.loc)).accBad ∧ t = { log 2 0 with cores := t.cores })
      ∧ (e.unit = 2 → let x := (s.core (coreOfLoc e.loc)).slots.get e.target
        x.valid = true → x.fromScratch = false →
        ∃ t, done t ∧ (t.core (coreOfLoc e.loc)).slots.get e.target = { x with image := [], refill := true }
          ∧ t = { log 1 0 with cores := t.cores })
      ∧ (e.unit = 3 → ∃ t, done t ∧ (∀ l ∈ (t.core (coreOfLoc e.loc)).l1, l.pa ≠ e.addr / 128)
        ∧ t = { log 1 0 with cores := t.cores })
      ∧ (e.unit = 5 → e.beyond = true → ∃ t, done t ∧ t.poisoned e.addr 1 = true ∧ t = { log 2 1 with poison := t.poison })
      ∧ (e.unit = 6 → ∃ t, done t
        ∧ (t.sect (sectOfLoc e.loc)).tlb = (s.sect (sectOfLoc e.loc)).tlb.eraseIdx e.target ∧ t = { log 1 0 with sects := t.sects })
      ∧ (e.unit = 8 → e.beyond = true → ∃ t, done t ∧ t.Restarted ∧ t.mclog = (log 4 0).mclog)
      ∧ (∀ c, (e.unit = 0 ∨ e.unit = 7) → e.beyond = true → s.errorCtx e = c → (s.ctx c).installed = true →
        (s.ctx c).killed = false → ∃ t, done t ∧ (t.ctx c).killed = true ∧ ∀ g ∈ t.allWgs, g.ctx ≠ c)
      ∧ (∀ c, e.unit = 4 → e.beyond = true → (s.core (coreOfLoc e.loc)).ctx = some c → (s.ctx c).installed = true →
        (s.ctx c).killed = false → ∃ t, done t ∧ (t.ctx c).killed = true ∧ ∀ g ∈ t.allWgs, g.ctx ≠ c))
    ∧ (s.fw.takenOver = false → ∃ t, exec .schedulerTakeover s = .next t ∧ t.fw.takenOver = true ∧ t.fw.serving = s.fw.serving
      ∧ t.allWaves = s.allWaves ∧ t.grids = s.grids ∧ t.queues = s.queues)
    ∧ (s.fw.takenOver = true → ∃ t, exec .schedulerTakeover s = .next t ∧ t.Restarted)

/-- R71, R368, R372, R394, R457: a cold reset clears the boot-step records and the machine-check log, a warm one keeps
them; each boot step passes, the link's with a speed and width it may have and the firmware's with its signature, or fails
and is tried once more, the optional one is then skipped and another stops boot; the dies change their point together, to
a lower one or, 1 ms after the last such cause, to a higher one, and the move is counted by its cause. Boot's corners and DVFS cause 3 are the
model's reading (DEDUCED, log entries 22, 52 and 53). -/
def Obligations.ResetsAndBoot : Prop :=
  ∀ s : State,
    (∃ t, exec .coldReset s = .next t ∧ t.Restarted ∧ t.fw.boot = [] ∧ t.mclog = default ∧ t.host = s.host)
    ∧ (∃ t, exec .warmReset s = .next t ∧ t.Restarted ∧ t.fw.boot = s.fw.boot ∧ t.mclog = s.mclog ∧ t.host = s.host)
    ∧ (∀ r : BootOutcome, s.fw.stuck = false → 1 ≤ s.fw.step → s.fw.step ≤ 10 →
      let n := s.fw.step
      (bootPasses n r = true → ∃ t, exec (.bootStep r) s = .next t ∧ t.fw.step = n + 1 ∧ t.fw.tries = 0
        ∧ ((t.fw.boot.get n).status = 1 ∨ (n = 4 ∧ (t.fw.boot.get n).status = 4))
        ∧ t.clock0 = (if n = 10 then some s.cycle else s.clock0) ∧ (n = 6 → t.fw.ports = r.ports)
        ∧ (n = 7 → t.fw.linkUp = true ∧ t.fw.linkSpeed = r.linkSpeed ∧ t.fw.linkWidth = r.linkWidth)
        ∧ (n ≠ 8 → t.fw.measures = s.fw.measures)
        ∧ (n = 8 → ∀ i < 3, t.fw.m i = digest (s.fw.m i ++ digest (r.images.getD i []))))
      ∧ (bootPasses n r = false → s.fw.tries = 0 → ∃ t, exec (.bootStep r) s = .next t ∧ t.fw.step = n ∧ t.fw.tries = 1
        ∧ (t.fw.boot.get n).status = 2 ∧ t.fw.stuck = false ∧ s.OnlyFirmware t)
      ∧ (bootPasses n r = false → s.fw.tries ≠ 0 → n = 6 → ∃ t, exec (.bootStep r) s = .next t ∧ t.fw.step = 7 ∧ t.fw.tries = 0
        ∧ (t.fw.boot.get n).status = 3 ∧ t.fw.ports = 0 ∧ t.fw.podSize = 1 ∧ s.OnlyFirmware t)
      ∧ (bootPasses n r = false → s.fw.tries ≠ 0 → n ≠ 6 → ∃ t, exec (.bootStep r) s = .next t ∧ t.fw.step = n ∧ t.fw.stuck = true
        ∧ (t.fw.boot.get n).status = 2 ∧ s.OnlyFirmware t))
    ∧ (∀ r : BootOutcome, ∀ n, bootPasses n r = true ↔ r.passed = true ∧ (n = 6 → r.ports ≠ 0)
      ∧ (n = 7 → r.linkSpeed = 7 ∧ r.linkWidth = 16 ∨ r.linkSpeed ∈ [5, 6] ∧ r.linkWidth ∈ [4, 8, 16])
      ∧ (n = 8 → Config.verifies (r.images.getD 0 []) = true))
    ∧ ∀ point cause : BitVec 2,
      (if cause = 3 then point.toNat < s.fw.dvfs.toNat ∧ s.fw.throttledAt + micros 1000 ≤ s.time
        else s.fw.dvfs.toNat < point.toNat) →
      ∃ t, exec (.dvfsChange point cause) s = .next t ∧ t.fw.dvfs = point
      ∧ t.fw.throttles.get cause.toNat = s.fw.throttles.get cause.toNat + 1
      ∧ (∀ k, k ≠ cause.toNat → t.fw.throttles.get k = s.fw.throttles.get k) ∧ s.OnlyFirmware t

/-- R356, R458: a flit error is counted, and a port beyond its rate narrows to two lanes and is then disabled; while
the PCI Express link is down, writes to host memory are held, and performed in order when it trains or discarded and
counted after 1 s. What happens after 1 s of a link that is down is the model's reading (DEDUCED, log entry 49). -/
def Obligations.Links : Prop :=
  ∀ s : State,
    (∀ (port : BitVec 5) (retrain : Bool), s.fw.ports.getLsbD port.toNat = true →
      ∃ t, exec (.rilrakFlitError port retrain) s = .next t ∧ t.fw.retrans = s.fw.retrans + 1 ∧ s.OnlyFirmware t
        ∧ (retrain = false → t.fw.ports = s.fw.ports ∧ t.fw.narrow = s.fw.narrow)
        ∧ (retrain = true → s.fw.narrow.getLsbD port.toNat = false →
          t.fw.ports = s.fw.ports ∧ t.fw.narrow.getLsbD port.toNat = true)
        ∧ (retrain = true → s.fw.narrow.getLsbD port.toNat = true →
          t.fw.ports.getLsbD port.toNat = false ∧ t.fw.narrow.getLsbD port.toNat = false)
        ∧ ∀ k < 32, k ≠ port.toNat → t.fw.ports.getLsbD k = s.fw.ports.getLsbD k ∧ t.fw.narrow.getLsbD k = s.fw.narrow.getLsbD k)
    ∧ (s.fw.linkUp = true → ∃ t, exec .pcieLinkDown s = .next t ∧ t.fw.linkUp = false ∧ t.fw.downSince = s.time ∧ s.OnlyFirmware t
      ∧ ∀ bus bs, (t.hostWrite bus bs).host = s.host
        ∧ (t.hostWrite bus bs).fw.heldHost = s.fw.heldHost ++ [(bus, bs)])
    ∧ (∀ speed width : Nat, linkGood speed width = true → 7 < s.fw.step →
      ∃ t, exec (.pcieLinkTrained speed width) s = .next t ∧ t.fw.linkUp = true ∧ t.fw.linkSpeed = speed
      ∧ t.fw.linkWidth = width ∧ t.fw.heldHost = [] ∧ t.fw.downLong = false ∧ t.host = s.fw.heldHost.foldl (fun h w => Cells.write h w.1 w.2) s.host
      ∧ t = { s with host := t.host, fw := t.fw })
    ∧ (s.fw.linkUp = false → s.fw.downLong = false → s.booted = true → s.fw.downSince + micros 1000000 ≤ s.time →
      ∃ t, exec .pcieRetrainTimeout s = .next t ∧ t.fw.heldHost = [] ∧ t.fw.downLong = true
        ∧ t.fw.lostHost = s.fw.lostHost + s.fw.heldHost.length ∧ s.OnlyFirmware t)
    ∧ ∃ t, exec .pcieCorrectableError s = .next t ∧ t.fw.linkErrors = s.fw.linkErrors + 1 ∧ s.OnlyFirmware t

/-! ### Where accesses and fields trap -/

/-- R89, R224, R399, R403, R410, R418, Tables 25.1 and 26.1: a load of one lane stops its wave with NONCANON,
MISALIGN, INVALIDVA or PROT in that order, the lane in EXTRA and the address in VA; a scratchpad load with RANGE
before MISALIGN; a field with a reserved value with BADVAL, an odd pair base with BADREG, a width that the wave cannot
give with BADMINW. -/
def Obligations.AccessAndFieldTraps : Prop :=
  ∀ (s : State) (l : Nat), s.InFocus → s.wave.stop = none → s.iss.trapped = false → s.iss.parked = false → (s.ctx s.wg.ctx).debug = true →
    s.act = [l] →
    let stops := fun i code extra va => ∃ t, exec i s = .next t ∧ s.StoppedAt t code 8 extra va
    (∀ (d a : Reg) (size : BitVec 3) (off : BitVec 8), sizeFits size d → a.toNat % 2 = 0 →
      let i : Instr := .ld d a size off
      let n := sizeBytes size
      let va := (s.u2 a l + off.toNat * n) % 2 ^ 64
      (canonical va = false → stops i 0x20 (2 ^ l) va)
      ∧ (canonical va = true → va % n ≠ 0 → stops i 0x21 (2 ^ l) va)
      ∧ (canonical va = true → va % n = 0 → lineOf (s.core s.wg.core) (s.ctx s.wg.ctx).asid va = none →
        (s.look (sectOf s.wg.core) s.wg.ctx va false = .invalid → stops i 0x23 (2 ^ l) va)
        ∧ ∀ pte a' level, s.look (sectOf s.wg.core) s.wg.ctx va false = .leaf pte a' level → pteR pte = false →
          stops i 0x24 (2 ^ l) va))
    ∧ (∀ (d a : Reg) (size : BitVec 3) (off : BitVec 8), sizeFits size d →
      let n := sizeBytes size
      let o := (s.u a l + off.toNat * n) % 2 ^ 32
      (4096 * s.wg.launch.scratch < o + n → stops (.lds d a size off) 0x22 (2 ^ l) o)
      ∧ (o + n ≤ 4096 * s.wg.launch.scratch → o % n ≠ 0 → stops (.lds d a size off) 0x21 (2 ^ l) o))
    ∧ (∀ (g : Guard) (d a b c : Reg), stops (.imad g 3 d a b c) 0x03 (32 + 3 * 2 ^ 16) 0)
    ∧ (∀ (g : Guard) (d a b : Reg), d.toNat % 2 = 1 → a.toNat % 2 = 0 → b.toNat % 2 = 0 →
      stops (.iadd64 g d a b) 0x04 (d.toNat + 25 * 2 ^ 8) 0)
    ∧ ∀ w : BitVec 3, 5 ≤ w.toNat → stops (.regang w) 0x12 (w.toNat + Nat.log2 (s.wave.width / 4) * 2 ^ 4) 0

/-! ### Reset, steps, encodings, memory -/

/-- R71, R90, R362, R368: after a reset no wave, workgroup, context, queue or grid exists, boot step 1 is next, the
cycle count has not begun, memory lists nothing and has its canonical form. That memory reads as 0 is log entry 4's
choice, and the first measurements and register values are log entry 6's (DESIGN CHOICE). -/
def Obligations.ResetState : Prop :=
  State.reset.Restarted ∧ State.reset.mem = [] ∧ Memory.wf State.reset.mem = true ∧ State.reset.poison = []
    ∧ State.reset.fw.boot = [] ∧ State.reset.fw.podNumber = 0 ∧ State.reset.fw.podSize = 1 ∧ State.reset.fw.dvfs = 0
    ∧ (∀ a, State.reset.byteAt a = 0) ∧ State.reset.clock = 0 ∧ (∀ n, (State.reset.ctx n).debug = false)
    ∧ (∀ i, State.reset.fw.m i = List.replicate 64 0)

/-- R136, R138, R140, R143, R339: where one part is picked in a cycle and its chain is one instruction that no reissue, poison or
status word concerns, the cycle is that instruction's meaning on the part moved past it, between the cycle's opening and its
events; an instruction that meets others at a barrier or ring acts after the events (R33, R38). The next event of the agenda
happens after the chains have issued. A chain of several that meets no others issues whole in its cycle: of two instructions that
neither hold their part nor wait, the second acts on what the first leaves, a branch after the other, and both read the registers
as they stood before the chain. The chain is decoded from the packet at the part's program counter. A step of one
cycle, with one event of the agenda and one of the device, and their order, and a fetch that reads memory every time, are
the model's choice (DESIGN CHOICE, log entries 2, 3 and 16; R137 lets the device run older code), and a branch after the other
instructions of its chain its reading (DEDUCED, log entry 36). -/
def Obligations.StepRunsDecoded : Prop :=
  (∀ (s t : State) (e : Option Instr) (ms : List Meeting) (i : Instr) (rest : List Instr), s.hangsDue = [] →
    s.agenda = i :: rest → i.isEvent = true → engineOf i = none → exec i { s with agenda := rest } = .next t →
    s.closeCycle e ms = onward (onward (t.takeTurn e) fun v => onward v.startWork State.stepOne)
      fun x => onward (x.meetAll ms) State.endCycle)
  ∧ (∀ s u : State, s.openCycle = .next u → u.allPicks = [] → step s = u.noteLosers.closeCycle u.turn [])
  ∧ (∀ (s u : State) (p : Pick) (d : Decoded), s.openCycle = .next u → u.allPicks = [p] →
    let runs := fun (t : State) (v : State) =>
      t.fetchPart = .chain [(t.part.pc, d)] ∧ d.ch = false ∧ t.part.redo = none ∧ t.part.serial = none
      ∧ (t.atInstr d).statusScope (guardOf d.instr) d.instr = 0 ∧ (t.atInstr d).poisonTrap (guardOf d.instr) d.instr = none
      ∧ exec d.instr (t.atInstr d) = .next v
    (∀ v, u.noteLosers.stillReady p = true → runs (u.noteLosers.at' p) v →
      (meetsOthers d.instr = false ∨ v.iss.trapped = true) →
      step s = ((v.flagReserved ((u.noteLosers.at' p).atInstr d) d.rsv).issuedFrom (u.noteLosers.at' p)).closeCycle u.turn [])
    ∧ (∀ v w z, runs (u.noteLosers.at' p) v → meetsOthers d.instr = true → v.iss.trapped = false →
      u.noteLosers.midCycle u.turn = .next w → w.stillReady p = true → runs (w.at' p) z →
      step s = ((z.flagReserved ((w.at' p).atInstr d) d.rsv).issuedFrom (w.at' p)).serveAll.endCycle))
  ∧ (∀ (s u v : State) (p : Pick) (l : List Item), s.openCycle = .next u → u.allPicks = [p] →
    let t := u.noteLosers.at' p
    u.noteLosers.stillReady p = true → t.fetchPart = .chain l → (∀ x ∈ l, meetsOthers x.2.instr = false) →
    (t.fetchTouch t.wg.core t.wg.ctx t.part.pc.toNat).issueSlate (slateOf t.part l) = .next v →
    step s = (v.issuedFrom t).closeCycle u.turn [])
  ∧ (∀ (s u v : State) (x y : Item) (c : Slate), (c.list = [x, y] ∨ c.list = [y, x] ∧ movesPart y.2.instr = true) →
    movesPart x.2.instr = false → (∀ z ∈ [x, y], holdsPart z.2.instr = false ∧ meetsOthers z.2.instr = false) →
    s.chainWidth c.list = none → (s.begin' c true).Acts x u → u.Acts y v → v.iss.parks = [] →
    s.issueSlate c = .next { v with iss := { v.iss with later := false } })
  ∧ (∀ (s u v : State) (x y : Item) (c : Slate) (d e : Reg) (f g : Nat → Word), shortInt s x.2.instr = some (d, f) →
    shortInt s y.2.instr = some (e, g) → (s.begin' c true).Acts x u → u.Acts y v → ∀ lane r, r < 128 →
    v.wave.rf.read lane r = (oneWord s.act e g lane r).getD ((oneWord s.act d f lane r).getD (s.wave.rf.read lane r)))
  ∧ ∀ (t : State) (pa : Nat), t.CodeAt pa →
    let w := fun k => nat32 (leValue (t.readPhys (pa + t.part.pc.toNat % 30 / 3 * 12 + 4 * k) 4))
    let i := t.part.pc.toNat
    (i % 3 = 0 → isHead (w 0) = true → (decodeAt (w 0) (some (w 1))).ch = false →
      t.fetchPart = .chain [(t.part.pc, decodeAt (w 0) (some (w 1)))])
    ∧ (i % 3 = 0 → isHead (w 0) = false → (w 0).getLsbD 31 = false →
      t.fetchPart = .chain [(t.part.pc, decodeAt (w 0) (some (w 1)))])
    ∧ (i % 3 = 1 → isHead (w 0) = false → (w 1).getLsbD 31 = false →
      t.fetchPart = .chain [(t.part.pc, decodeAt (w 1) (some (w 2)))])
    ∧ (i % 3 = 2 → (isHead (w 0) = true ∨ isHead (w 1) = false) → t.fetchPart = .chain [(t.part.pc, decodeAt (w 2) none)])

/-- R144 to R151: words written out from the encoding tables decode to their instructions. -/
def Obligations.WordsDecode : Prop :=
  ∀ x ∈ ([
    (32, 0b0_000001_0000011_0000001_0000010_0000, .iadd 3 1 2),
    (32, 0b0_000111_0000100_0000101_01_0000_00111, .shri 4 5 7),
    (32, 0b0_001001_010_01_0000001_1100000_0011_01, .isetp 2 1 1 96 3 1),
    (32, 0b0_010000_0000100_0000110_010_00001001, .ld 4 6 2 9),
    (32, 0b0_011000_0011_1111111111110_00000111, .brc ⟨1, true⟩ 0x1FFE 7),
    (32, 0b0_011000_1110_0000000001010_00000000, .bra 10 0),
    (32, 0b0_011010_00010_0011_00000000_00000111, .fuse 3 7),
    (64, 0x02081840 * 2 ^ 32 + 0b0_111111_00000100_1110_0000011001010, .lop3 .always 0xCA 1 2 3 4)]
    : List (Nat × Nat × Instr)), decodeTableWord x.1 x.2.1 = some x.2.2

/-- R144 to R151, R163, R402, R404, R406: for every instruction that the sequencer fetches and whose reserved fields
are zero, decoding its words gives it back with no reserved field set, with either value of CH; a reserved OP or a
reserved XOP decodes to ILLOP with its number. -/
def Obligations.DecodingInvertsEncoding : Prop :=
  (∀ i : Instr, i.wf = true → i.isEvent = false → (∀ r, i ≠ .illop r) → i ≠ .pktstraddle →
    (∃ w, encode i = [w] ∧ isHead w = false ∧ ∀ t, (decodeAt w t).instr = i ∧ (decodeAt w t).rsv = false
        ∧ (decodeAt (w ||| 0x80000000) t).instr = i ∧ (decodeAt (w ||| 0x80000000) t).ch = true)
    ∨ ∃ h t, encode i = [h, t] ∧ isHead h = true ∧ (decodeAt h (some t)).instr = i ∧ (decodeAt h (some t)).rsv = false
        ∧ (decodeAt (h ||| 0x80000000) (some t)).instr = i ∧ (decodeAt (h ||| 0x80000000) (some t)).ch = true)
  ∧ (∀ (w : Word) (t : Option Word),
    let op := (bits 25 6 w).toNat
    (0x0D ≤ op ∧ op ≤ 0x0F) ∨ (0x15 ≤ op ∧ op ≤ 0x17) ∨ op = 0x19 ∨ (0x1B ≤ op ∧ op ≤ 0x3E) →
      (decodeAt w t).instr = .illop (.reserved (bits 25 6 w) 0))
  ∧ ∀ h t : Word, isHead h = true →
    let x := (bits 17 8 h).toNat
    (x = 0x0E ∨ x = 0x0F ∨ (0x16 ≤ x ∧ x ≤ 0x1F) ∨ (0x27 ≤ x ∧ x ≤ 0x2F) ∨ (0x3A ≤ x ∧ x ≤ 0x3F) ∨ (0x45 ≤ x ∧ x ≤ 0x4F)
      ∨ (0x57 ≤ x ∧ x ≤ 0x5F) ∨ (0x66 ≤ x ∧ x ≤ 0x6F) ∨ (0x72 ≤ x ∧ x ≤ 0x77) ∨ 0x82 ≤ x) →
      (decodeAt h (some t)).instr = .illop (.reserved 0x3F (bits 17 8 h))

/-- Memory keeps its canonical form (rising addresses, no entry equal to an unlisted byte): whatever state a step
starts from. The unlisted byte is log entry 4's choice (DESIGN CHOICE). -/
def Obligations.StepsKeepMemoryForm : Prop :=
  ∀ s t : State, Memory.wf s.mem = true → step s = .next t → Memory.wf t.mem = true

/-- No instruction and no event ends in a fault or a refusal, in any state, and neither does a step: a trap of the
manual is a next state (R62, R390). That nothing is refused is log entry 29. -/
def Obligations.EveryStepAnswers : Prop :=
  (∀ (i : Instr) (s : State), ∃ t, exec i s = .next t) ∧ ∀ s : State, ∃ t, step s = .next t
end

