-- ==== Sys2Proof/Laws/Cells.lean ====
section
/-!
SUPPORT. Laws/Cells.lean: what the operations over a table read and keep: read after write, everything else as it was, the
canonical form.
-/

namespace Sys2Proof.Machine

variable {α : Type}

/-! ### Reading after writing -/

@[simp] theorem Cells.get_nil [Inhabited α] (i : Nat) : Cells.get ([] : Cells α) i = default := rfl

theorem Cells.get_put [Inhabited α] (t : Cells α) (i j : Nat) (x : α) :
    (t.put i x).get j = if i = j then x else t.get j := by
  induction t with
  | nil => simp [Cells.put, Cells.get]
  | cons e t ih =>
    obtain ⟨k, v⟩ := e
    simp only [Cells.put]
    split
    · simp [Cells.get]
    · split
      · next h => subst h; by_cases hj : i = j <;> simp [Cells.get, hj]
      · next h => by_cases hk : k = j <;> by_cases hi : i = j <;> simp_all [Cells.get]

theorem Cells.get_del [Inhabited α] (t : Cells α) (i j : Nat) :
    (t.del i).get j = if i = j then default else t.get j := by
  induction t with
  | nil => simp [Cells.del, Cells.get]
  | cons e t ih =>
    obtain ⟨k, v⟩ := e
    simp only [Cells.del]
    split
    · next h => subst h; by_cases hj : k = j <;> simp_all [Cells.get]
    · by_cases hk : k = j <;> by_cases hi : i = j <;> simp_all [Cells.get]

/-- A table reads back what was written last, and everything else as before: in any table. -/
theorem Cells.get_set [Inhabited α] [DecidableEq α] (t : Cells α) (i j : Nat) (x : α) :
    (t.set i x).get j = if i = j then x else t.get j := by
  unfold Cells.set
  split
  · next h => simp [Cells.get_del, h]
  · exact Cells.get_put ..

@[simp] theorem Cells.get_set_self [Inhabited α] [DecidableEq α] (t : Cells α) (i : Nat) (x : α) : (t.set i x).get i = x := by
  simp [Cells.get_set]

@[simp] theorem Cells.get_set_ne [Inhabited α] [DecidableEq α] (t : Cells α) {i j : Nat} (x : α) (h : i ≠ j) :
    (t.set i x).get j = t.get j := by simp [Cells.get_set, h]

theorem Cells.get_upd [Inhabited α] [DecidableEq α] (t : Cells α) (i j : Nat) (f : α → α) :
    (t.upd i f).get j = if i = j then f (t.get i) else t.get j := Cells.get_set ..

@[simp] theorem Cells.get_upd_self [Inhabited α] [DecidableEq α] (t : Cells α) (i : Nat) (f : α → α) :
    (t.upd i f).get i = f (t.get i) := by simp [Cells.get_upd]

@[simp] theorem Cells.get_upd_ne [Inhabited α] [DecidableEq α] (t : Cells α) {i j : Nat} (f : α → α) (h : i ≠ j) :
    (t.upd i f).get j = t.get j := by simp [Cells.get_upd, h]

/-! ### Runs -/

@[simp] theorem Cells.read_length [Inhabited α] (t : Cells α) (i n : Nat) : (t.read i n).length = n := by
  induction n generalizing i with
  | zero => rfl
  | succ n ih => simp [Cells.read, ih]

theorem Cells.getElem_read [Inhabited α] (t : Cells α) (i n k : Nat) (h : k < (t.read i n).length) :
    (t.read i n)[k] = t.get (i + k) := by
  induction n generalizing i k with
  | zero => simp [Cells.read] at h
  | succ n ih =>
    cases k with
    | zero => simp [Cells.read]
    | succ k => simp only [Cells.read, List.getElem_cons_succ, ih]; rw [Nat.add_assoc, Nat.add_comm 1 k]

/-- A run of writes: what each key then holds. -/
theorem Cells.get_write [Inhabited α] [DecidableEq α] (xs : List α) (t : Cells α) (i j : Nat) :
    (t.write i xs).get j = if i ≤ j ∧ j < i + xs.length then xs.getD (j - i) default else t.get j := by
  induction xs generalizing t i with
  | nil => rw [if_neg (by simp only [List.length_nil]; omega)]; rfl
  | cons x xs ih =>
    simp only [Cells.write, ih, List.length_cons, Cells.get_set]
    by_cases h : j = i
    · subst h
      rw [if_neg (by omega), if_pos rfl, if_pos (by omega), Nat.sub_self, List.getD_cons_zero]
    · have h' : ¬ i = j := fun e => h e.symm
      by_cases hj : i < j
      · obtain ⟨k, rfl⟩ : ∃ k, j = i + 1 + k := ⟨j - (i + 1), by omega⟩
        have e : i + 1 + k - i = k + 1 := by omega
        rw [e, List.getD_cons_succ, Nat.add_sub_cancel_left]
        by_cases hk : k < xs.length
        · rw [if_pos (by omega), if_pos (by omega)]
        · rw [if_neg (by omega), if_neg h', if_neg (by omega)]
      · rw [if_neg (by omega), if_neg h', if_neg (by omega)]

/-- A key outside the run written holds what it held. -/
theorem Cells.get_write_outside [Inhabited α] [DecidableEq α] (t : Cells α) (i j : Nat) (xs : List α)
    (h : ¬ (i ≤ j ∧ j < i + xs.length)) : (t.write i xs).get j = t.get j := by rw [Cells.get_write, if_neg h]

/-- A run reads back as it was written. -/
theorem Cells.read_write [Inhabited α] [DecidableEq α] (t : Cells α) (i : Nat) (xs : List α) :
    (t.write i xs).read i xs.length = xs := by
  apply List.ext_getElem (by simp)
  intro k h h'
  rw [Cells.getElem_read, Cells.get_write, if_pos (by omega), Nat.add_sub_cancel_left]
  simp [h']

/-- A run that a write leaves alone reads as before. -/
theorem Cells.read_write_apart [Inhabited α] [DecidableEq α] (t : Cells α) (i j n : Nat) (xs : List α)
    (h : j + n ≤ i ∨ i + xs.length ≤ j) : (t.write i xs).read j n = t.read j n := by
  apply List.ext_getElem (by simp)
  intro k hk hk'
  simp only [Cells.read_length] at hk
  rw [Cells.getElem_read, Cells.getElem_read, Cells.get_write_outside]
  omega

@[simp] theorem Cells.write_nil [Inhabited α] [DecidableEq α] (t : Cells α) (i : Nat) : t.write i [] = t := rfl

/-! ### The canonical form -/

/-- Every key of a table lies above a bound. -/
def Cells.Above (b : Nat) (t : Cells α) : Prop := ∀ e ∈ t, b < e.1

theorem Cells.wf_cons [Inhabited α] [DecidableEq α] {k : Nat} {v : α} {t : Cells α} :
    Cells.wf ((k, v) :: t) = true ↔ v ≠ default ∧ Cells.Above k t ∧ t.wf = true := by
  induction t generalizing k v with
  | nil => simp [Cells.wf, Cells.Above]
  | cons e t ih =>
    obtain ⟨k', v'⟩ := e
    simp only [Cells.wf, Bool.and_eq_true, bne_iff_ne, decide_eq_true_eq]
    constructor
    · rintro ⟨⟨hv, hk⟩, hw⟩
      refine ⟨hv, fun e he => ?_, hw⟩
      rcases List.mem_cons.mp he with rfl | he
      · exact hk
      · exact Nat.lt_trans hk ((ih.mp hw).2.1 e he)
    · rintro ⟨hv, ha, hw⟩
      exact ⟨⟨hv, ha _ (List.mem_cons_self ..)⟩, hw⟩

theorem Cells.above_put {b i : Nat} {x : α} {t : Cells α} (hi : b < i) (h : t.Above b) : (t.put i x).Above b := by
  induction t with
  | nil => intro e he; simp [Cells.put] at he; simp [he, hi]
  | cons e t ih =>
    obtain ⟨k, v⟩ := e
    have hk : b < k := h (k, v) (List.mem_cons_self ..)
    have ht : Cells.Above b t := fun e he => h e (List.mem_cons_of_mem _ he)
    simp only [Cells.put]
    intro e he
    split at he
    · rcases List.mem_cons.mp he with rfl | he
      · exact hi
      · exact h e he
    · split at he
      · rcases List.mem_cons.mp he with rfl | he
        · exact hi
        · exact ht e he
      · rcases List.mem_cons.mp he with rfl | he
        · exact hk
        · exact ih ht e he

theorem Cells.above_mono {a b : Nat} {t : Cells α} (hab : a ≤ b) (h : t.Above b) : t.Above a :=
  fun e he => Nat.lt_of_le_of_lt hab (h e he)

theorem Cells.wf_put [Inhabited α] [DecidableEq α] {t : Cells α} {i : Nat} {x : α} (hx : x ≠ default) (h : t.wf = true) :
    (t.put i x).wf = true := by
  induction t with
  | nil => simp [Cells.put, Cells.wf, hx]
  | cons e t ih =>
    obtain ⟨k, v⟩ := e
    obtain ⟨hv, ha, hw⟩ := Cells.wf_cons.mp h
    simp only [Cells.put]
    split
    · next hik =>
      refine Cells.wf_cons.mpr ⟨hx, fun e he => ?_, h⟩
      rcases List.mem_cons.mp he with rfl | he
      · exact hik
      · exact Nat.lt_trans hik (ha e he)
    · split
      · next hik => subst hik; exact Cells.wf_cons.mpr ⟨hx, ha, hw⟩
      · exact Cells.wf_cons.mpr ⟨hv, Cells.above_put (by omega) ha, ih hw⟩

theorem Cells.mem_of_mem_del {t : Cells α} {i : Nat} {e : Nat × α} (h : e ∈ t.del i) : e ∈ t := by
  induction t with
  | nil => simp [Cells.del] at h
  | cons a t ih =>
    obtain ⟨k, v⟩ := a
    simp only [Cells.del] at h
    split at h
    · exact List.mem_cons_of_mem _ (ih h)
    · rcases List.mem_cons.mp h with rfl | h
      · exact List.mem_cons_self ..
      · exact List.mem_cons_of_mem _ (ih h)

theorem Cells.wf_del [Inhabited α] [DecidableEq α] {t : Cells α} {i : Nat} (h : t.wf = true) : (t.del i).wf = true := by
  induction t with
  | nil => rfl
  | cons e t ih =>
    obtain ⟨k, v⟩ := e
    obtain ⟨hv, ha, hw⟩ := Cells.wf_cons.mp h
    simp only [Cells.del]
    split
    · exact ih hw
    · exact Cells.wf_cons.mpr ⟨hv, fun e he => ha e (Cells.mem_of_mem_del he), ih hw⟩

/-- A write keeps the canonical form. -/
theorem Cells.wf_set [Inhabited α] [DecidableEq α] {t : Cells α} {i : Nat} {x : α} (h : t.wf = true) : (t.set i x).wf = true := by
  unfold Cells.set
  split
  · exact Cells.wf_del h
  · next hx => exact Cells.wf_put hx h

theorem Cells.wf_upd [Inhabited α] [DecidableEq α] {t : Cells α} {i : Nat} {f : α → α} (h : t.wf = true) :
    (t.upd i f).wf = true := Cells.wf_set h

/-- A run of writes keeps the canonical form. -/
theorem Cells.wf_write [Inhabited α] [DecidableEq α] (xs : List α) (t : Cells α) (i : Nat) (h : t.wf = true) :
    (t.write i xs).wf = true := by
  induction xs generalizing t i with
  | nil => exact h
  | cons x xs ih => exact ih _ _ (Cells.wf_set h)

theorem Cells.mapV_cons [Inhabited α] [DecidableEq α] (k : Nat) (v : α) (t : Cells α) (f : α → α) :
    Cells.mapV ((k, v) :: t) f = if f v = default then Cells.mapV t f else (k, f v) :: Cells.mapV t f := by
  by_cases h : f v = default <;> simp [Cells.mapV, h]

theorem Cells.mem_mapV [Inhabited α] [DecidableEq α] {t : Cells α} {f : α → α} {e : Nat × α} (h : e ∈ t.mapV f) :
    ∃ e' ∈ t, e'.1 = e.1 ∧ f e'.2 = e.2 := by
  simp only [Cells.mapV, List.mem_filter, List.mem_map] at h
  obtain ⟨⟨e', he', rfl⟩, -⟩ := h
  exact ⟨e', he', rfl, rfl⟩

/-- A change of everything listed keeps the canonical form. -/
theorem Cells.wf_mapV [Inhabited α] [DecidableEq α] {t : Cells α} (f : α → α) (h : t.wf = true) : (t.mapV f).wf = true := by
  induction t with
  | nil => rfl
  | cons e t ih =>
    obtain ⟨k, v⟩ := e
    obtain ⟨_, ha, hw⟩ := Cells.wf_cons.mp h
    rw [Cells.mapV_cons]
    split
    · exact ih hw
    · next hv =>
      refine Cells.wf_cons.mpr ⟨hv, fun e he => ?_, ih hw⟩
      obtain ⟨e', he', hk, _⟩ := Cells.mem_mapV he
      exact hk ▸ ha e' he'

/-- What a changed table holds, where the change keeps the default. -/
theorem Cells.get_mapV [Inhabited α] [DecidableEq α] {t : Cells α} (f : α → α) (hf : f default = default) (h : t.wf = true) (i : Nat) :
    (t.mapV f).get i = f (t.get i) := by
  induction t with
  | nil => exact hf.symm
  | cons e t ih =>
    obtain ⟨k, v⟩ := e
    obtain ⟨_, ha, hw⟩ := Cells.wf_cons.mp h
    rw [Cells.mapV_cons]
    by_cases hk : k = i
    · subst hk
      have none : Cells.get t k = default := by
        clear ih hw h
        induction t with
        | nil => rfl
        | cons a t ih =>
          obtain ⟨k', v'⟩ := a
          have : k < k' := ha (k', v') (List.mem_cons_self ..)
          simp only [Cells.get, if_neg (show ¬ k' = k by omega)]
          exact ih fun e he => ha e (List.mem_cons_of_mem _ he)
      split
      · next hv => rw [ih hw, none]; simp [Cells.get, hv, hf]
      · simp [Cells.get]
    · split <;> simp [Cells.get, hk, ih hw]

end Sys2Proof.Machine
end

