-- ==== Sys2Proof/Laws/State.lean ====
section
/-!
SUPPORT. Laws/State.lean: one lemma for each field of State and each named update of a part of it, and what the accessors read
after the update.
-/

namespace Sys2Proof.Machine

/-! ### onWave: the wave in focus -/

@[simp] theorem State.onWave_cycle (s : State) (f : Wave → Wave) : (s.onWave f).cycle = s.cycle := rfl
@[simp] theorem State.onWave_time (s : State) (f : Wave → Wave) : (s.onWave f).time = s.time := rfl
@[simp] theorem State.onWave_clock0 (s : State) (f : Wave → Wave) : (s.onWave f).clock0 = s.clock0 := rfl
@[simp] theorem State.onWave_fresh (s : State) (f : Wave → Wave) : (s.onWave f).fresh = s.fresh := rfl
@[simp] theorem State.onWave_agenda (s : State) (f : Wave → Wave) : (s.onWave f).agenda = s.agenda := rfl
@[simp] theorem State.onWave_mem (s : State) (f : Wave → Wave) : (s.onWave f).mem = s.mem := rfl
@[simp] theorem State.onWave_wave (s : State) (f : Wave → Wave) : (s.onWave f).wave = f s.wave := rfl
@[simp] theorem State.onWave_waves (s : State) (f : Wave → Wave) : (s.onWave f).waves = s.waves := rfl
@[simp] theorem State.onWave_wg (s : State) (f : Wave → Wave) : (s.onWave f).wg = s.wg := rfl
@[simp] theorem State.onWave_wgs (s : State) (f : Wave → Wave) : (s.onWave f).wgs = s.wgs := rfl
@[simp] theorem State.onWave_iss (s : State) (f : Wave → Wave) : (s.onWave f).iss = s.iss := rfl
@[simp] theorem State.onWave_src (s : State) (f : Wave → Wave) : (s.onWave f).src = s.src := rfl
@[simp] theorem State.onWave_cores (s : State) (f : Wave → Wave) : (s.onWave f).cores = s.cores := rfl
@[simp] theorem State.onWave_sects (s : State) (f : Wave → Wave) : (s.onWave f).sects = s.sects := rfl
@[simp] theorem State.onWave_dies (s : State) (f : Wave → Wave) : (s.onWave f).dies = s.dies := rfl
@[simp] theorem State.onWave_l2 (s : State) (f : Wave → Wave) : (s.onWave f).l2 = s.l2 := rfl
@[simp] theorem State.onWave_poison (s : State) (f : Wave → Wave) : (s.onWave f).poison = s.poison := rfl
@[simp] theorem State.onWave_ctxs (s : State) (f : Wave → Wave) : (s.onWave f).ctxs = s.ctxs := rfl
@[simp] theorem State.onWave_queues (s : State) (f : Wave → Wave) : (s.onWave f).queues = s.queues := rfl
@[simp] theorem State.onWave_grids (s : State) (f : Wave → Wave) : (s.onWave f).grids = s.grids := rfl
@[simp] theorem State.onWave_gens (s : State) (f : Wave → Wave) : (s.onWave f).gens = s.gens := rfl
@[simp] theorem State.onWave_permits (s : State) (f : Wave → Wave) : (s.onWave f).permits = s.permits := rfl
@[simp] theorem State.onWave_relayed (s : State) (f : Wave → Wave) : (s.onWave f).relayed = s.relayed := rfl
@[simp] theorem State.onWave_saved (s : State) (f : Wave → Wave) : (s.onWave f).saved = s.saved := rfl
@[simp] theorem State.onWave_saving (s : State) (f : Wave → Wave) : (s.onWave f).saving = s.saving := rfl
@[simp] theorem State.onWave_mailbox (s : State) (f : Wave → Wave) : (s.onWave f).mailbox = s.mailbox := rfl
@[simp] theorem State.onWave_fw (s : State) (f : Wave → Wave) : (s.onWave f).fw = s.fw := rfl
@[simp] theorem State.onWave_mclog (s : State) (f : Wave → Wave) : (s.onWave f).mclog = s.mclog := rfl
@[simp] theorem State.onWave_debugBlk (s : State) (f : Wave → Wave) : (s.onWave f).debugBlk = s.debugBlk := rfl
@[simp] theorem State.onWave_host (s : State) (f : Wave → Wave) : (s.onWave f).host = s.host := rfl
@[simp] theorem State.onWave_msix (s : State) (f : Wave → Wave) : (s.onWave f).msix = s.msix := rfl
@[simp] theorem State.onWave_pod (s : State) (f : Wave → Wave) : (s.onWave f).pod = s.pod := rfl
@[simp] theorem State.onWave_names (s : State) (f : Wave → Wave) : (s.onWave f).names = s.names := rfl

/-! ### onPart: the issuing part -/

@[simp] theorem State.onPart_cycle (s : State) (f : Part → Part) : (s.onPart f).cycle = s.cycle := rfl
@[simp] theorem State.onPart_time (s : State) (f : Part → Part) : (s.onPart f).time = s.time := rfl
@[simp] theorem State.onPart_clock0 (s : State) (f : Part → Part) : (s.onPart f).clock0 = s.clock0 := rfl
@[simp] theorem State.onPart_fresh (s : State) (f : Part → Part) : (s.onPart f).fresh = s.fresh := rfl
@[simp] theorem State.onPart_agenda (s : State) (f : Part → Part) : (s.onPart f).agenda = s.agenda := rfl
@[simp] theorem State.onPart_mem (s : State) (f : Part → Part) : (s.onPart f).mem = s.mem := rfl
@[simp] theorem State.onPart_wave (s : State) (f : Part → Part) : (s.onPart f).wave = s.wave.updPart s.iss.entry f := rfl
@[simp] theorem State.onPart_waves (s : State) (f : Part → Part) : (s.onPart f).waves = s.waves := rfl
@[simp] theorem State.onPart_wg (s : State) (f : Part → Part) : (s.onPart f).wg = s.wg := rfl
@[simp] theorem State.onPart_wgs (s : State) (f : Part → Part) : (s.onPart f).wgs = s.wgs := rfl
@[simp] theorem State.onPart_iss (s : State) (f : Part → Part) : (s.onPart f).iss = s.iss := rfl
@[simp] theorem State.onPart_src (s : State) (f : Part → Part) : (s.onPart f).src = s.src := rfl
@[simp] theorem State.onPart_cores (s : State) (f : Part → Part) : (s.onPart f).cores = s.cores := rfl
@[simp] theorem State.onPart_sects (s : State) (f : Part → Part) : (s.onPart f).sects = s.sects := rfl
@[simp] theorem State.onPart_dies (s : State) (f : Part → Part) : (s.onPart f).dies = s.dies := rfl
@[simp] theorem State.onPart_l2 (s : State) (f : Part → Part) : (s.onPart f).l2 = s.l2 := rfl
@[simp] theorem State.onPart_poison (s : State) (f : Part → Part) : (s.onPart f).poison = s.poison := rfl
@[simp] theorem State.onPart_ctxs (s : State) (f : Part → Part) : (s.onPart f).ctxs = s.ctxs := rfl
@[simp] theorem State.onPart_queues (s : State) (f : Part → Part) : (s.onPart f).queues = s.queues := rfl
@[simp] theorem State.onPart_grids (s : State) (f : Part → Part) : (s.onPart f).grids = s.grids := rfl
@[simp] theorem State.onPart_gens (s : State) (f : Part → Part) : (s.onPart f).gens = s.gens := rfl
@[simp] theorem State.onPart_permits (s : State) (f : Part → Part) : (s.onPart f).permits = s.permits := rfl
@[simp] theorem State.onPart_relayed (s : State) (f : Part → Part) : (s.onPart f).relayed = s.relayed := rfl
@[simp] theorem State.onPart_saved (s : State) (f : Part → Part) : (s.onPart f).saved = s.saved := rfl
@[simp] theorem State.onPart_saving (s : State) (f : Part → Part) : (s.onPart f).saving = s.saving := rfl
@[simp] theorem State.onPart_mailbox (s : State) (f : Part → Part) : (s.onPart f).mailbox = s.mailbox := rfl
@[simp] theorem State.onPart_fw (s : State) (f : Part → Part) : (s.onPart f).fw = s.fw := rfl
@[simp] theorem State.onPart_mclog (s : State) (f : Part → Part) : (s.onPart f).mclog = s.mclog := rfl
@[simp] theorem State.onPart_debugBlk (s : State) (f : Part → Part) : (s.onPart f).debugBlk = s.debugBlk := rfl
@[simp] theorem State.onPart_host (s : State) (f : Part → Part) : (s.onPart f).host = s.host := rfl
@[simp] theorem State.onPart_msix (s : State) (f : Part → Part) : (s.onPart f).msix = s.msix := rfl
@[simp] theorem State.onPart_pod (s : State) (f : Part → Part) : (s.onPart f).pod = s.pod := rfl
@[simp] theorem State.onPart_names (s : State) (f : Part → Part) : (s.onPart f).names = s.names := rfl

/-! ### mapWaves: every resident wave -/

@[simp] theorem State.mapWaves_cycle (s : State) (f : Wave → Wave) : (s.mapWaves f).cycle = s.cycle := rfl
@[simp] theorem State.mapWaves_time (s : State) (f : Wave → Wave) : (s.mapWaves f).time = s.time := rfl
@[simp] theorem State.mapWaves_clock0 (s : State) (f : Wave → Wave) : (s.mapWaves f).clock0 = s.clock0 := rfl
@[simp] theorem State.mapWaves_fresh (s : State) (f : Wave → Wave) : (s.mapWaves f).fresh = s.fresh := rfl
@[simp] theorem State.mapWaves_agenda (s : State) (f : Wave → Wave) : (s.mapWaves f).agenda = s.agenda := rfl
@[simp] theorem State.mapWaves_mem (s : State) (f : Wave → Wave) : (s.mapWaves f).mem = s.mem := rfl
@[simp] theorem State.mapWaves_wave (s : State) (f : Wave → Wave) : (s.mapWaves f).wave = if s.wave.id = 0 then s.wave else f s.wave := rfl
@[simp] theorem State.mapWaves_waves (s : State) (f : Wave → Wave) : (s.mapWaves f).waves = s.waves.map f := rfl
@[simp] theorem State.mapWaves_wg (s : State) (f : Wave → Wave) : (s.mapWaves f).wg = s.wg := rfl
@[simp] theorem State.mapWaves_wgs (s : State) (f : Wave → Wave) : (s.mapWaves f).wgs = s.wgs := rfl
@[simp] theorem State.mapWaves_iss (s : State) (f : Wave → Wave) : (s.mapWaves f).iss = s.iss := rfl
@[simp] theorem State.mapWaves_src (s : State) (f : Wave → Wave) : (s.mapWaves f).src = s.src := rfl
@[simp] theorem State.mapWaves_cores (s : State) (f : Wave → Wave) : (s.mapWaves f).cores = s.cores := rfl
@[simp] theorem State.mapWaves_sects (s : State) (f : Wave → Wave) : (s.mapWaves f).sects = s.sects := rfl
@[simp] theorem State.mapWaves_dies (s : State) (f : Wave → Wave) : (s.mapWaves f).dies = s.dies := rfl
@[simp] theorem State.mapWaves_l2 (s : State) (f : Wave → Wave) : (s.mapWaves f).l2 = s.l2 := rfl
@[simp] theorem State.mapWaves_poison (s : State) (f : Wave → Wave) : (s.mapWaves f).poison = s.poison := rfl
@[simp] theorem State.mapWaves_ctxs (s : State) (f : Wave → Wave) : (s.mapWaves f).ctxs = s.ctxs := rfl
@[simp] theorem State.mapWaves_queues (s : State) (f : Wave → Wave) : (s.mapWaves f).queues = s.queues := rfl
@[simp] theorem State.mapWaves_grids (s : State) (f : Wave → Wave) : (s.mapWaves f).grids = s.grids := rfl
@[simp] theorem State.mapWaves_gens (s : State) (f : Wave → Wave) : (s.mapWaves f).gens = s.gens := rfl
@[simp] theorem State.mapWaves_permits (s : State) (f : Wave → Wave) : (s.mapWaves f).permits = s.permits := rfl
@[simp] theorem State.mapWaves_relayed (s : State) (f : Wave → Wave) : (s.mapWaves f).relayed = s.relayed := rfl
@[simp] theorem State.mapWaves_saved (s : State) (f : Wave → Wave) : (s.mapWaves f).saved = s.saved := rfl
@[simp] theorem State.mapWaves_saving (s : State) (f : Wave → Wave) : (s.mapWaves f).saving = s.saving := rfl
@[simp] theorem State.mapWaves_mailbox (s : State) (f : Wave → Wave) : (s.mapWaves f).mailbox = s.mailbox := rfl
@[simp] theorem State.mapWaves_fw (s : State) (f : Wave → Wave) : (s.mapWaves f).fw = s.fw := rfl
@[simp] theorem State.mapWaves_mclog (s : State) (f : Wave → Wave) : (s.mapWaves f).mclog = s.mclog := rfl
@[simp] theorem State.mapWaves_debugBlk (s : State) (f : Wave → Wave) : (s.mapWaves f).debugBlk = s.debugBlk := rfl
@[simp] theorem State.mapWaves_host (s : State) (f : Wave → Wave) : (s.mapWaves f).host = s.host := rfl
@[simp] theorem State.mapWaves_msix (s : State) (f : Wave → Wave) : (s.mapWaves f).msix = s.msix := rfl
@[simp] theorem State.mapWaves_pod (s : State) (f : Wave → Wave) : (s.mapWaves f).pod = s.pod := rfl
@[simp] theorem State.mapWaves_names (s : State) (f : Wave → Wave) : (s.mapWaves f).names = s.names := rfl

/-! ### mapWave: one resident wave -/

@[simp] theorem State.mapWave_cycle (s : State) (id : Nat) (f : Wave → Wave) : (s.mapWave id f).cycle = s.cycle := rfl
@[simp] theorem State.mapWave_time (s : State) (id : Nat) (f : Wave → Wave) : (s.mapWave id f).time = s.time := rfl
@[simp] theorem State.mapWave_clock0 (s : State) (id : Nat) (f : Wave → Wave) : (s.mapWave id f).clock0 = s.clock0 := rfl
@[simp] theorem State.mapWave_fresh (s : State) (id : Nat) (f : Wave → Wave) : (s.mapWave id f).fresh = s.fresh := rfl
@[simp] theorem State.mapWave_agenda (s : State) (id : Nat) (f : Wave → Wave) : (s.mapWave id f).agenda = s.agenda := rfl
@[simp] theorem State.mapWave_mem (s : State) (id : Nat) (f : Wave → Wave) : (s.mapWave id f).mem = s.mem := rfl
@[simp] theorem State.mapWave_wave (s : State) (id : Nat) (f : Wave → Wave) : (s.mapWave id f).wave = if s.wave.id = 0 then s.wave else if s.wave.id = id then f s.wave else s.wave := rfl
@[simp] theorem State.mapWave_waves (s : State) (id : Nat) (f : Wave → Wave) : (s.mapWave id f).waves = s.waves.map fun w => if w.id = id then f w else w := rfl
@[simp] theorem State.mapWave_wg (s : State) (id : Nat) (f : Wave → Wave) : (s.mapWave id f).wg = s.wg := rfl
@[simp] theorem State.mapWave_wgs (s : State) (id : Nat) (f : Wave → Wave) : (s.mapWave id f).wgs = s.wgs := rfl
@[simp] theorem State.mapWave_iss (s : State) (id : Nat) (f : Wave → Wave) : (s.mapWave id f).iss = s.iss := rfl
@[simp] theorem State.mapWave_src (s : State) (id : Nat) (f : Wave → Wave) : (s.mapWave id f).src = s.src := rfl
@[simp] theorem State.mapWave_cores (s : State) (id : Nat) (f : Wave → Wave) : (s.mapWave id f).cores = s.cores := rfl
@[simp] theorem State.mapWave_sects (s : State) (id : Nat) (f : Wave → Wave) : (s.mapWave id f).sects = s.sects := rfl
@[simp] theorem State.mapWave_dies (s : State) (id : Nat) (f : Wave → Wave) : (s.mapWave id f).dies = s.dies := rfl
@[simp] theorem State.mapWave_l2 (s : State) (id : Nat) (f : Wave → Wave) : (s.mapWave id f).l2 = s.l2 := rfl
@[simp] theorem State.mapWave_poison (s : State) (id : Nat) (f : Wave → Wave) : (s.mapWave id f).poison = s.poison := rfl
@[simp] theorem State.mapWave_ctxs (s : State) (id : Nat) (f : Wave → Wave) : (s.mapWave id f).ctxs = s.ctxs := rfl
@[simp] theorem State.mapWave_queues (s : State) (id : Nat) (f : Wave → Wave) : (s.mapWave id f).queues = s.queues := rfl
@[simp] theorem State.mapWave_grids (s : State) (id : Nat) (f : Wave → Wave) : (s.mapWave id f).grids = s.grids := rfl
@[simp] theorem State.mapWave_gens (s : State) (id : Nat) (f : Wave → Wave) : (s.mapWave id f).gens = s.gens := rfl
@[simp] theorem State.mapWave_permits (s : State) (id : Nat) (f : Wave → Wave) : (s.mapWave id f).permits = s.permits := rfl
@[simp] theorem State.mapWave_relayed (s : State) (id : Nat) (f : Wave → Wave) : (s.mapWave id f).relayed = s.relayed := rfl
@[simp] theorem State.mapWave_saved (s : State) (id : Nat) (f : Wave → Wave) : (s.mapWave id f).saved = s.saved := rfl
@[simp] theorem State.mapWave_saving (s : State) (id : Nat) (f : Wave → Wave) : (s.mapWave id f).saving = s.saving := rfl
@[simp] theorem State.mapWave_mailbox (s : State) (id : Nat) (f : Wave → Wave) : (s.mapWave id f).mailbox = s.mailbox := rfl
@[simp] theorem State.mapWave_fw (s : State) (id : Nat) (f : Wave → Wave) : (s.mapWave id f).fw = s.fw := rfl
@[simp] theorem State.mapWave_mclog (s : State) (id : Nat) (f : Wave → Wave) : (s.mapWave id f).mclog = s.mclog := rfl
@[simp] theorem State.mapWave_debugBlk (s : State) (id : Nat) (f : Wave → Wave) : (s.mapWave id f).debugBlk = s.debugBlk := rfl
@[simp] theorem State.mapWave_host (s : State) (id : Nat) (f : Wave → Wave) : (s.mapWave id f).host = s.host := rfl
@[simp] theorem State.mapWave_msix (s : State) (id : Nat) (f : Wave → Wave) : (s.mapWave id f).msix = s.msix := rfl
@[simp] theorem State.mapWave_pod (s : State) (id : Nat) (f : Wave → Wave) : (s.mapWave id f).pod = s.pod := rfl
@[simp] theorem State.mapWave_names (s : State) (id : Nat) (f : Wave → Wave) : (s.mapWave id f).names = s.names := rfl

/-! ### mapWgs: every resident workgroup -/

@[simp] theorem State.mapWgs_cycle (s : State) (f : WG → WG) : (s.mapWgs f).cycle = s.cycle := rfl
@[simp] theorem State.mapWgs_time (s : State) (f : WG → WG) : (s.mapWgs f).time = s.time := rfl
@[simp] theorem State.mapWgs_clock0 (s : State) (f : WG → WG) : (s.mapWgs f).clock0 = s.clock0 := rfl
@[simp] theorem State.mapWgs_fresh (s : State) (f : WG → WG) : (s.mapWgs f).fresh = s.fresh := rfl
@[simp] theorem State.mapWgs_agenda (s : State) (f : WG → WG) : (s.mapWgs f).agenda = s.agenda := rfl
@[simp] theorem State.mapWgs_mem (s : State) (f : WG → WG) : (s.mapWgs f).mem = s.mem := rfl
@[simp] theorem State.mapWgs_wave (s : State) (f : WG → WG) : (s.mapWgs f).wave = s.wave := rfl
@[simp] theorem State.mapWgs_waves (s : State) (f : WG → WG) : (s.mapWgs f).waves = s.waves := rfl
@[simp] theorem State.mapWgs_wg (s : State) (f : WG → WG) : (s.mapWgs f).wg = if s.wg.id = 0 then s.wg else f s.wg := rfl
@[simp] theorem State.mapWgs_wgs (s : State) (f : WG → WG) : (s.mapWgs f).wgs = s.wgs.map f := rfl
@[simp] theorem State.mapWgs_iss (s : State) (f : WG → WG) : (s.mapWgs f).iss = s.iss := rfl
@[simp] theorem State.mapWgs_src (s : State) (f : WG → WG) : (s.mapWgs f).src = s.src := rfl
@[simp] theorem State.mapWgs_cores (s : State) (f : WG → WG) : (s.mapWgs f).cores = s.cores := rfl
@[simp] theorem State.mapWgs_sects (s : State) (f : WG → WG) : (s.mapWgs f).sects = s.sects := rfl
@[simp] theorem State.mapWgs_dies (s : State) (f : WG → WG) : (s.mapWgs f).dies = s.dies := rfl
@[simp] theorem State.mapWgs_l2 (s : State) (f : WG → WG) : (s.mapWgs f).l2 = s.l2 := rfl
@[simp] theorem State.mapWgs_poison (s : State) (f : WG → WG) : (s.mapWgs f).poison = s.poison := rfl
@[simp] theorem State.mapWgs_ctxs (s : State) (f : WG → WG) : (s.mapWgs f).ctxs = s.ctxs := rfl
@[simp] theorem State.mapWgs_queues (s : State) (f : WG → WG) : (s.mapWgs f).queues = s.queues := rfl
@[simp] theorem State.mapWgs_grids (s : State) (f : WG → WG) : (s.mapWgs f).grids = s.grids := rfl
@[simp] theorem State.mapWgs_gens (s : State) (f : WG → WG) : (s.mapWgs f).gens = s.gens := rfl
@[simp] theorem State.mapWgs_permits (s : State) (f : WG → WG) : (s.mapWgs f).permits = s.permits := rfl
@[simp] theorem State.mapWgs_relayed (s : State) (f : WG → WG) : (s.mapWgs f).relayed = s.relayed := rfl
@[simp] theorem State.mapWgs_saved (s : State) (f : WG → WG) : (s.mapWgs f).saved = s.saved := rfl
@[simp] theorem State.mapWgs_saving (s : State) (f : WG → WG) : (s.mapWgs f).saving = s.saving := rfl
@[simp] theorem State.mapWgs_mailbox (s : State) (f : WG → WG) : (s.mapWgs f).mailbox = s.mailbox := rfl
@[simp] theorem State.mapWgs_fw (s : State) (f : WG → WG) : (s.mapWgs f).fw = s.fw := rfl
@[simp] theorem State.mapWgs_mclog (s : State) (f : WG → WG) : (s.mapWgs f).mclog = s.mclog := rfl
@[simp] theorem State.mapWgs_debugBlk (s : State) (f : WG → WG) : (s.mapWgs f).debugBlk = s.debugBlk := rfl
@[simp] theorem State.mapWgs_host (s : State) (f : WG → WG) : (s.mapWgs f).host = s.host := rfl
@[simp] theorem State.mapWgs_msix (s : State) (f : WG → WG) : (s.mapWgs f).msix = s.msix := rfl
@[simp] theorem State.mapWgs_pod (s : State) (f : WG → WG) : (s.mapWgs f).pod = s.pod := rfl
@[simp] theorem State.mapWgs_names (s : State) (f : WG → WG) : (s.mapWgs f).names = s.names := rfl

/-! ### mapWg: one resident workgroup -/

@[simp] theorem State.mapWg_cycle (s : State) (id : Nat) (f : WG → WG) : (s.mapWg id f).cycle = s.cycle := rfl
@[simp] theorem State.mapWg_time (s : State) (id : Nat) (f : WG → WG) : (s.mapWg id f).time = s.time := rfl
@[simp] theorem State.mapWg_clock0 (s : State) (id : Nat) (f : WG → WG) : (s.mapWg id f).clock0 = s.clock0 := rfl
@[simp] theorem State.mapWg_fresh (s : State) (id : Nat) (f : WG → WG) : (s.mapWg id f).fresh = s.fresh := rfl
@[simp] theorem State.mapWg_agenda (s : State) (id : Nat) (f : WG → WG) : (s.mapWg id f).agenda = s.agenda := rfl
@[simp] theorem State.mapWg_mem (s : State) (id : Nat) (f : WG → WG) : (s.mapWg id f).mem = s.mem := rfl
@[simp] theorem State.mapWg_wave (s : State) (id : Nat) (f : WG → WG) : (s.mapWg id f).wave = s.wave := rfl
@[simp] theorem State.mapWg_waves (s : State) (id : Nat) (f : WG → WG) : (s.mapWg id f).waves = s.waves := rfl
@[simp] theorem State.mapWg_wg (s : State) (id : Nat) (f : WG → WG) : (s.mapWg id f).wg = if s.wg.id = 0 then s.wg else if s.wg.id = id then f s.wg else s.wg := rfl
@[simp] theorem State.mapWg_wgs (s : State) (id : Nat) (f : WG → WG) : (s.mapWg id f).wgs = s.wgs.map fun g => if g.id = id then f g else g := rfl
@[simp] theorem State.mapWg_iss (s : State) (id : Nat) (f : WG → WG) : (s.mapWg id f).iss = s.iss := rfl
@[simp] theorem State.mapWg_src (s : State) (id : Nat) (f : WG → WG) : (s.mapWg id f).src = s.src := rfl
@[simp] theorem State.mapWg_cores (s : State) (id : Nat) (f : WG → WG) : (s.mapWg id f).cores = s.cores := rfl
@[simp] theorem State.mapWg_sects (s : State) (id : Nat) (f : WG → WG) : (s.mapWg id f).sects = s.sects := rfl
@[simp] theorem State.mapWg_dies (s : State) (id : Nat) (f : WG → WG) : (s.mapWg id f).dies = s.dies := rfl
@[simp] theorem State.mapWg_l2 (s : State) (id : Nat) (f : WG → WG) : (s.mapWg id f).l2 = s.l2 := rfl
@[simp] theorem State.mapWg_poison (s : State) (id : Nat) (f : WG → WG) : (s.mapWg id f).poison = s.poison := rfl
@[simp] theorem State.mapWg_ctxs (s : State) (id : Nat) (f : WG → WG) : (s.mapWg id f).ctxs = s.ctxs := rfl
@[simp] theorem State.mapWg_queues (s : State) (id : Nat) (f : WG → WG) : (s.mapWg id f).queues = s.queues := rfl
@[simp] theorem State.mapWg_grids (s : State) (id : Nat) (f : WG → WG) : (s.mapWg id f).grids = s.grids := rfl
@[simp] theorem State.mapWg_gens (s : State) (id : Nat) (f : WG → WG) : (s.mapWg id f).gens = s.gens := rfl
@[simp] theorem State.mapWg_permits (s : State) (id : Nat) (f : WG → WG) : (s.mapWg id f).permits = s.permits := rfl
@[simp] theorem State.mapWg_relayed (s : State) (id : Nat) (f : WG → WG) : (s.mapWg id f).relayed = s.relayed := rfl
@[simp] theorem State.mapWg_saved (s : State) (id : Nat) (f : WG → WG) : (s.mapWg id f).saved = s.saved := rfl
@[simp] theorem State.mapWg_saving (s : State) (id : Nat) (f : WG → WG) : (s.mapWg id f).saving = s.saving := rfl
@[simp] theorem State.mapWg_mailbox (s : State) (id : Nat) (f : WG → WG) : (s.mapWg id f).mailbox = s.mailbox := rfl
@[simp] theorem State.mapWg_fw (s : State) (id : Nat) (f : WG → WG) : (s.mapWg id f).fw = s.fw := rfl
@[simp] theorem State.mapWg_mclog (s : State) (id : Nat) (f : WG → WG) : (s.mapWg id f).mclog = s.mclog := rfl
@[simp] theorem State.mapWg_debugBlk (s : State) (id : Nat) (f : WG → WG) : (s.mapWg id f).debugBlk = s.debugBlk := rfl
@[simp] theorem State.mapWg_host (s : State) (id : Nat) (f : WG → WG) : (s.mapWg id f).host = s.host := rfl
@[simp] theorem State.mapWg_msix (s : State) (id : Nat) (f : WG → WG) : (s.mapWg id f).msix = s.msix := rfl
@[simp] theorem State.mapWg_pod (s : State) (id : Nat) (f : WG → WG) : (s.mapWg id f).pod = s.pod := rfl
@[simp] theorem State.mapWg_names (s : State) (id : Nat) (f : WG → WG) : (s.mapWg id f).names = s.names := rfl

/-! ### onCtx: a context -/

@[simp] theorem State.onCtx_cycle (s : State) (id : Nat) (f : Ctx → Ctx) : (s.onCtx id f).cycle = s.cycle := rfl
@[simp] theorem State.onCtx_time (s : State) (id : Nat) (f : Ctx → Ctx) : (s.onCtx id f).time = s.time := rfl
@[simp] theorem State.onCtx_clock0 (s : State) (id : Nat) (f : Ctx → Ctx) : (s.onCtx id f).clock0 = s.clock0 := rfl
@[simp] theorem State.onCtx_fresh (s : State) (id : Nat) (f : Ctx → Ctx) : (s.onCtx id f).fresh = s.fresh := rfl
@[simp] theorem State.onCtx_agenda (s : State) (id : Nat) (f : Ctx → Ctx) : (s.onCtx id f).agenda = s.agenda := rfl
@[simp] theorem State.onCtx_mem (s : State) (id : Nat) (f : Ctx → Ctx) : (s.onCtx id f).mem = s.mem := rfl
@[simp] theorem State.onCtx_wave (s : State) (id : Nat) (f : Ctx → Ctx) : (s.onCtx id f).wave = s.wave := rfl
@[simp] theorem State.onCtx_waves (s : State) (id : Nat) (f : Ctx → Ctx) : (s.onCtx id f).waves = s.waves := rfl
@[simp] theorem State.onCtx_wg (s : State) (id : Nat) (f : Ctx → Ctx) : (s.onCtx id f).wg = s.wg := rfl
@[simp] theorem State.onCtx_wgs (s : State) (id : Nat) (f : Ctx → Ctx) : (s.onCtx id f).wgs = s.wgs := rfl
@[simp] theorem State.onCtx_iss (s : State) (id : Nat) (f : Ctx → Ctx) : (s.onCtx id f).iss = s.iss := rfl
@[simp] theorem State.onCtx_src (s : State) (id : Nat) (f : Ctx → Ctx) : (s.onCtx id f).src = s.src := rfl
@[simp] theorem State.onCtx_cores (s : State) (id : Nat) (f : Ctx → Ctx) : (s.onCtx id f).cores = s.cores := rfl
@[simp] theorem State.onCtx_sects (s : State) (id : Nat) (f : Ctx → Ctx) : (s.onCtx id f).sects = s.sects := rfl
@[simp] theorem State.onCtx_dies (s : State) (id : Nat) (f : Ctx → Ctx) : (s.onCtx id f).dies = s.dies := rfl
@[simp] theorem State.onCtx_l2 (s : State) (id : Nat) (f : Ctx → Ctx) : (s.onCtx id f).l2 = s.l2 := rfl
@[simp] theorem State.onCtx_poison (s : State) (id : Nat) (f : Ctx → Ctx) : (s.onCtx id f).poison = s.poison := rfl
@[simp] theorem State.onCtx_ctxs (s : State) (id : Nat) (f : Ctx → Ctx) : (s.onCtx id f).ctxs = s.ctxs.upd id f := rfl
@[simp] theorem State.onCtx_queues (s : State) (id : Nat) (f : Ctx → Ctx) : (s.onCtx id f).queues = s.queues := rfl
@[simp] theorem State.onCtx_grids (s : State) (id : Nat) (f : Ctx → Ctx) : (s.onCtx id f).grids = s.grids := rfl
@[simp] theorem State.onCtx_gens (s : State) (id : Nat) (f : Ctx → Ctx) : (s.onCtx id f).gens = s.gens := rfl
@[simp] theorem State.onCtx_permits (s : State) (id : Nat) (f : Ctx → Ctx) : (s.onCtx id f).permits = s.permits := rfl
@[simp] theorem State.onCtx_relayed (s : State) (id : Nat) (f : Ctx → Ctx) : (s.onCtx id f).relayed = s.relayed := rfl
@[simp] theorem State.onCtx_saved (s : State) (id : Nat) (f : Ctx → Ctx) : (s.onCtx id f).saved = s.saved := rfl
@[simp] theorem State.onCtx_saving (s : State) (id : Nat) (f : Ctx → Ctx) : (s.onCtx id f).saving = s.saving := rfl
@[simp] theorem State.onCtx_mailbox (s : State) (id : Nat) (f : Ctx → Ctx) : (s.onCtx id f).mailbox = s.mailbox := rfl
@[simp] theorem State.onCtx_fw (s : State) (id : Nat) (f : Ctx → Ctx) : (s.onCtx id f).fw = s.fw := rfl
@[simp] theorem State.onCtx_mclog (s : State) (id : Nat) (f : Ctx → Ctx) : (s.onCtx id f).mclog = s.mclog := rfl
@[simp] theorem State.onCtx_debugBlk (s : State) (id : Nat) (f : Ctx → Ctx) : (s.onCtx id f).debugBlk = s.debugBlk := rfl
@[simp] theorem State.onCtx_host (s : State) (id : Nat) (f : Ctx → Ctx) : (s.onCtx id f).host = s.host := rfl
@[simp] theorem State.onCtx_msix (s : State) (id : Nat) (f : Ctx → Ctx) : (s.onCtx id f).msix = s.msix := rfl
@[simp] theorem State.onCtx_pod (s : State) (id : Nat) (f : Ctx → Ctx) : (s.onCtx id f).pod = s.pod := rfl
@[simp] theorem State.onCtx_names (s : State) (id : Nat) (f : Ctx → Ctx) : (s.onCtx id f).names = s.names := rfl

/-! ### onCore: a core -/

@[simp] theorem State.onCore_cycle (s : State) (c : Nat) (f : Core → Core) : (s.onCore c f).cycle = s.cycle := rfl
@[simp] theorem State.onCore_time (s : State) (c : Nat) (f : Core → Core) : (s.onCore c f).time = s.time := rfl
@[simp] theorem State.onCore_clock0 (s : State) (c : Nat) (f : Core → Core) : (s.onCore c f).clock0 = s.clock0 := rfl
@[simp] theorem State.onCore_fresh (s : State) (c : Nat) (f : Core → Core) : (s.onCore c f).fresh = s.fresh := rfl
@[simp] theorem State.onCore_agenda (s : State) (c : Nat) (f : Core → Core) : (s.onCore c f).agenda = s.agenda := rfl
@[simp] theorem State.onCore_mem (s : State) (c : Nat) (f : Core → Core) : (s.onCore c f).mem = s.mem := rfl
@[simp] theorem State.onCore_wave (s : State) (c : Nat) (f : Core → Core) : (s.onCore c f).wave = s.wave := rfl
@[simp] theorem State.onCore_waves (s : State) (c : Nat) (f : Core → Core) : (s.onCore c f).waves = s.waves := rfl
@[simp] theorem State.onCore_wg (s : State) (c : Nat) (f : Core → Core) : (s.onCore c f).wg = s.wg := rfl
@[simp] theorem State.onCore_wgs (s : State) (c : Nat) (f : Core → Core) : (s.onCore c f).wgs = s.wgs := rfl
@[simp] theorem State.onCore_iss (s : State) (c : Nat) (f : Core → Core) : (s.onCore c f).iss = s.iss := rfl
@[simp] theorem State.onCore_src (s : State) (c : Nat) (f : Core → Core) : (s.onCore c f).src = s.src := rfl
@[simp] theorem State.onCore_cores (s : State) (c : Nat) (f : Core → Core) : (s.onCore c f).cores = s.cores.upd c f := rfl
@[simp] theorem State.onCore_sects (s : State) (c : Nat) (f : Core → Core) : (s.onCore c f).sects = s.sects := rfl
@[simp] theorem State.onCore_dies (s : State) (c : Nat) (f : Core → Core) : (s.onCore c f).dies = s.dies := rfl
@[simp] theorem State.onCore_l2 (s : State) (c : Nat) (f : Core → Core) : (s.onCore c f).l2 = s.l2 := rfl
@[simp] theorem State.onCore_poison (s : State) (c : Nat) (f : Core → Core) : (s.onCore c f).poison = s.poison := rfl
@[simp] theorem State.onCore_ctxs (s : State) (c : Nat) (f : Core → Core) : (s.onCore c f).ctxs = s.ctxs := rfl
@[simp] theorem State.onCore_queues (s : State) (c : Nat) (f : Core → Core) : (s.onCore c f).queues = s.queues := rfl
@[simp] theorem State.onCore_grids (s : State) (c : Nat) (f : Core → Core) : (s.onCore c f).grids = s.grids := rfl
@[simp] theorem State.onCore_gens (s : State) (c : Nat) (f : Core → Core) : (s.onCore c f).gens = s.gens := rfl
@[simp] theorem State.onCore_permits (s : State) (c : Nat) (f : Core → Core) : (s.onCore c f).permits = s.permits := rfl
@[simp] theorem State.onCore_relayed (s : State) (c : Nat) (f : Core → Core) : (s.onCore c f).relayed = s.relayed := rfl
@[simp] theorem State.onCore_saved (s : State) (c : Nat) (f : Core → Core) : (s.onCore c f).saved = s.saved := rfl
@[simp] theorem State.onCore_saving (s : State) (c : Nat) (f : Core → Core) : (s.onCore c f).saving = s.saving := rfl
@[simp] theorem State.onCore_mailbox (s : State) (c : Nat) (f : Core → Core) : (s.onCore c f).mailbox = s.mailbox := rfl
@[simp] theorem State.onCore_fw (s : State) (c : Nat) (f : Core → Core) : (s.onCore c f).fw = s.fw := rfl
@[simp] theorem State.onCore_mclog (s : State) (c : Nat) (f : Core → Core) : (s.onCore c f).mclog = s.mclog := rfl
@[simp] theorem State.onCore_debugBlk (s : State) (c : Nat) (f : Core → Core) : (s.onCore c f).debugBlk = s.debugBlk := rfl
@[simp] theorem State.onCore_host (s : State) (c : Nat) (f : Core → Core) : (s.onCore c f).host = s.host := rfl
@[simp] theorem State.onCore_msix (s : State) (c : Nat) (f : Core → Core) : (s.onCore c f).msix = s.msix := rfl
@[simp] theorem State.onCore_pod (s : State) (c : Nat) (f : Core → Core) : (s.onCore c f).pod = s.pod := rfl
@[simp] theorem State.onCore_names (s : State) (c : Nat) (f : Core → Core) : (s.onCore c f).names = s.names := rfl

/-! ### onSect: a section -/

@[simp] theorem State.onSect_cycle (s : State) (n : Nat) (f : Sect → Sect) : (s.onSect n f).cycle = s.cycle := rfl
@[simp] theorem State.onSect_time (s : State) (n : Nat) (f : Sect → Sect) : (s.onSect n f).time = s.time := rfl
@[simp] theorem State.onSect_clock0 (s : State) (n : Nat) (f : Sect → Sect) : (s.onSect n f).clock0 = s.clock0 := rfl
@[simp] theorem State.onSect_fresh (s : State) (n : Nat) (f : Sect → Sect) : (s.onSect n f).fresh = s.fresh := rfl
@[simp] theorem State.onSect_agenda (s : State) (n : Nat) (f : Sect → Sect) : (s.onSect n f).agenda = s.agenda := rfl
@[simp] theorem State.onSect_mem (s : State) (n : Nat) (f : Sect → Sect) : (s.onSect n f).mem = s.mem := rfl
@[simp] theorem State.onSect_wave (s : State) (n : Nat) (f : Sect → Sect) : (s.onSect n f).wave = s.wave := rfl
@[simp] theorem State.onSect_waves (s : State) (n : Nat) (f : Sect → Sect) : (s.onSect n f).waves = s.waves := rfl
@[simp] theorem State.onSect_wg (s : State) (n : Nat) (f : Sect → Sect) : (s.onSect n f).wg = s.wg := rfl
@[simp] theorem State.onSect_wgs (s : State) (n : Nat) (f : Sect → Sect) : (s.onSect n f).wgs = s.wgs := rfl
@[simp] theorem State.onSect_iss (s : State) (n : Nat) (f : Sect → Sect) : (s.onSect n f).iss = s.iss := rfl
@[simp] theorem State.onSect_src (s : State) (n : Nat) (f : Sect → Sect) : (s.onSect n f).src = s.src := rfl
@[simp] theorem State.onSect_cores (s : State) (n : Nat) (f : Sect → Sect) : (s.onSect n f).cores = s.cores := rfl
@[simp] theorem State.onSect_sects (s : State) (n : Nat) (f : Sect → Sect) : (s.onSect n f).sects = s.sects.upd n f := rfl
@[simp] theorem State.onSect_dies (s : State) (n : Nat) (f : Sect → Sect) : (s.onSect n f).dies = s.dies := rfl
@[simp] theorem State.onSect_l2 (s : State) (n : Nat) (f : Sect → Sect) : (s.onSect n f).l2 = s.l2 := rfl
@[simp] theorem State.onSect_poison (s : State) (n : Nat) (f : Sect → Sect) : (s.onSect n f).poison = s.poison := rfl
@[simp] theorem State.onSect_ctxs (s : State) (n : Nat) (f : Sect → Sect) : (s.onSect n f).ctxs = s.ctxs := rfl
@[simp] theorem State.onSect_queues (s : State) (n : Nat) (f : Sect → Sect) : (s.onSect n f).queues = s.queues := rfl
@[simp] theorem State.onSect_grids (s : State) (n : Nat) (f : Sect → Sect) : (s.onSect n f).grids = s.grids := rfl
@[simp] theorem State.onSect_gens (s : State) (n : Nat) (f : Sect → Sect) : (s.onSect n f).gens = s.gens := rfl
@[simp] theorem State.onSect_permits (s : State) (n : Nat) (f : Sect → Sect) : (s.onSect n f).permits = s.permits := rfl
@[simp] theorem State.onSect_relayed (s : State) (n : Nat) (f : Sect → Sect) : (s.onSect n f).relayed = s.relayed := rfl
@[simp] theorem State.onSect_saved (s : State) (n : Nat) (f : Sect → Sect) : (s.onSect n f).saved = s.saved := rfl
@[simp] theorem State.onSect_saving (s : State) (n : Nat) (f : Sect → Sect) : (s.onSect n f).saving = s.saving := rfl
@[simp] theorem State.onSect_mailbox (s : State) (n : Nat) (f : Sect → Sect) : (s.onSect n f).mailbox = s.mailbox := rfl
@[simp] theorem State.onSect_fw (s : State) (n : Nat) (f : Sect → Sect) : (s.onSect n f).fw = s.fw := rfl
@[simp] theorem State.onSect_mclog (s : State) (n : Nat) (f : Sect → Sect) : (s.onSect n f).mclog = s.mclog := rfl
@[simp] theorem State.onSect_debugBlk (s : State) (n : Nat) (f : Sect → Sect) : (s.onSect n f).debugBlk = s.debugBlk := rfl
@[simp] theorem State.onSect_host (s : State) (n : Nat) (f : Sect → Sect) : (s.onSect n f).host = s.host := rfl
@[simp] theorem State.onSect_msix (s : State) (n : Nat) (f : Sect → Sect) : (s.onSect n f).msix = s.msix := rfl
@[simp] theorem State.onSect_pod (s : State) (n : Nat) (f : Sect → Sect) : (s.onSect n f).pod = s.pod := rfl
@[simp] theorem State.onSect_names (s : State) (n : Nat) (f : Sect → Sect) : (s.onSect n f).names = s.names := rfl

/-! ### onDie: a compute die -/

@[simp] theorem State.onDie_cycle (s : State) (n : Nat) (f : Die → Die) : (s.onDie n f).cycle = s.cycle := rfl
@[simp] theorem State.onDie_time (s : State) (n : Nat) (f : Die → Die) : (s.onDie n f).time = s.time := rfl
@[simp] theorem State.onDie_clock0 (s : State) (n : Nat) (f : Die → Die) : (s.onDie n f).clock0 = s.clock0 := rfl
@[simp] theorem State.onDie_fresh (s : State) (n : Nat) (f : Die → Die) : (s.onDie n f).fresh = s.fresh := rfl
@[simp] theorem State.onDie_agenda (s : State) (n : Nat) (f : Die → Die) : (s.onDie n f).agenda = s.agenda := rfl
@[simp] theorem State.onDie_mem (s : State) (n : Nat) (f : Die → Die) : (s.onDie n f).mem = s.mem := rfl
@[simp] theorem State.onDie_wave (s : State) (n : Nat) (f : Die → Die) : (s.onDie n f).wave = s.wave := rfl
@[simp] theorem State.onDie_waves (s : State) (n : Nat) (f : Die → Die) : (s.onDie n f).waves = s.waves := rfl
@[simp] theorem State.onDie_wg (s : State) (n : Nat) (f : Die → Die) : (s.onDie n f).wg = s.wg := rfl
@[simp] theorem State.onDie_wgs (s : State) (n : Nat) (f : Die → Die) : (s.onDie n f).wgs = s.wgs := rfl
@[simp] theorem State.onDie_iss (s : State) (n : Nat) (f : Die → Die) : (s.onDie n f).iss = s.iss := rfl
@[simp] theorem State.onDie_src (s : State) (n : Nat) (f : Die → Die) : (s.onDie n f).src = s.src := rfl
@[simp] theorem State.onDie_cores (s : State) (n : Nat) (f : Die → Die) : (s.onDie n f).cores = s.cores := rfl
@[simp] theorem State.onDie_sects (s : State) (n : Nat) (f : Die → Die) : (s.onDie n f).sects = s.sects := rfl
@[simp] theorem State.onDie_dies (s : State) (n : Nat) (f : Die → Die) : (s.onDie n f).dies = s.dies.upd n f := rfl
@[simp] theorem State.onDie_l2 (s : State) (n : Nat) (f : Die → Die) : (s.onDie n f).l2 = s.l2 := rfl
@[simp] theorem State.onDie_poison (s : State) (n : Nat) (f : Die → Die) : (s.onDie n f).poison = s.poison := rfl
@[simp] theorem State.onDie_ctxs (s : State) (n : Nat) (f : Die → Die) : (s.onDie n f).ctxs = s.ctxs := rfl
@[simp] theorem State.onDie_queues (s : State) (n : Nat) (f : Die → Die) : (s.onDie n f).queues = s.queues := rfl
@[simp] theorem State.onDie_grids (s : State) (n : Nat) (f : Die → Die) : (s.onDie n f).grids = s.grids := rfl
@[simp] theorem State.onDie_gens (s : State) (n : Nat) (f : Die → Die) : (s.onDie n f).gens = s.gens := rfl
@[simp] theorem State.onDie_permits (s : State) (n : Nat) (f : Die → Die) : (s.onDie n f).permits = s.permits := rfl
@[simp] theorem State.onDie_relayed (s : State) (n : Nat) (f : Die → Die) : (s.onDie n f).relayed = s.relayed := rfl
@[simp] theorem State.onDie_saved (s : State) (n : Nat) (f : Die → Die) : (s.onDie n f).saved = s.saved := rfl
@[simp] theorem State.onDie_saving (s : State) (n : Nat) (f : Die → Die) : (s.onDie n f).saving = s.saving := rfl
@[simp] theorem State.onDie_mailbox (s : State) (n : Nat) (f : Die → Die) : (s.onDie n f).mailbox = s.mailbox := rfl
@[simp] theorem State.onDie_fw (s : State) (n : Nat) (f : Die → Die) : (s.onDie n f).fw = s.fw := rfl
@[simp] theorem State.onDie_mclog (s : State) (n : Nat) (f : Die → Die) : (s.onDie n f).mclog = s.mclog := rfl
@[simp] theorem State.onDie_debugBlk (s : State) (n : Nat) (f : Die → Die) : (s.onDie n f).debugBlk = s.debugBlk := rfl
@[simp] theorem State.onDie_host (s : State) (n : Nat) (f : Die → Die) : (s.onDie n f).host = s.host := rfl
@[simp] theorem State.onDie_msix (s : State) (n : Nat) (f : Die → Die) : (s.onDie n f).msix = s.msix := rfl
@[simp] theorem State.onDie_pod (s : State) (n : Nat) (f : Die → Die) : (s.onDie n f).pod = s.pod := rfl
@[simp] theorem State.onDie_names (s : State) (n : Nat) (f : Die → Die) : (s.onDie n f).names = s.names := rfl

/-! ### onGrid: a grid -/

@[simp] theorem State.onGrid_cycle (s : State) (id : Nat) (f : Grid → Grid) : (s.onGrid id f).cycle = s.cycle := rfl
@[simp] theorem State.onGrid_time (s : State) (id : Nat) (f : Grid → Grid) : (s.onGrid id f).time = s.time := rfl
@[simp] theorem State.onGrid_clock0 (s : State) (id : Nat) (f : Grid → Grid) : (s.onGrid id f).clock0 = s.clock0 := rfl
@[simp] theorem State.onGrid_fresh (s : State) (id : Nat) (f : Grid → Grid) : (s.onGrid id f).fresh = s.fresh := rfl
@[simp] theorem State.onGrid_agenda (s : State) (id : Nat) (f : Grid → Grid) : (s.onGrid id f).agenda = s.agenda := rfl
@[simp] theorem State.onGrid_mem (s : State) (id : Nat) (f : Grid → Grid) : (s.onGrid id f).mem = s.mem := rfl
@[simp] theorem State.onGrid_wave (s : State) (id : Nat) (f : Grid → Grid) : (s.onGrid id f).wave = s.wave := rfl
@[simp] theorem State.onGrid_waves (s : State) (id : Nat) (f : Grid → Grid) : (s.onGrid id f).waves = s.waves := rfl
@[simp] theorem State.onGrid_wg (s : State) (id : Nat) (f : Grid → Grid) : (s.onGrid id f).wg = s.wg := rfl
@[simp] theorem State.onGrid_wgs (s : State) (id : Nat) (f : Grid → Grid) : (s.onGrid id f).wgs = s.wgs := rfl
@[simp] theorem State.onGrid_iss (s : State) (id : Nat) (f : Grid → Grid) : (s.onGrid id f).iss = s.iss := rfl
@[simp] theorem State.onGrid_src (s : State) (id : Nat) (f : Grid → Grid) : (s.onGrid id f).src = s.src := rfl
@[simp] theorem State.onGrid_cores (s : State) (id : Nat) (f : Grid → Grid) : (s.onGrid id f).cores = s.cores := rfl
@[simp] theorem State.onGrid_sects (s : State) (id : Nat) (f : Grid → Grid) : (s.onGrid id f).sects = s.sects := rfl
@[simp] theorem State.onGrid_dies (s : State) (id : Nat) (f : Grid → Grid) : (s.onGrid id f).dies = s.dies := rfl
@[simp] theorem State.onGrid_l2 (s : State) (id : Nat) (f : Grid → Grid) : (s.onGrid id f).l2 = s.l2 := rfl
@[simp] theorem State.onGrid_poison (s : State) (id : Nat) (f : Grid → Grid) : (s.onGrid id f).poison = s.poison := rfl
@[simp] theorem State.onGrid_ctxs (s : State) (id : Nat) (f : Grid → Grid) : (s.onGrid id f).ctxs = s.ctxs := rfl
@[simp] theorem State.onGrid_queues (s : State) (id : Nat) (f : Grid → Grid) : (s.onGrid id f).queues = s.queues := rfl
@[simp] theorem State.onGrid_grids (s : State) (id : Nat) (f : Grid → Grid) : (s.onGrid id f).grids = s.grids.map fun g => if g.id = id then f g else g := rfl
@[simp] theorem State.onGrid_gens (s : State) (id : Nat) (f : Grid → Grid) : (s.onGrid id f).gens = s.gens := rfl
@[simp] theorem State.onGrid_permits (s : State) (id : Nat) (f : Grid → Grid) : (s.onGrid id f).permits = s.permits := rfl
@[simp] theorem State.onGrid_relayed (s : State) (id : Nat) (f : Grid → Grid) : (s.onGrid id f).relayed = s.relayed := rfl
@[simp] theorem State.onGrid_saved (s : State) (id : Nat) (f : Grid → Grid) : (s.onGrid id f).saved = s.saved := rfl
@[simp] theorem State.onGrid_saving (s : State) (id : Nat) (f : Grid → Grid) : (s.onGrid id f).saving = s.saving := rfl
@[simp] theorem State.onGrid_mailbox (s : State) (id : Nat) (f : Grid → Grid) : (s.onGrid id f).mailbox = s.mailbox := rfl
@[simp] theorem State.onGrid_fw (s : State) (id : Nat) (f : Grid → Grid) : (s.onGrid id f).fw = s.fw := rfl
@[simp] theorem State.onGrid_mclog (s : State) (id : Nat) (f : Grid → Grid) : (s.onGrid id f).mclog = s.mclog := rfl
@[simp] theorem State.onGrid_debugBlk (s : State) (id : Nat) (f : Grid → Grid) : (s.onGrid id f).debugBlk = s.debugBlk := rfl
@[simp] theorem State.onGrid_host (s : State) (id : Nat) (f : Grid → Grid) : (s.onGrid id f).host = s.host := rfl
@[simp] theorem State.onGrid_msix (s : State) (id : Nat) (f : Grid → Grid) : (s.onGrid id f).msix = s.msix := rfl
@[simp] theorem State.onGrid_pod (s : State) (id : Nat) (f : Grid → Grid) : (s.onGrid id f).pod = s.pod := rfl
@[simp] theorem State.onGrid_names (s : State) (id : Nat) (f : Grid → Grid) : (s.onGrid id f).names = s.names := rfl

/-! ### onBox: a mailbox -/

@[simp] theorem State.onBox_cycle (s : State) (fn : Nat) (f : Mailbox → Mailbox) : (s.onBox fn f).cycle = s.cycle := rfl
@[simp] theorem State.onBox_time (s : State) (fn : Nat) (f : Mailbox → Mailbox) : (s.onBox fn f).time = s.time := rfl
@[simp] theorem State.onBox_clock0 (s : State) (fn : Nat) (f : Mailbox → Mailbox) : (s.onBox fn f).clock0 = s.clock0 := rfl
@[simp] theorem State.onBox_fresh (s : State) (fn : Nat) (f : Mailbox → Mailbox) : (s.onBox fn f).fresh = s.fresh := rfl
@[simp] theorem State.onBox_agenda (s : State) (fn : Nat) (f : Mailbox → Mailbox) : (s.onBox fn f).agenda = s.agenda := rfl
@[simp] theorem State.onBox_mem (s : State) (fn : Nat) (f : Mailbox → Mailbox) : (s.onBox fn f).mem = s.mem := rfl
@[simp] theorem State.onBox_wave (s : State) (fn : Nat) (f : Mailbox → Mailbox) : (s.onBox fn f).wave = s.wave := rfl
@[simp] theorem State.onBox_waves (s : State) (fn : Nat) (f : Mailbox → Mailbox) : (s.onBox fn f).waves = s.waves := rfl
@[simp] theorem State.onBox_wg (s : State) (fn : Nat) (f : Mailbox → Mailbox) : (s.onBox fn f).wg = s.wg := rfl
@[simp] theorem State.onBox_wgs (s : State) (fn : Nat) (f : Mailbox → Mailbox) : (s.onBox fn f).wgs = s.wgs := rfl
@[simp] theorem State.onBox_iss (s : State) (fn : Nat) (f : Mailbox → Mailbox) : (s.onBox fn f).iss = s.iss := rfl
@[simp] theorem State.onBox_src (s : State) (fn : Nat) (f : Mailbox → Mailbox) : (s.onBox fn f).src = s.src := rfl
@[simp] theorem State.onBox_cores (s : State) (fn : Nat) (f : Mailbox → Mailbox) : (s.onBox fn f).cores = s.cores := rfl
@[simp] theorem State.onBox_sects (s : State) (fn : Nat) (f : Mailbox → Mailbox) : (s.onBox fn f).sects = s.sects := rfl
@[simp] theorem State.onBox_dies (s : State) (fn : Nat) (f : Mailbox → Mailbox) : (s.onBox fn f).dies = s.dies := rfl
@[simp] theorem State.onBox_l2 (s : State) (fn : Nat) (f : Mailbox → Mailbox) : (s.onBox fn f).l2 = s.l2 := rfl
@[simp] theorem State.onBox_poison (s : State) (fn : Nat) (f : Mailbox → Mailbox) : (s.onBox fn f).poison = s.poison := rfl
@[simp] theorem State.onBox_ctxs (s : State) (fn : Nat) (f : Mailbox → Mailbox) : (s.onBox fn f).ctxs = s.ctxs := rfl
@[simp] theorem State.onBox_queues (s : State) (fn : Nat) (f : Mailbox → Mailbox) : (s.onBox fn f).queues = s.queues := rfl
@[simp] theorem State.onBox_grids (s : State) (fn : Nat) (f : Mailbox → Mailbox) : (s.onBox fn f).grids = s.grids := rfl
@[simp] theorem State.onBox_gens (s : State) (fn : Nat) (f : Mailbox → Mailbox) : (s.onBox fn f).gens = s.gens := rfl
@[simp] theorem State.onBox_permits (s : State) (fn : Nat) (f : Mailbox → Mailbox) : (s.onBox fn f).permits = s.permits := rfl
@[simp] theorem State.onBox_relayed (s : State) (fn : Nat) (f : Mailbox → Mailbox) : (s.onBox fn f).relayed = s.relayed := rfl
@[simp] theorem State.onBox_saved (s : State) (fn : Nat) (f : Mailbox → Mailbox) : (s.onBox fn f).saved = s.saved := rfl
@[simp] theorem State.onBox_saving (s : State) (fn : Nat) (f : Mailbox → Mailbox) : (s.onBox fn f).saving = s.saving := rfl
@[simp] theorem State.onBox_mailbox (s : State) (fn : Nat) (f : Mailbox → Mailbox) : (s.onBox fn f).mailbox = s.mailbox.upd fn f := rfl
@[simp] theorem State.onBox_fw (s : State) (fn : Nat) (f : Mailbox → Mailbox) : (s.onBox fn f).fw = s.fw := rfl
@[simp] theorem State.onBox_mclog (s : State) (fn : Nat) (f : Mailbox → Mailbox) : (s.onBox fn f).mclog = s.mclog := rfl
@[simp] theorem State.onBox_debugBlk (s : State) (fn : Nat) (f : Mailbox → Mailbox) : (s.onBox fn f).debugBlk = s.debugBlk := rfl
@[simp] theorem State.onBox_host (s : State) (fn : Nat) (f : Mailbox → Mailbox) : (s.onBox fn f).host = s.host := rfl
@[simp] theorem State.onBox_msix (s : State) (fn : Nat) (f : Mailbox → Mailbox) : (s.onBox fn f).msix = s.msix := rfl
@[simp] theorem State.onBox_pod (s : State) (fn : Nat) (f : Mailbox → Mailbox) : (s.onBox fn f).pod = s.pod := rfl
@[simp] theorem State.onBox_names (s : State) (fn : Nat) (f : Mailbox → Mailbox) : (s.onBox fn f).names = s.names := rfl

/-! ### What the accessors read -/

@[simp] theorem State.when_true (s : State) (f : State → State) : s.when true f = f s := rfl
@[simp] theorem State.when_false (s : State) (f : State → State) : s.when false f = s := rfl

@[simp] theorem State.ctx_onCtx_self (s : State) (id : Nat) (f : Ctx → Ctx) : (s.onCtx id f).ctx id = f (s.ctx id) :=
  Cells.get_upd_self ..
@[simp] theorem State.ctx_onCtx_ne (s : State) {id k : Nat} (f : Ctx → Ctx) (h : id ≠ k) : (s.onCtx id f).ctx k = s.ctx k :=
  Cells.get_upd_ne _ _ h
@[simp] theorem State.core_onCore_self (s : State) (c : Nat) (f : Core → Core) : (s.onCore c f).core c = f (s.core c) :=
  Cells.get_upd_self ..
@[simp] theorem State.core_onCore_ne (s : State) {c k : Nat} (f : Core → Core) (h : c ≠ k) : (s.onCore c f).core k = s.core k :=
  Cells.get_upd_ne _ _ h
@[simp] theorem State.sect_onSect_self (s : State) (n : Nat) (f : Sect → Sect) : (s.onSect n f).sect n = f (s.sect n) :=
  Cells.get_upd_self ..
@[simp] theorem State.sect_onSect_ne (s : State) {n k : Nat} (f : Sect → Sect) (h : n ≠ k) : (s.onSect n f).sect k = s.sect k :=
  Cells.get_upd_ne _ _ h
@[simp] theorem State.box_onBox_self (s : State) (fn : Nat) (f : Mailbox → Mailbox) : (s.onBox fn f).box fn = f (s.box fn) :=
  Cells.get_upd_self ..
@[simp] theorem State.box_onBox_ne (s : State) {fn k : Nat} (f : Mailbox → Mailbox) (h : fn ≠ k) : (s.onBox fn f).box k = s.box k :=
  Cells.get_upd_ne _ _ h

end Sys2Proof.Machine
end

