-- ==== Sys2Proof/Laws/Memory.lean ====
section
/-!
SUPPORT. Laws/Memory.lean: bytes and numbers, physical reads and writes, and the canonical form of memory.
-/

namespace Sys2Proof.Machine

/-! ### Little-endian numbers -/

@[simp] theorem leBytes_length (n v : Nat) : (leBytes n v).length = n := by
  induction n generalizing v with
  | zero => rfl
  | succ n ih => simp [leBytes, ih]

/-- A number reads back modulo its width. -/
theorem leValue_leBytes (n v : Nat) : leValue (leBytes n v) = v % 256 ^ n := by
  induction n generalizing v with
  | zero => simp [leBytes, leValue, Nat.mod_one]
  | succ n ih =>
    simp only [leBytes, leValue, ih, BitVec.toNat_ofNat]
    show v % 256 + _ = _
    rw [show (256 : Nat) ^ (n + 1) = 256 * 256 ^ n from Nat.pow_succ', Nat.mod_mul]

theorem flatMap_const_length {α β : Type} {l : List α} {f : α → List β} {n : Nat} (h : ∀ x ∈ l, (f x).length = n) :
    (l.flatMap f).length = l.length * n := by
  induction l with
  | nil => simp
  | cons a l ih =>
    simp only [List.flatMap_cons, List.length_append, List.length_cons, h a (by simp), ih fun x hx => h x (by simp [hx])]
    rw [Nat.succ_mul, Nat.add_comm]

/-- A quad record has 1,728 bytes (Table 17.3). -/
theorem quadRecord_length (w : Wave) (q : Nat) : (quadRecord w q).length = 1728 := by
  simp only [quadRecord, List.length_append]
  rw [flatMap_const_length (n := 384) (fun i _ => by rw [flatMap_const_length (n := 4) (fun r _ => leBytes_length ..)]; simp),
    flatMap_const_length (n := 4) (fun r _ => leBytes_length ..)]
  simp

/-! ### Physical memory: everything a write does -/

theorem State.readPhys_mem (s : State) {pa : Nat} (n : Nat) (h : isRegSpace pa = false) : s.readPhys pa n = Cells.read s.mem pa n := by
  unfold State.readPhys
  exact if_neg (by simp [h])

/-- An access to the L2 changes the L2 alone. -/
theorem State.l2Touch_frame (s : State) (pa hint cp : Nat) : s.l2Touch pa hint cp = { s with l2 := (s.l2Touch pa hint cp).l2 } := by
  unfold State.l2Touch
  split <;> rfl

/-- So does an access to every line of a range. -/
theorem State.l2Lines_frame (s : State) (pa n cp : Nat) : s.l2Lines pa n cp = { s with l2 := (s.l2Lines pa n cp).l2 } := by
  unfold State.l2Lines
  split
  · rfl
  · induction linesOf pa n generalizing s with
    | nil => rfl
    | cons a as ih =>
      rw [List.foldl_cons, ih (s.l2Touch a 0 cp), State.l2Touch_frame s a 0 cp]

theorem State.writeUncached_mem (s : State) {pa : Nat} (bs : List Byte) (h : isRegSpace pa = false) :
    s.writeUncached pa bs = { s with mem := Cells.write s.mem pa bs, poison := clearPoison s.poison pa bs.length } := by
  unfold State.writeUncached
  exact if_neg (by simp [h])

/-- A write outside register space: the bytes, the marks of the sectors it covers, and the lines of the L2. -/
theorem State.writePhys_mem (s : State) {pa : Nat} (bs : List Byte) (h : isRegSpace pa = false) :
    s.writePhys pa bs
      = { s with
          mem := Cells.write s.mem pa bs, poison := clearPoison s.poison pa bs.length, l2 := (s.writePhys pa bs).l2 } := by
  rw [show s.writePhys pa bs = (s.writeUncached pa bs).l2Lines pa bs.length 0 from rfl,
    State.l2Lines_frame (s.writeUncached pa bs), State.writeUncached_mem _ _ h]

/-- A write to register space leaves memory alone. -/
theorem State.mem_writeReg (s : State) (off : Nat) (bs : List Byte) : (s.writeReg off bs).mem = s.mem := by
  unfold State.writeReg
  split
  · rfl
  · split <;> rfl

theorem State.writeUncached_reg (s : State) {pa : Nat} (bs : List Byte) (h : isRegSpace pa = true) :
    (s.writeUncached pa bs).mem = s.mem := by
  unfold State.writeUncached
  rw [if_pos h]
  split
  · exact State.mem_writeReg ..
  · rfl

theorem State.writePhys_reg (s : State) {pa : Nat} (bs : List Byte) (h : isRegSpace pa = true) : (s.writePhys pa bs).mem = s.mem := by
  rw [show s.writePhys pa bs = (s.writeUncached pa bs).l2Lines pa bs.length 0 from rfl,
    State.l2Lines_frame (s.writeUncached pa bs)]
  exact State.writeUncached_reg s bs h

/-- Bytes written at an address of memory read back. -/
theorem State.readPhys_writePhys (s : State) {pa : Nat} (bs : List Byte) (h : isRegSpace pa = false) :
    (s.writePhys pa bs).readPhys pa bs.length = bs := by
  rw [State.writePhys_mem _ _ h, State.readPhys_mem _ _ h]
  exact Cells.read_write ..

/-- Every byte outside those written reads as before. -/
theorem State.get_writePhys_outside (s : State) (pa p : Nat) (bs : List Byte) (h : ¬ (pa ≤ p ∧ p < pa + bs.length)) :
    Cells.get (s.writePhys pa bs).mem p = Cells.get s.mem p := by
  cases hr : isRegSpace pa
  · rw [State.writePhys_mem _ _ hr]; exact Cells.get_write_outside _ _ _ _ h
  · rw [State.writePhys_reg _ _ hr]

/-- A write keeps the canonical form of memory. -/
theorem State.wf_writePhys (s : State) (pa : Nat) (bs : List Byte) (h : Memory.wf s.mem = true) :
    Memory.wf (s.writePhys pa bs).mem = true := by
  cases hr : isRegSpace pa
  · rw [State.writePhys_mem _ _ hr]; exact Cells.wf_write _ _ _ h
  · rw [State.writePhys_reg _ _ hr]; exact h

/-- Memory after a reset has its canonical form. -/
theorem wf_reset : Memory.wf State.reset.mem = true := rfl

end Sys2Proof.Machine
end

