-- ==== Sys2Proof/Laws/Regs.lean ====
section
/-!
SUPPORT. Laws/Regs.lean: what a register, a pair or a predicate reads after it, or another one, is written (R63 to R67, R424).
-/

namespace Sys2Proof.Machine

/-! ### One write -/

/-- Two register fields, as two lanes read them, name one register (R63, R64). -/
def sameReg (lane r lane' r' : Nat) : Bool := r == r' && (if r < 96 then lane == lane' else lane / 4 == lane' / 4)

theorem sameReg_eq {lane r lane' r' : Nat} (h : sameReg lane r lane' r' = true) : r = r' := by
  simp only [sameReg, Bool.and_eq_true, beq_iff_eq] at h; exact h.1

theorem sameReg_ne {lane r lane' r' : Nat} (h : r ≠ r') : sameReg lane r lane' r' = false := by simp [sameReg, h]

theorem RegFile.read_write (rf : RegFile) (lane r lane' r' : Nat) (x : Word) :
    (rf.write lane r x).read lane' r' = if sameReg lane r lane' r' then x else rf.read lane' r' := by
  unfold sameReg RegFile.write RegFile.read
  by_cases h : r < 96 <;> by_cases h' : r' < 96
  · by_cases hl : lane = lane'
    · subst hl; by_cases hr : r = r' <;> simp [RegFile.v, RegFile.setV, h, h', hr]
    · simp [RegFile.v, RegFile.setV, hl, h, h']
  · have : r ≠ r' := by omega
    simp [h, h', this]; rfl
  · have : r ≠ r' := by omega
    simp [h, h', this]; rfl
  · by_cases hl : lane / 4 = lane' / 4
    · have e : r - 96 = r' - 96 ↔ r = r' := by omega
      by_cases hr : r = r' <;> simp [RegFile.k, RegFile.setK, hl, h, h', hr, e]
    · simp [RegFile.k, RegFile.setK, hl, h, h']

theorem RegFile.marked_write (rf : RegFile) (lane r lane' r' : Nat) (x : Word) (hr' : r' < 128) :
    (rf.write lane r x).marked lane' r' = if sameReg lane r lane' r' then false else rf.marked lane' r' := by
  unfold sameReg RegFile.write RegFile.marked
  by_cases h : r < 96 <;> by_cases h' : r' < 96
  · by_cases hl : lane = lane'
    · subst hl
      by_cases hr : r = r'
      · simp [RegFile.setV, hr, h']
      · have hr2 : ¬ r' = r := fun e => hr e.symm
        simp [RegFile.setV, hr, hr2, h, h']
    · simp [RegFile.setV, hl, h, h']
  · have : r ≠ r' := by omega
    simp [h, h', this]; rfl
  · have : r ≠ r' := by omega
    simp [h, h', this]; rfl
  · by_cases hl : lane / 4 = lane' / 4
    · have b : r' - 96 < 32 := by omega
      by_cases hr : r = r'
      · simp [RegFile.setK, hl, hr, h', b]
      · have hr2 : ¬ r' - 96 = r - 96 := by omega
        simp [RegFile.setK, hl, h, h', hr, hr2, b]
    · simp [RegFile.setK, hl, h, h']

@[simp] theorem RegFile.p_write (rf : RegFile) (lane r lane' i : Nat) (x : Word) : (rf.write lane r x).p lane' i = rf.p lane' i := by
  unfold RegFile.write RegFile.p
  split
  · by_cases h : lane = lane' <;> simp [RegFile.setV, h]
  · rfl

/-! ### Writes in every lane of a list -/

theorem hit_cons (a : Nat) (ls : List Nat) (d lane r : Nat) :
    hit (a :: ls) d lane r = if sameReg a d lane r then some a else hit ls d lane r := by
  by_cases hr : r = d
  · subst hr
    unfold hit sameReg
    by_cases h : r < 96
    · by_cases e : a = lane
      · subst e; simp [h]
      · have : ¬ lane = a := fun x => e x.symm
        simp [h, e, this]
    · by_cases e : a / 4 = lane / 4 <;> simp [h, e]
  · rw [sameReg_ne fun e => hr e.symm]
    simp [hit, hr]

theorem RegFile.read_writeLanes (rf : RegFile) (ls : List Nat) (d : Reg) (f : Nat → Word) (lane r : Nat) :
    (rf.writeLanes ls d.toNat f).read lane r = (oneWord ls d f lane r).getD (rf.read lane r) := by
  induction ls with
  | nil => simp [RegFile.writeLanes, oneWord, hit]
  | cons a ls ih =>
    have e : rf.writeLanes (a :: ls) d.toNat f = (rf.writeLanes ls d.toNat f).write a d.toNat (f a) := rfl
    rw [e, RegFile.read_write, ih]
    simp only [oneWord, hit_cons]
    split <;> simp

theorem RegFile.marked_writeLanes (rf : RegFile) (ls : List Nat) (d : Reg) (f : Nat → Word) (lane r : Nat) (hr : r < 128) :
    (rf.writeLanes ls d.toNat f).marked lane r = ((oneWord ls d f lane r).isNone && rf.marked lane r) := by
  induction ls with
  | nil => simp [RegFile.writeLanes, oneWord, hit]
  | cons a ls ih =>
    have e : rf.writeLanes (a :: ls) d.toNat f = (rf.writeLanes ls d.toNat f).write a d.toNat (f a) := rfl
    rw [e, RegFile.marked_write _ _ _ _ _ _ hr, ih]
    simp only [oneWord, hit_cons]
    split <;> simp

@[simp] theorem RegFile.p_writeLanes (rf : RegFile) (ls : List Nat) (d : Nat) (f : Nat → Word) (lane i : Nat) :
    (rf.writeLanes ls d f).p lane i = rf.p lane i := by
  induction ls with
  | nil => rfl
  | cons a ls ih => exact (RegFile.p_write ..).trans ih

theorem pairOf_cons (a : Nat) (ls : List Nat) (d : Reg) (f : Nat → DWord) (lane r : Nat) :
    pairOf (a :: ls) d f lane r = if sameReg a (d.toNat + 1) lane r then some (bits 32 32 (f a))
      else if sameReg a d.toNat lane r then some (bits 0 32 (f a)) else pairOf ls d f lane r := by
  simp only [pairOf, hit_cons]
  by_cases h1 : sameReg a (d.toNat + 1) lane r = true
  · have hd := sameReg_eq h1
    have h0 : sameReg a d.toNat lane r = false := sameReg_ne (by omega)
    have hn : hit ls d.toNat lane r = none := by
      unfold hit; rw [if_pos]; omega
    simp [h1, h0, hn]
  · by_cases h0 : sameReg a d.toNat lane r = true <;> simp [h1, h0]

theorem word_low (x : DWord) : x.setWidth 32 = bits 0 32 x := by
  apply BitVec.eq_of_getLsbD_eq; intro i hi; simp [bits, hi]

theorem word_high (x : DWord) : (x >>> 32).setWidth 32 = bits 32 32 x := by
  apply BitVec.eq_of_getLsbD_eq; intro i hi; simp [bits, hi]

theorem RegFile.read_writeLanes2 (rf : RegFile) (ls : List Nat) (d : Reg) (f : Nat → DWord) (lane r : Nat) :
    (rf.writeLanes2 ls d.toNat f).read lane r = (pairOf ls d f lane r).getD (rf.read lane r) := by
  induction ls with
  | nil => simp [RegFile.writeLanes2, pairOf, hit]
  | cons a ls ih =>
    have e : rf.writeLanes2 (a :: ls) d.toNat f = ((rf.writeLanes2 ls d.toNat f).write a d.toNat ((f a).setWidth 32)).write a
        (d.toNat + 1) ((f a >>> 32).setWidth 32) := rfl
    rw [e, RegFile.read_write, RegFile.read_write, ih, pairOf_cons]
    split
    · exact word_high _
    · split
      · exact word_low _
      · rfl

theorem RegFile.marked_writeLanes2 (rf : RegFile) (ls : List Nat) (d : Reg) (f : Nat → DWord) (lane r : Nat) (hr : r < 128) :
    (rf.writeLanes2 ls d.toNat f).marked lane r = ((pairOf ls d f lane r).isNone && rf.marked lane r) := by
  induction ls with
  | nil => simp [RegFile.writeLanes2, pairOf, hit]
  | cons a ls ih =>
    have e : rf.writeLanes2 (a :: ls) d.toNat f = ((rf.writeLanes2 ls d.toNat f).write a d.toNat ((f a).setWidth 32)).write a
        (d.toNat + 1) ((f a >>> 32).setWidth 32) := rfl
    rw [e, RegFile.marked_write _ _ _ _ _ _ hr, RegFile.marked_write _ _ _ _ _ _ hr, ih, pairOf_cons]
    split
    · simp
    · split <;> simp

@[simp] theorem RegFile.p_writeLanes2 (rf : RegFile) (ls : List Nat) (d : Nat) (f : Nat → DWord) (lane i : Nat) :
    (rf.writeLanes2 ls d f).p lane i = rf.p lane i := by
  induction ls with
  | nil => rfl
  | cons a ls ih => exact ((RegFile.p_write ..).trans (RegFile.p_write ..)).trans ih

/-! ### Predicates -/

theorem RegFile.p_setP (rf : RegFile) (lane i lane' i' : Nat) (b : Bool) :
    (rf.setP lane i b).p lane' i' = if lane = lane' ∧ i = i' ∧ i' < 7 then b else rf.p lane' i' := by
  unfold RegFile.setP
  by_cases hi : 7 ≤ i
  · rw [if_pos hi, if_neg (by omega)]
  · rw [if_neg hi]
    unfold RegFile.p
    by_cases hl : lane = lane'
    · subst hl
      by_cases h : i = i'
      · subst h
        have h7 : i < 7 := by omega
        have h7' : ¬ i = 7 := by omega
        cases b <;> simp [h7, h7']
      · cases b <;> simp [BitVec.getLsbD_twoPow, h]
        by_cases h7 : i' < 7
        · simp [h7]
        · rw [BitVec.getLsbD_of_ge _ _ (by omega)]; simp
    · simp [hl]

@[simp] theorem RegFile.v_setP (rf : RegFile) (lane i lane' r : Nat) (b : Bool) : (rf.setP lane i b).v lane' r = rf.v lane' r := by
  by_cases hi : 7 ≤ i
  · simp [RegFile.setP, hi]
  · by_cases hl : lane = lane' <;> simp [RegFile.setP, RegFile.v, hi, hl]

@[simp] theorem RegFile.quads_setP (rf : RegFile) (lane i : Nat) (b : Bool) : (rf.setP lane i b).quads = rf.quads := by
  unfold RegFile.setP; split <;> rfl

@[simp] theorem RegFile.read_setP (rf : RegFile) (lane i lane' r : Nat) (b : Bool) : (rf.setP lane i b).read lane' r = rf.read lane' r := by
  unfold RegFile.read
  split
  · simp
  · simp [RegFile.k]

@[simp] theorem RegFile.marked_setP (rf : RegFile) (lane i lane' r : Nat) (b : Bool) :
    (rf.setP lane i b).marked lane' r = rf.marked lane' r := by
  unfold RegFile.marked
  split
  · by_cases hi : 7 ≤ i
    · simp [RegFile.setP, hi]
    · by_cases hl : lane = lane' <;> simp [RegFile.setP, hi, hl]
  · simp

theorem RegFile.p_writePreds (rf : RegFile) (ls : List Nat) (p : BitVec 3) (f : Nat → Bool) (lane i : Nat) :
    (rf.writePreds ls p.toNat f).p lane i = (onePred ls p f lane i).getD (rf.p lane i) := by
  induction ls with
  | nil => simp [RegFile.writePreds, onePred]
  | cons a ls ih =>
    have e : rf.writePreds (a :: ls) p.toNat f = (rf.writePreds ls p.toNat f).setP a p.toNat (f a) := rfl
    rw [e, RegFile.p_setP, ih]
    have hp := p.isLt
    by_cases hl : a = lane
    · subst hl
      by_cases hi : p.toNat = i ∧ i < 7
      · obtain ⟨rfl, h7⟩ := hi
        have : ¬ p.toNat = 7 := by omega
        simp [onePred, h7, this]
      · have h1 : ¬ (a = a ∧ p.toNat = i ∧ i < 7) := by rintro ⟨-, h⟩; exact hi h
        have h2 : ¬ (i = p.toNat ∧ i ≠ 7) := by rintro ⟨h, h'⟩; exact hi ⟨h.symm, by omega⟩
        rw [if_neg h1]
        simp only [onePred]
        rw [if_neg (by rintro ⟨x, y, -⟩; exact h2 ⟨x, y⟩), if_neg (by rintro ⟨x, y, -⟩; exact h2 ⟨x, y⟩)]
    · have : ¬ lane = a := fun e => hl e.symm
      simp [onePred, hl, this]

@[simp] theorem RegFile.read_writePreds (rf : RegFile) (ls : List Nat) (i : Nat) (f : Nat → Bool) (lane r : Nat) :
    (rf.writePreds ls i f).read lane r = rf.read lane r := by
  induction ls with
  | nil => rfl
  | cons a ls ih => exact (RegFile.read_setP ..).trans ih

@[simp] theorem RegFile.marked_writePreds (rf : RegFile) (ls : List Nat) (i : Nat) (f : Nat → Bool) (lane r : Nat) :
    (rf.writePreds ls i f).marked lane r = rf.marked lane r := by
  induction ls with
  | nil => rfl
  | cons a ls ih => exact (RegFile.marked_setP ..).trans ih

/-! ### The shared operations that write registers: everything they do -/

theorem State.writeD_regsAfter (s : State) (ls : List Nat) (d : Reg) (f : Nat → Word) :
    s.RegsAfter (s.writeD ls d f) (oneWord ls d f) noPred :=
  ⟨rfl, fun _ => rfl, fun lane r _ => RegFile.read_writeLanes _ ls d f lane r, fun lane r h => RegFile.marked_writeLanes _ ls d f lane r h,
    fun lane i _ => RegFile.p_writeLanes _ ls _ f lane i⟩

theorem State.writeD2_regsAfter (s : State) (ls : List Nat) (d : Reg) (f : Nat → DWord) :
    s.RegsAfter (s.writeD2 ls d f) (pairOf ls d f) noPred :=
  ⟨rfl, fun _ => rfl, fun lane r _ => RegFile.read_writeLanes2 _ ls d f lane r, fun lane r h => RegFile.marked_writeLanes2 _ ls d f lane r h,
    fun lane i _ => RegFile.p_writeLanes2 _ ls _ f lane i⟩

theorem State.writeP_regsAfter (s : State) (ls : List Nat) (p : BitVec 3) (f : Nat → Bool) :
    s.RegsAfter (s.writeP ls p f) noWord (onePred ls p f) :=
  ⟨rfl, fun _ => rfl, fun _ _ _ => RegFile.read_writePreds .., fun _ _ _ => by simp [State.writeP, noWord],
    fun lane i _ => RegFile.p_writePreds _ ls p f lane i⟩

end Sys2Proof.Machine
end

