-- ==== Sys2Proof/Tests/Slice0.lean ====
section
/-!
SUPPORT. Tests/Slice0.lean: the author's tests: ill-formed terms refused, words of the spec decoded, results that the manual works
out or that follow by hand from its rules, and for each statement a state that meets its hypotheses.
-/

namespace Sys2Proof.Tests

open Sys2Proof Sys2Proof.Machine

set_option Elab.async false

/-! ### Ill-formed terms -/

theorem test_wf_refuses : ([
    .brc .always 3 1, .fsh .always true true 9 1 2 3 4, .bfe .always 8 4 true true 8 9 1, .bfi .always 5 30 true 8 9 10 1,
    .shfl .always 4 3 true 33 true 1 2 5, .vote .always 3 2 3 false 1 false 9, .vote .always 3 0 3 false 3 true 0,
    .vote .always 3 0 3 false 3 false 9, .elect .always 2 4 false true 3, .atom .always ⟨0, 0, 3, 1⟩ 1 2 4 6,
    .red .always ⟨0, 0, 3, 1⟩ 2 4 6, .atoms .always ⟨0, 0, 0, 1⟩ false 1 2 3 0 0,
    .cldb .always ⟨0, 0, false, false, 0, 1, 1, 4, 9⟩, .copy 0 0 0 0 [1, 2, 3, 4],
    .halyardLaunch 0 1 1 (List.range 257) (List.replicate 128 0), .halyardLaunch 0 1 1 [0, 1] (List.replicate 127 0),
    .sqtailWrite 0 1 (List.replicate 63 0), .write ⟨0, 1, 0, 0, 0, 3, 0⟩ [1, 2], .write ⟨0, 1, 0, 0, 0, 0, 0⟩ [],
    .write ⟨0, 1, 0, 0, 0, 49, 0⟩ (List.replicate 49 0), .report ⟨0, 1, 0, 0, 0, 0, 0⟩ [1] 0,
    .extend ⟨0, 1, 0, 0, 0, 0, 0⟩ 4 (List.replicate 46 0)]
    : List Instr).all (fun i => !i.wf) = true := by decide +kernel

theorem test_wf_accepts : ([
    .brc ⟨7, true⟩ 3 1, .fsh .always true true 9 1 2 3 0, .vote .always 3 2 3 false 0 true 9, .elect .always 2 4 true true 3,
    .atom .always ⟨7, 0, 3, 1⟩ 1 2 4 6, .cldb .always ⟨0, 0, false, true, 0, 1, 1, 4, 9⟩, .copy 0 0 0 0 [1, 2, 3, 4, 5],
    .write ⟨0, 1, 0, 0, 0, 48, 0⟩ (List.replicate 48 0), .extend ⟨0, 1, 0, 0, 0, 0, 0⟩ 4 (List.replicate 47 0)]
    : List Instr).all (fun i => i.wf) = true := by decide +kernel

/-! ### Words of the spec -/

/-- Tables 8.4, 8.5, 8.12, R146: the short integer words; 0x06040807, 0x0408080A and 0x10080803 are words of the example programs. -/
def words_short_integer : List (Nat × Nat × Instr) :=
  [(32, 0x00000000, .nop),
   (32, 0x020F0850, .iadd 3 97 5),
   (32, 0x020F0851, .isub 3 97 5),
   (32, 0x020F0852, .imul 3 97 5),
   (32, 0x020F0853, .imulh 3 97 5),
   (32, 0x020F0854, .imulhu 3 97 5),
   (32, 0x020F0855, .imin 3 97 5),
   (32, 0x020F0856, .iminu 3 97 5),
   (32, 0x020F0857, .imax 3 97 5),
   (32, 0x020F0858, .imaxu 3 97 5),
   (32, 0x020F0859, .iabsd 3 97 5),
   (32, 0x05904910, .and 100 9 17),
   (32, 0x05904911, .or 100 9 17),
   (32, 0x05904912, .xor 100 9 17),
   (32, 0x05904913, .andn 100 9 17),
   (32, 0x05904914, .shl 100 9 17),
   (32, 0x05904915, .shr 100 9 17),
   (32, 0x05904916, .sar 100 9 17),
   (32, 0x04183807, .popc 6 7),
   (32, 0x04183808, .clz 6 7),
   (32, 0x04183809, .brev 6 7),
   (32, 0x0408080A, .mov 2 1),
   (32, 0x06040807, .iaddi 1 1 7),
   (32, 0x060817FD, .iaddi 2 2 0x7FD),
   (32, 0x08204C04, .andi 8 9 0x404),
   (32, 0x0A204C04, .ori 8 9 0x404),
   (32, 0x0C204C04, .xori 8 9 0x404),
   (32, 0x0E102807, .shli 4 5 7),
   (32, 0x0E102A1F, .shri 4 5 31),
   (32, 0x0E102C09, .sari 4 5 9),
   (32, 0x10080803, .imuli 2 1 3),
   (32, 0x12402189, .isetp 1 0 1 6 2 1)]

theorem test_decode_short_integer : (words_short_integer.all fun x => decodeTableWord x.1 x.2.1 == some x.2.2) = true := by decide +kernel

/-- Tables 8.6, 8.12: FSETP and the short floating-point words. -/
def words_short_float : List (Nat × Nat × Instr) :=
  [(32, 0x15607935, .fsetp 5 2 3 100 13 1),
   (32, 0x160F0850, .fadd 3 97 5),
   (32, 0x160F0851, .fsub 3 97 5),
   (32, 0x160F0852, .fmul 3 97 5),
   (32, 0x160F0853, .fmin 3 97 5),
   (32, 0x160F0854, .fmax 3 97 5),
   (32, 0x160F0855, .hadd2 3 97 5),
   (32, 0x160F0856, .hmul2 3 97 5),
   (32, 0x160F0857, .hmin2 3 97 5),
   (32, 0x160F0858, .hmax2 3 97 5),
   (32, 0x160F0859, .badd2 3 97 5),
   (32, 0x160F085A, .bmul2 3 97 5),
   (32, 0x180F0800, .frcp 3 97),
   (32, 0x180F0801, .frsq 3 97),
   (32, 0x180F0802, .fsqrt 3 97),
   (32, 0x180F0803, .fex2 3 97),
   (32, 0x180F0804, .flg2 3 97),
   (32, 0x180F0805, .fsin 3 97),
   (32, 0x180F0806, .fcos 3 97),
   (32, 0x180F0807, .ftanh 3 97),
   (32, 0x180F0808, .frndRn 3 97),
   (32, 0x180F0809, .frndRz 3 97),
   (32, 0x180F080A, .frndRm 3 97),
   (32, 0x180F080B, .frndRp 3 97),
   (32, 0x180F080C, .i2f 3 97),
   (32, 0x180F080D, .f2i 3 97)]

theorem test_decode_short_float : (words_short_float.all fun x => decodeTableWord x.1 x.2.1 == some x.2.2) = true := by decide +kernel

/-- Tables 8.7, 8.8: the short memory and branch words; five of the memory words are of the example programs. -/
def words_short_memory : List (Nat × Nat × Instr) :=
  [(32, 0x200C2404, .ld 3 4 4 4),
   (32, 0x22084400, .st 2 8 4 0),
   (32, 0x24548CC0, .lds 21 17 4 192),
   (32, 0x26305C80, .sts 12 11 4 128),
   (32, 0x28100500, .ldk 4 0 5 0),
   (32, 0x2988BD04, .ldk 98 23 5 4),
   (32, 0x30400301, .brc ⟨1, false⟩ 3 1),
   (32, 0x31FFFE09, .brc ⟨7, true⟩ 0x1FFE 9),
   (32, 0x31C00200, .bra 2 0)]

theorem test_decode_short_memory : (words_short_memory.all fun x => decodeTableWord x.1 x.2.1 == some x.2.2) = true := by decide +kernel

/-- Table 8.13: the words of OP 0x1A; most are of the example programs. -/
def words_control : List (Nat × Nat × Instr) :=
  [(32, 0x34000000, .ret),
   (32, 0x34100000, .exit),
   (32, 0x34230001, .fuse 3 1),
   (32, 0x34300004, .regang 4),
   (32, 0x3440FFFF, .waitcnt 0 15 15 15 15),
   (32, 0x34412345, .waitcnt 1 2 3 4 5),
   (32, 0x34500041, .barArv 1 4),
   (32, 0x34600009, .barWait 9),
   (32, 0x34700021, .barSync 1 2),
   (32, 0x34800005, .yield 5 false),
   (32, 0x34800020, .yield 0 true),
   (32, 0x34900081, .trap 0x81),
   (32, 0x34A0BEEF, .brk 0xBEEF),
   (32, 0x34B08001, .sleep 0x8001),
   (32, 0x34C00003, .setprio 3),
   (32, 0x34D00013, .fence 3 2)]

theorem test_decode_control : (words_control.all fun x => decodeTableWord x.1 x.2.1 == some x.2.2) = true := by decide +kernel

/-- R169 to R179: the long integer words; the words of BFE, IADDC, LEA and SEL are of the worked examples. -/
def words_long_integer : List (Nat × Nat × Instr) :=
  [(64, 0x020818407E00E002, .imad ⟨3, true⟩ 2 1 2 3 4),
   (64, 0x040C20607E03C001, .imad64 .always true 2 3 4 6),
   (64, 0x041030007E05C000, .iadd64 .always 2 4 6),
   (64, 0x041030007E05C001, .isub64 .always 2 4 6),
   (64, 0x101008007E07C002, .lea .always 2 false false 8 4 1),
   (64, 0x101008007E07C07F, .lea .always 31 true true 8 4 1),
   (64, 0x020818407E09C0CA, .lop3 .always 0xCA 1 2 3 4),
   (64, 0x020818407E0BC001, .fsh .always true false 0 1 2 3 4),
   (64, 0x020818007E0BC026, .fsh .always false true 9 1 2 3 0),
   (64, 0x102400007E0DC413, .bfe .always 8 4 true true 8 9 0),
   (64, 0x102450007E0DDF84, .bfe .always 63 1 false false 8 9 10),
   (64, 0x102450007E0FC2FA, .bfi .always 5 30 true 8 9 10 0),
   (64, 0x102450B07E0FC000, .bfi .always 0 0 false 8 9 10 11),
   (64, 0x020818407E11C000, .prmt .always 1 2 3 4),
   (64, 0x4C6DF8007E13C000, .sel .always 0 false 38 27 63),
   (64, 0x020818007E13C00B, .sel .always 3 true 1 2 3),
   (64, 0xDEADBEEF7E15D8C0, .movi .always 99 0xDEADBEEF),
   (64, 0x020818407E17C005, .idp4 .always true false true 1 2 3 4),
   (64, 0x020818407E17C002, .idp4 .always false true false 1 2 3 4),
   (64, 0x041030007E19C01F, .iaddc .always 7 true 1 2 4 6),
   (64, 0x061438007E19C071, .iaddc .always 1 false 7 3 5 7),
   (64, 0x020818007E19C0A3, .isubc .always 3 false 2 1 2 3),
   (64, 0x800000017E1BC320, .iaddImm32 .always 100 0x80000001),
   (64, 0x800000017E1BC720, .andImm32 .always 100 0x80000001),
   (64, 0x800000017E1BCB20, .orImm32 .always 100 0x80000001),
   (64, 0x800000017E1BCF20, .xorImm32 .always 100 0x80000001),
   (64, 0x800000017E1BD320, .imulImm32 .always 100 0x80000001)]

theorem test_decode_long_integer : (words_long_integer.all fun x => decodeTableWord x.1 x.2.1 == some x.2.2) = true := by decide +kernel

/-- R205 to R215: the long floating-point words; those of FFMA and of CVT to .e2m1x are of the worked examples. -/
def words_long_float : List (Nat × Nat × Instr) :=
  [(64, 0x061028607E21C164, .ffma .always ⟨2, true, true, false, false, true, false, false⟩ 3 4 5 6),
   (64, 0x004018007E20009B, .ffma ⟨0, false⟩ ⟨1, false, false, true, true, false, true, true⟩ 0 16 3 0),
   (64, 0x020818007E23C1A4, .faddLong .always ⟨3, false, true, false, false, true⟩ 1 2 3),
   (64, 0x3F8000007E23D341, .faddImm .always 77 0x3F800000),
   (64, 0x020818007E23C5A4, .fsubLong .always ⟨3, false, true, false, false, true⟩ 1 2 3),
   (64, 0x3F8000007E23D349, .fsubImm .always 77 0x3F800000),
   (64, 0x020818007E23C9A4, .fmulLong .always ⟨3, false, true, false, false, true⟩ 1 2 3),
   (64, 0x3F8000007E23D351, .fmulImm .always 77 0x3F800000),
   (64, 0x020818007E23CDA4, .fminLong .always ⟨3, false, true, false, false, true⟩ 1 2 3),
   (64, 0x3F8000007E23D359, .fminImm .always 77 0x3F800000),
   (64, 0x020818007E23D1A4, .fmaxLong .always ⟨3, false, true, false, false, true⟩ 1 2 3),
   (64, 0x3F8000007E23D361, .fmaxImm .always 77 0x3F800000),
   (64, 0x020818407E25C256, .hfma2 .always ⟨4, true, false, true, false, 3⟩ 1 2 3 4),
   (64, 0x020818407E27C02A, .bfma2 .always ⟨0, false, true, false, true, 1⟩ 1 2 3 4),
   (64, 0x060800007E29CA00, .cvt .always 5 0 0 0 false 0 0 3 2 0),
   (64, 0x02081C157E29C769, .cvt .always 3 11 2 1 true 2 5 1 2 3),
   (64, 0x020800007E2BC004, .fclass .always 4 1 2)]

theorem test_decode_long_float : (words_long_float.all fun x => decodeTableWord x.1 x.2.1 == some x.2.2) = true := by decide +kernel

/-- R216 to R222: the cross-lane words; those of SCAN, MATCH and VOTE are of the example programs. -/
def words_lanes : List (Nat × Nat × Instr) :=
  [(64, 0x020800007E41D87C, .shfl .always 4 3 true 33 true 1 2 0),
   (64, 0x020818007E41C00A, .shfl .always 2 1 false 0 false 1 2 3),
   (64, 0x000000007E43C663, .vote .always 3 0 3 false 3 false 0),
   (64, 0x120000007E43D1B1, .vote .always 1 2 5 true 0 true 9),
   (64, 0x301C00007E4440E3, .matchLanes ⟨1, false⟩ 3 false false 7 24 7),
   (64, 0x020800007E45C05C, .matchLanes .always 4 true true 2 1 2),
   (64, 0x020800007E47C06A, .redux .always 2 5 true 1 2),
   (64, 0x040400007E49C081, .scan .always 1 0 false true 2 1),
   (64, 0x020800007E4BC589, .qswz .always 1 0xB1 1 2),
   (64, 0x060000007E4DC0E2, .elect .always 2 4 true true 3)]

theorem test_decode_lanes : (words_lanes.all fun x => decodeTableWord x.1 x.2.1 == some x.2.2) = true := by decide +kernel

/-- R227 to R235: the long memory words; most are of the example programs. -/
def words_long_memory : List (Nat × Nat × Instr) :=
  [(64, 0x061000107E61D160, .ldLong .always ⟨4, 1, 3, 0⟩ 3 4 16),
   (64, 0x0E5800007E604000, .ldLong ⟨1, false⟩ ⟨0, 0, 0, 0⟩ 7 22 0),
   (64, 0x12B000007E631000, .stLong ⟨4, false⟩ ⟨4, 0, 0, 0⟩ 9 44 0),
   (64, 0xBE7800007E629260, .stLong ⟨2, false⟩ ⟨4, 2, 3, 0⟩ 95 30 0),
   (64, 0x0413FFF07E63D418, .stLong .always ⟨5, 0, 0, 3⟩ 2 4 0x3FFF0),
   (64, 0x020870047E65D15F, .ldsLong .always ⟨4, 1, 2, 0x1F, 3⟩ 1 2 0x1004),
   (64, 0x080BC0087E67DA21, .stsLong .always ⟨6, 2, 1, 1, 0x1E⟩ 4 2 8),
   (64, 0x387AF9D07E688EB4, .atom ⟨2, false⟩ ⟨7, 1, 3, 1⟩ 28 30 95 29),
   (64, 0x006CD0007E6A8004, .atoms ⟨2, false⟩ ⟨0, 0, 0, 1⟩ false 0 27 26 0 0),
   (64, 0x02081FC47E6BCC06, .atoms .always ⟨6, 0, 0, 1⟩ true 1 2 3 0x1F 2),
   (64, 0x008900007E6CC004, .red ⟨3, false⟩ ⟨0, 0, 0, 1⟩ 34 32 0),
   (64, 0x001800407E6FC011, .pref .always 0 0 2 true 6 64),
   (64, 0x001800807E71C000, .cctlInv .always 6 128),
   (64, 0x001800807E71C400, .cctlDemote .always 6 128),
   (64, 0x000000007E71C800, .cctlInvall .always),
   (64, 0x02080FFE7E73CC00, .ldkLong .always 3 1 2 0xFFE)]

theorem test_decode_long_memory : (words_long_memory.all fun x => decodeTableWord x.1 x.2.1 == some x.2.2) = true := by decide +kernel

/-- R188, R195 to R200, R237 to R249, R317: the words of engine commands, rings and launches; those of CPY, EMIT, SPLAT and GETSR are of the example programs. -/
def words_engines : List (Nat × Nat × Instr) :=
  [(64, 0xD18B56407E804480, .cpy ⟨1, false⟩ 1 0 true 0 104 98 106 100),
   (64, 0xC98B08007E83D340, .coll .always 2 1 2 4 100 98 97),
   (64, 0xC38C00007E85CC00, .publish .always 3 97 99),
   (64, 0xC38B20007E87C000, .shdw .always 97 98 100),
   (64, 0x0A0000007E89C006, .stageAcq .always 3 5),
   (64, 0x001400007E89C005, .stageRel .always 2 5),
   (64, 0xCD8800007EE04006, .splatRun ⟨1, false⟩ 3 102 98),
   (64, 0xCD8800007EE1C009, .splatBwd .always 4 102 98),
   (64, 0x120000007EE3C02C, .rtt .always 2 5 9),
   (64, 0x024000007EF1C000, .launch .always 1 16),
   (64, 0x3C0088007EF3C000, .emit .always 30 0 17),
   (64, 0x020800007EF5C000, .glaunch .always 1 2),
   (64, 0x020800007EF7C000, .gcancelDrain .always 1 2),
   (64, 0x020800007EF7C001, .gcancelKill .always 1 2),
   (64, 0x020000007EF9C000, .getsr .always 0 1),
   (64, 0x002400007EFBC01D, .setsr .always 0x1D 9),
   (64, 0x002400007EFDC04D, .brx .always 77 9),
   (64, 0x002000007EFFC000, .joinBlock .always 8),
   (64, 0xFFFFFE057F002000, .brl ⟨0, true⟩ 0xFFFFFE 5),
   (64, 0x123456077F03C000, .call .always 0x123456 7)]

theorem test_decode_engines : (words_engines.all fun x => decodeTableWord x.1 x.2.1 == some x.2.2) = true := by decide +kernel

/-- Tables 13.2 to 13.8, 14.9, R295, R297: the words of the cube, ray and texture instructions; CUBE, CLDB, CARD and RAYT are of the worked examples. -/
def words_cube_rays : List (Nat × Nat × Instr) :=
  [(64, 0x110A01007EA1C908, .cube .always ⟨2, 2, 0, false, true, false, 0⟩ ⟨2, 2, 5, 0, 8, 0⟩),
   (64, 0x008211007EA1C008, .cube .always ⟨0, 0, 0, false, true, false, 0⟩ ⟨0, 1, 1, 1, 8, 0⟩),
   (64, 0xFCC27C9E7EA1D276, .cube .always ⟨4, 4, 3, true, false, true, 2⟩ ⟨31, 9, 33, 7, 100, 30⟩),
   (64, 0x041200007EA3C000, .cldb .always ⟨0, 0, false, false, 0, 1, 1, 4, 0⟩),
   (64, 0xFC3F44007EA3CEE0, .cldb .always ⟨3, 2, true, true, 2, 63, 3, 30, 17⟩),
   (64, 0x00A800007EA5CA00, .card .always 2 true false 0 0 1 40),
   (64, 0x111400007EA5D318, .card .always 4 true true 3 2 2 20),
   (64, 0x188800007EA7C800, .cawr .always 2 3 1 8),
   (64, 0x090D28907EA9C9E0, .casts .always 2 false true true 3 ⟨1, 2, 3, 4⟩ 20 9),
   (64, 0x090D28007EABCC00, .calds .always 3 false 0 ⟨1, 2, 3, 4⟩ 20),
   (64, 0x000012007EADC000, .cazeroMask .always 9),
   (64, 0x090D00007EADC001, .cazeroTile .always ⟨1, 2, 3, 4⟩),
   (64, 0x200320007EC1CBFC, .rayt .always false true false 0xFF 16 0 100),
   (64, 0x202310007EC1D604, .rayt .always true false true 0x81 16 8 98),
   (64, 0x020818007EC3C000, .raya .always 1 2 3),
   (64, 0x082310007EC5D400, .tex .always 2 true 4 8 98),
   (64, 0x082310007EC7C700, .texg .always true 3 4 8 98),
   (64, 0x082310007EC9C400, .tld .always true 4 8 98),
   (64, 0x082310007ECBC000, .texq .always 4 8 98)]

theorem test_decode_cube_rays : (words_cube_rays.all fun x => decodeTableWord x.1 x.2.1 == some x.2.2) = true := by decide +kernel

/-! ### Results -/

/-- A part of a wave of 64 lanes in issue: context 0 with address space 1, page 0 in the TLB, every register zero. -/
def base : State := (State.reset.withFetchWord 32 0).aim 1 0

/-- Registers written (lane, field, value) before the chain issues. -/
def given (s : State) (l : List (Nat × Nat × Word)) : State :=
  let rf := l.foldl (fun (rf : RegFile) x => rf.write x.1 x.2.1 x.2.2) s.wave.rf
  { s with wave := { s.wave with rf := rf }, src := rf }

/-- The same register of several lanes from lane 0 upward. -/
def column (r : Nat) (xs : List Word) : List (Nat × Nat × Word) := xs.zipIdx.map fun x => (x.2, r, x.1)

/-- Lanes active. -/
def active (s : State) (m : BitVec 64) : State :=
  { s with
    iss := { s.iss with lanes := m }
    wave := { s.wave with parts := s.wave.parts.map fun p => { p with masks := m } } }

/-- A wave of another width, all of whose quads are in the part. -/
def width (s : State) (n : Nat) : State :=
  let m := BitVec.ofNat 16 (2 ^ (n / 4) - 1)
  active { s with
    iss := { s.iss with members := m }
    wave := { s.wave with width := n, parts := s.wave.parts.map fun p => { p with members := m } } } (BitVec.ofNat 64 (2 ^ n - 1))

/-- The state after an instruction. -/
def after (i : Instr) (s : State) : State :=
  match exec i s with
  | .next t => t
  | _ => s

/-- A register of lanes 0 to `n` - 1 after an instruction. -/
def regs (i : Instr) (s : State) (r n : Nat) : List Word := (List.range n).map fun l => (after i s).wave.rf.read l r

/-- A register field of one lane, with two sources. -/
def two (i : Instr) (x y : Word) : Word := (after i (given (active base 1) [(0, 1, x), (0, 2, y)])).wave.rf.read 0 3

/-- R64, the manual's example: `iaddi k5, v0, 1` with lanes 1 and 3 active. -/
theorem test_k_lowest : (after (.iaddi 101 0 1) (given (active base 0xA) (column 0 [10, 11, 12, 13]))).wave.rf.k 0 5 = 12 := by
  decide +kernel

/-- R166, by hand: a shift by 32 or more gives 0, or the sign. R165: the high words of -1 times 2. -/
theorem test_integer : [two (.shl 3 1 2) 1 32, two (.shr 3 1 2) 0x80000000 33, two (.sar 3 1 2) 0x80000000 40, two (.shl 3 1 2) 1 31,
    two (.imulh 3 1 2) 0xFFFFFFFF 2, two (.imulhu 3 1 2) 0xFFFFFFFF 2, two (.iabsd 3 1 2) 0x80000000 0x7FFFFFFF,
    two (.imin 3 1 2) 0xFFFFFFFF 1, two (.iminu 3 1 2) 0xFFFFFFFF 1, two (.clz 3 1) 0 0, two (.brev 3 1) 1 0,
    two (.sari 3 1 31) 0x80000000 0, two (.andn 3 1 2) 0xFF 0x0F]
  = [0, 0, 0xFFFFFFFF, 0x80000000, 0xFFFFFFFF, 1, 0xFFFFFFFF, 0xFFFFFFFF, 1, 32, 0x80000000, 0xFFFFFFFF, 0xF0] := by
  decide +kernel

/-- The 64-bit addition of the manual (Table 9.6). -/
theorem test_carry :
    let s := given (active base 1) [(0, 4, 0xFFFFFFF0), (0, 5, 1), (0, 6, 0x20), (0, 7, 2)]
    let t := after (.iaddc .always 7 true 1 2 4 6) s
    let u := after (.iaddc .always 1 false 7 3 5 7) { t with src := t.wave.rf }
    (u.wave.rf.read 0 2, u.wave.rf.p 0 1, u.wave.rf.read 0 3) = (0x10, true, 4) := by decide +kernel

/-- The manual's BFE example; a predicate guard that fails writes nothing. -/
theorem test_bfe : two (.bfe .always 8 4 true true 3 1 0) 0xAB0 0 = 0xFFFFFFAB ∧ two (.bfe ⟨0, false⟩ 8 4 true true 3 1 0) 0xAB0 0 = 0 := by
  decide +kernel

/-- The manual's FFMA example. -/
theorem test_ffma :
    let run := fun c => (after (.ffma .always ⟨2, true, true, false, false, true, false, false⟩ 3 4 5 6)
      (given (active base 1) [(0, 4, 0x3FC00000), (0, 5, 0xC0000000), (0, 6, c)])).wave.rf.read 0 3
    run 0x40900000 = 0x3F800000 ∧ run 0x40500000 = 0x3E800000 := by decide +kernel

/-- R211, the manual's examples: FRND and F2I. -/
theorem test_round : [two (.frndRn 3 1) 0xC0200000 0, two (.frndRn 3 1) 0xBE800000 0, two (.f2i 3 1) 0xC039999A 0,
    two (.f2i 3 1) 0x4F32D05E 0] = [0xC0000000, 0x80000000, 0xFFFFFFFE, 0x7FFFFFFF] := by decide +kernel

/-- Table 5.3: conversions of 1 + 2^-8, 500 and 70,000. -/
theorem test_cvt : [two (.cvt .always 2 0 1 0 false 0 0 3 1 0) 0x3F808000 0, two (.cvt .always 2 0 4 0 false 0 0 3 1 0) 0x3F808000 0,
    two (.cvt .always 3 0 1 0 false 0 0 3 1 0) 0x43FA0000 0, two (.cvt .always 3 0 1 2 false 0 0 3 1 0) 0x43FA0000 0,
    two (.cvt .always 3 0 2 0 false 0 0 3 1 0) 0x43FA0000 0, two (.cvt .always 1 0 1 0 false 0 0 3 1 0) 0x4788B800 0,
    two (.cvt .always 1 0 1 2 false 0 0 3 1 0) 0x4788B800 0]
  = [0x3F80, 0x3F81, 0x7F, 0x7E, 0x7E, 0x7C00, 0x7BFF] := by decide +kernel

/-- R215, the manual's example of a block. -/
theorem test_cvt_block : regs (.cvt .always 5 0 0 0 false 0 0 3 2 0)
      (given (width base 32) (column 2 [0x40A00000, 0x3E99999A, 0xC0300000, 0x3F333333, 0x409CCCCD])) 3 1
    = [0x00081D18] := by decide +kernel

/-- Table 10.10. -/
theorem test_lanes :
    let s := given (active (width base 8) 0xDB) (column 1 [1, 2, 3, 4, 5, 6, 7, 8])
    regs (.scan .always 1 0 false true 2 1) s 2 8 = [0, 1, 0, 3, 7, 0, 12, 19]
      ∧ regs (.shfl .always 1 1 true 1 false 3 1 0) s 3 8 = [1, 1, 0, 3, 4, 0, 6, 7]
      ∧ regs (.redux .always 1 0 false 4 1) s 4 8 = [27, 27, 0, 27, 27, 0, 27, 27]
      ∧ (List.range 8).map (fun l => (after (.elect .always 1 1 false false 0) s).wave.rf.p l 1)
        = [true, false, false, false, false, false, false, false] := by decide +kernel

/-- R233, the manual's example of an atomic add by four lanes. -/
theorem test_atom :
    let s := given (active base 0xF) (column 4 [0x200, 0x200, 0x200, 0x200] ++ column 6 [1, 2, 3, 4])
    let t := after (.atom .always ⟨0, 0, 3, 0⟩ 2 4 6 0) { s with mem := Cells.write s.mem 0x200 [10] }
    let u := after (.memOpComplete 1 1) t
    t.readNat 0x200 4 = 20 ∧ (List.range 4).map (fun l => u.wave.rf.read l 2) = [10, 11, 13, 16] := by decide +kernel

/-- R92, R93, R225, by hand: a store of lane 1 and a load of it, with their effects at completion. -/
theorem test_store_load :
    let s := given (active base 2) [(1, 4, 0x100), (1, 3, 0x12345678)]
    let t := after (.st 3 4 4 4) s
    let u := after (.memOpComplete 1 1) t
    let v := after (.memOpComplete 1 2) (after (.ld 9 4 1 8) { u with src := u.wave.rf })
    t.readNat 0x110 4 = 0 ∧ u.readNat 0x110 4 = 0x12345678
      ∧ (after (.memOpComplete 1 2) (after (.ld 9 4 3 8) { u with src := u.wave.rf })).wave.rf.read 1 9 = 0x5678
      ∧ v.wave.rf.read 1 9 = 0 := by decide +kernel

/-- Table 13.11: the CARD of row 16, as it is written. -/
theorem test_card :
    let cells := Cells.write [] (256 * 16 + 32) ([0x40E00000, 0xC0400000, 0x447A0000, 0x3E99999A, 0x7FC00000] : List Word)
    let s := width base 8
    let t := after (.card .always 4 true true 3 2 2 20)
      (given { s with cores := s.cores.upd 0 fun c => { c with acc := cells } } [(0, 99, 0xFFFFFFFE), (4, 99, 0xFFFFFFFE)])
    let u := after (.accMoveBegin 0) { t with cycle := 2 }
    let v := after (.accMoveWrite 0) { u with cycle := 100 }
    (List.range 4).map (fun r => v.wave.rf.read 0 (20 + r)) = [0x1A78003E, 0x7F, 0, 0] ∧ v.wave.ops = [] := by decide +kernel

/-- Table 8.13, R180: a branch back by two from index 30; R183: a whole wave's EXIT. -/
theorem test_branch_exit : (after (.bra 0x1FFE 0) base).part.pc = 28 ∧ (after .exit base).wave.exited = BitVec.allOnes 64 := by
  decide +kernel

/-- R70, Table 4.4: SR_LANE and SR_WIDTH; R71: the cycle count latches its high half. -/
theorem test_getsr : regs (.getsr .always 0 1) base 1 3 = [0, 1, 2] ∧ regs (.getsr .always 3 1) base 1 1 = [64] := by
  decide +kernel

/-- R368, R457: boot step 1 passes; a step that fails twice stops boot. -/
theorem test_boot :
    let fail : BootOutcome := ⟨false, 7, 1, [], [], 0, 0, 1, 0, 0, []⟩
    (after (.bootStep { fail with passed := true }) State.reset).fw.step = 2
      ∧ (after (.bootStep fail) (after (.bootStep fail) State.reset)).fw.stuck = true := by decide +kernel

/-- R90, R136, R143: the NOP fetched at index 30 moves its part on. -/
theorem test_step_nop : (match step (State.reset.withFetchWord 32 0) with
    | .next t => (t.wave.part 0).pc == 31
    | _ => false) = true := by decide +kernel

/-! ### States that meet the hypotheses of the statements: tests of a hypothesis that a state fixes -/

def mappedB (s : State) (va : Nat) (n : Need) : Bool := (s.entryOf va).any fun e => grants e.pte n && (!n.w || pteD e.pte)

theorem mapped_of {s : State} {va : Nat} {n : Need} (h : mappedB s va n = true) : s.Mapped va n := by
  obtain ⟨e, he, h⟩ := (Option.any_eq_true ..).mp h
  cases hw : n.w <;> simp_all [State.Mapped]

def loadableB (s : State) (va n : Nat) : Bool :=
  canonical va && va % n == 0 && mappedB s va ⟨true, false, false, false⟩
    && ((lineOf (s.core s.wg.core) (s.ctx s.wg.ctx).asid va).all fun l => l.readable)

theorem loadable_of {s : State} {va n : Nat} (h : loadableB s va n = true) : s.Loadable va n := by
  simp only [loadableB, Bool.and_eq_true, beq_iff_eq] at h
  exact ⟨h.1.1.1, h.1.1.2, mapped_of h.1.2, fun l hl => by simpa [hl] using h.2⟩

def storableB (s : State) (va n : Nat) (need : Need) : Bool := canonical va && va % n == 0 && mappedB s va need

theorem storable_of {s : State} {va n : Nat} {need : Need} (h : storableB s va n need = true) : s.Storable va n need := by
  simp only [storableB, Bool.and_eq_true, beq_iff_eq] at h
  exact ⟨h.1.1, h.1.2, mapped_of h.2⟩

def agreesB (s : State) (va : Nat) : Bool :=
  (lineOf (s.core s.wg.core) (s.ctx s.wg.ctx).asid va).all fun l =>
    l.writable && l.pa * 128 + va % 128 == s.paOf va

theorem lineAgrees_of {s : State} {va : Nat} (h : agreesB s va = true) : s.LineAgrees va := fun l hl => by
  simpa [agreesB, hl, Option.all_some, Bool.and_eq_true, beq_iff_eq] using h

def writtenB (s : State) (ctx va : Nat) : Bool :=
  match s.walk ctx va with
  | .leaf pte _ _ => pte &&& 0x300 == 0x300
  | _ => true

theorem written_of {s : State} {ctx va : Nat} (h : writtenB s ctx va = true) : s.Written ctx va := fun pte a level hw => by
  simpa [writtenB, hw] using h

/-- The fault queue of a context takes its next record. -/
def roomB (s : State) (cb e w : Nat) : Bool :=
  let c := s.ctx s.wg.ctx
  writtenB s s.wg.ctx c.faultq && writtenB s s.wg.ctx (c.faultq + 64 * (1 + w % (2 ^ c.faultLog - 1)))
    && decide (s.ctxPa s.wg.ctx c.faultq = some cb ∧ w = s.readNat cb 4
      ∧ (w + 2 ^ 32 - s.readNat (cb + 4) 4) % 2 ^ 32 ≠ 2 ^ c.faultLog - 1
      ∧ s.ctxPa s.wg.ctx (c.faultq + 64 * (1 + w % (2 ^ c.faultLog - 1))) = some e
      ∧ c.held = [] ∧ c.poolSize = 0 ∧ isRegSpace cb = false ∧ isRegSpace e = false ∧ (e + 64 ≤ cb ∨ cb + 16 ≤ e))

theorem room_of {s : State} {cb e w : Nat} (h : roomB s cb e w = true) : s.RecordRoom cb e w := by
  simp only [roomB, Bool.and_eq_true, decide_eq_true_eq] at h
  exact ⟨written_of h.1.1, written_of h.1.2, h.2⟩

def engB (s : State) (sect ctx va n : Nat) (need : Need) : Bool :=
  canonical va && va % n == 0 && (tlbFind (s.sect sect).tlb (s.ctx ctx).asid va).any fun e =>
    grants e.pte need && (!need.w || pteD e.pte)

theorem engMapped_of {s : State} {sect ctx va n : Nat} {need : Need} (h : engB s sect ctx va n need = true) :
    s.engMapped sect ctx va n need := by
  simp only [engB, Bool.and_eq_true, beq_iff_eq] at h
  obtain ⟨e, he, h'⟩ := (Option.any_eq_true ..).mp h.2
  exact ⟨h.1.1, h.1.2, e, he, by cases hw : need.w <;> simp_all⟩

theorem engReadable_of {s : State} {sect ctx va n : Nat}
    (h : (engB s sect ctx va n ⟨true, false, false, true⟩ && !s.poisoned (s.engPa sect ctx va) n) = true) :
    s.engReadable sect ctx va n := by
  simp only [Bool.and_eq_true, Bool.not_eq_true'] at h
  exact ⟨engMapped_of h.1, h.2⟩

def rtB (s : State) (va n : Nat) : Bool :=
  canonical va && decide (va % 2 ^ 14 + n ≤ 2 ^ 14) && mappedB s va ⟨true, false, false, false⟩ && !s.poisoned (s.paOf va) n
    && !isRegSpace (s.paOf va) && (List.range n).all fun i =>
      (lineOf (s.core s.wg.core) (s.ctx s.wg.ctx).asid (va + i)).all fun l =>
        l.readable && !l.bad.getLsbD ((va + i) % 128 / 32)
          && (l.data.drop ((va + i) % 128)).head? == some (s.byteAt (s.paOf va + i))

theorem rtReadable_of {s : State} {va n : Nat} (h : rtB s va n = true) : s.RtReadable va n := by
  simp only [rtB, Bool.and_eq_true, Bool.not_eq_true', decide_eq_true_eq, List.all_eq_true, List.mem_range] at h
  refine ⟨h.1.1.1.1.1, h.1.1.1.1.2, mapped_of h.1.1.1.2, h.1.1.2, h.1.2, fun i hi l hl => ?_⟩
  have := h.2 i hi
  simp only [hl, Option.all_some, Bool.and_eq_true, Bool.not_eq_true', beq_iff_eq] at this
  exact ⟨this.1.1, this.1.2, this.2⟩

/-- Lanes 0 to 3 active, with the pair v[4:5] at 0x200, 0x204, 0x208 and 0x20C, and words of memory there. -/
def memS : State :=
  let s := given (active base 0xF) (column 4 [0x200, 0x204, 0x208, 0x20C] ++ column 6 [1, 2, 3, 4])
  { s with mem := Cells.write s.mem 0x200 [10, 0, 0, 0, 20, 0, 0, 0, 30] }

/-- The same with a window of 4 KiB. -/
def winS : State :=
  { memS with
    wg := { memS.wg with launch := { memS.wg.launch with scratch := 1 }, scratch := Cells.write [] 0x200 [1, 2, 3, 4, 5] } }

/-- The same after a load has brought its line into the L1. -/
def lineS : State := after (.memOpComplete 1 1) (after (.ld 8 4 4 0) memS)

/-- A workgroup of two cores, of which the second has exited. -/
def pairS : State := { winS with wg := { winS.wg with launch := { winS.wg.launch with cw := 2 } } }

/-- The same with a split on a miss, and the line of quad 0's addresses in the L1 and that of quad 1's in neither cache. -/
def splitS : State :=
  let s := given (active lineS 0xFF) (column 4 [0x200, 0x204, 0x208, 0x20C, 0x600, 0x604, 0x608, 0x60C])
  { s with wg := { s.wg with launch := { s.wg.launch with splitMiss := true } } }

/-- A load and a store outstanding. -/
def opsS : State := after (.st 6 4 4 0) (after (.ld 8 4 4 0) memS)

/-- Predicates set in one lane list. -/
def preds (s : State) (i : Nat) (ls : List Nat) : State :=
  let rf := ls.foldl (fun (rf : RegFile) l => rf.setP l i true) s.wave.rf
  { s with wave := { s.wave with rf := rf }, src := rf }

/-- A wave of 16 lanes whose p1 holds in lanes 0 to 5. -/
def predS : State := preds (width base 16) 1 [0, 1, 2, 3, 4, 5]

/-- Its quads 0 and 1 in the part in issue, and quads 2 and 3 in another, running. -/
def halfS : State :=
  { predS with
    iss := { predS.iss with members := 3, lanes := 0xFF }
    wave := { predS.wave with parts := [
      { predS.part with members := 3, masks := 0xFF }, { predS.part with entry := 1, members := 0xC, masks := 0xFF00, pc := 40 }] } }

/-- The same, the other part waiting at the FUSE in issue. -/
def meetS : State :=
  { halfS with wave := { halfS.wave with parts := halfS.wave.parts.map fun p =>
      if p.entry = 1 then { p with fws := .fuse, pc := 30, after := some 30, waitId := 7, cls := 3 } else p } }

/-- The same, the other part waiting at the REGANG in issue. -/
def gangS : State :=
  { halfS with wave := { halfS.wave with parts := halfS.wave.parts.map fun p =>
      if p.entry = 1 then { p with fws := .forced, pc := 30, waitId := 2 } else p } }

/-- Its four quads deferred at id 7 to index 50. -/
def stackS : State :=
  let e : DefEntry := ⟨false, 3, 15, 7, 50⟩
  { predS with wave := { predS.wave with quads := [(0, ⟨[e], 0, false, none⟩), (1, ⟨[e], 0, false, none⟩), (2, ⟨[e], 0, false, none⟩), (3, ⟨[e], 0, false, none⟩)] } }

/-- A context with the debug enable, and page tables that map its fault queue of eight entries at 0x2000 to frame 0. -/
def debugS : State :=
  let tables := Cells.write (Cells.write (Cells.write (Cells.write base.mem 0x10000 (leBytes 8 0x14001)) 0x14000 (leBytes 8 0x18001))
    0x18000 (leBytes 8 0x1C001)) 0x1C000 (leBytes 8 0x33F)
  { base with
    mem := tables
    ctxs := base.ctxs.upd 0 fun c => { c with debug := true, ptroot := 0x10000, faultq := 0x2000, faultLog := 3 } }

/-- The same with the page at 0x4000 not present, which lanes 0 and 1 address; and with an entry of the wait table open for it. -/
def npS : State :=
  let s := given (active debugS 3) (column 4 [0x4000, 0x4008])
  { s with mem := Cells.write s.mem 0x1C008 (leBytes 8 0x1001) }
def npJ : State := { npS with sects := npS.sects.upd 0 fun t => { t with waits := t.waits.set 5 ⟨true, true, 1, 0x4000, 0, false, true, false, none⟩ } }

/-- Quad 0 names three targets in v9, of which lanes of a failing guard go on; quad 1 goes on but for two lanes; the others go on. -/
def brxS : State := given predS (column 9 [40, 50, 40, 60, 70, 70, 70, 70, 50, 40, 50, 40])

/-- A workgroup of two waves of 16 lanes with two barriers and a ring of two slots, its wave 0 in focus. -/
def wgS : State :=
  let w := { predS.wave with width := 16 }
  { predS with
    wave := w
    waves := [{ w with id := 2, num := 1, partition := 1 }]
    wg := { predS.wg with
      live := [0, 1]
      launch := { predS.wg.launch with width := 16, waves := 2, barriers := 2, scratch := 4, stagemap := [0, 1], rings := [⟨true, 2, 256, 0⟩] } } }

/-- The slot of ring 0 at stage 0's cursor taken by the wave in focus. -/
def heldS : State := { wgS with wg := { wgS.wg with slots := wgS.wg.slots.set 0 ⟨true, 0, some 1, false⟩ } }

/-- The wave's part waits at the FUSE of index 30 with its class's count run out; a part in FORCED beside it; a quad with nine entries. -/
def waitS : State :=
  { debugS with
    wg := { debugS.wg with launch := { debugS.wg.launch with fusetab := [16, 32, 64], scratch := 1, divN := 4 } }
    wave := { debugS.wave with
      quads := [(3, ⟨List.replicate 9 ⟨false, 1, 3, 7, 50⟩, 0, false, none⟩)]
      parts := [{ debugS.part with entry := 0, members := 1, masks := 0xF, fws := .forced, waitId := 2, clock := 2 ^ 24, pc := 33 },
        { debugS.part with entry := 1, members := 2, masks := 0xF0, fws := .fuse, waitId := 7, cls := 3, clock := 64, after := some 31 },
        { debugS.part with entry := 2, members := 4, masks := 0xF00, hold := .sleep 0, pc := 40 }] } }

/-- A chain that reads v8, which a load that missed holds for quad 0 alone. -/
def missS : State :=
  let s := (State.reset.withFetchWord 32 0x04040807).aim 1 0
  { s with
    wg := { s.wg with launch := { s.wg.launch with splitMiss := true } }
    wave := { s.wave with
      parts := s.wave.parts.map fun p => { p with stalled := 32 }
      ops := [{ (default : Op) with id := 9, group := 9, cls := .ldc, quads := 1, lanes := 0xF, regs := [1], kind := .regs [], missed := true }] } }

/-- A wave whose lanes have all exited, of a grid that knows one workgroup. -/
def doneS : State :=
  { base with
    wave := { base.wave with exited := BitVec.allOnes 64, parts := [] }
    wg := { base.wg with grid := 5 }
    grids := [{ (default : Grid) with id := 5, begun := true }] }

/-! ### States that meet the hypotheses of the statements -/

theorem witness_ShortIntegerResults : ∃ (s : State) (d : Reg) (f : Nat → Word), shortInt s (.iadd 3 1 2) = some (d, f) ∧ s.act ≠ [] :=
  ⟨base, _, _, rfl, by decide +kernel⟩

/-- Both clauses at the ends of COMB, COND and TYPE, a v pair and the last k pair. -/
theorem witness_ComparisonResults :
    (∃ f : Nat → Bool, ((2 : BitVec 2).toNat < 3 ∧ (5 : BitVec 4).toNat < 6 ∧ (2 ≤ (3 : BitVec 2).toNat → (94 : Reg).toNat % 2 = 0 ∧ (126 : Reg).toNat % 2 = 0))
      ∧ ∀ l, f l = true ↔ combHolds 2 (base.src.p l 7) (intHolds 5 (base.typed 3 94 l) (base.typed 3 126 l)))
    ∧ ∃ f : Nat → Bool, ((0 : BitVec 2).toNat < 3 ∧ (13 : BitVec 4).toNat < 14 ∧ (2 : BitVec 2).toNat < 3)
      ∧ ∀ l, f l = true ↔ combHolds 0 (base.src.p l 0) (floatHolds 13 (base.floatTyped 2 1 l) (base.floatTyped 2 127 l)) := by
  classical
  exact ⟨⟨fun l => decide (combHolds 2 (base.src.p l 7) (intHolds 5 (base.typed 3 94 l) (base.typed 3 126 l))), by decide, by simp⟩,
    ⟨fun l => decide (combHolds 0 (base.src.p l 0) (floatHolds 13 (base.floatTyped 2 1 l) (base.floatTyped 2 127 l))), by decide, by simp⟩⟩

theorem witness_LongIntegerResults : ∃ (s : State) (g : Guard) (d : Reg) (f : Nat → Word),
    longInt s (.bfe ⟨7, false⟩ 63 31 true true 127 1 0) = some (g, d, f) ∧ s.actG g ≠ [] :=
  ⟨base, _, _, _, rfl, by decide +kernel⟩

theorem witness_PairAndCarryResults :
    (∃ (s : State) (g : Guard) (d : Reg) (f : Nat → DWord), longInt64 s (.iadd64 .always 94 126 0) = some (g, d, f))
    ∧ ∃ (s : State) (g : Guard) (co : BitVec 3) (d : Reg) (t : Nat → Nat), carryForm s (.isubc .always 7 true 7 1 2 3) = some (g, co, d, t) :=
  ⟨⟨base, _, _, _, rfl⟩, ⟨base, _, _, _, _, rfl⟩⟩

theorem witness_ShortFloatResults : ∃ (s : State) (d : Reg) (f : Nat → Word), shortFloat s (.ftanh 3 1) = some (d, f) :=
  ⟨base, _, _, rfl⟩

theorem witness_LongFloatResults : ∃ (s : State) (g : Guard) (d : Reg) (f : Nat → Word),
    longFloat s (.fclass .always 4 1 2) = some (g, d, f) ∧ (longFloat s (.faddLong .always ⟨4, true, true, true, true, true⟩ 1 2 3)).isSome :=
  ⟨base, _, _, _, rfl, rfl⟩

/-- A pair to a 64-bit format, an element of a block, and a block of 32 lanes. -/
theorem witness_ConversionResults : cvtLegal 13 12 4 1 true 94 126 ∧ cvtLegal 2 5 0 0 false 1 2
    ∧ ((2 : BitVec 4).toNat < 3 ∧ (4 : BitVec 3).toNat < 5 ∧ (width base 32).WidthMet 3) := by
  unfold cvtLegal State.WidthMet; decide +kernel

theorem witness_ExactValuesRoundToThemselves : 0x7E < 2 ^ Fmt.e4m3.width ∧ (Fmt.e4m3.decode 0x7E).isNan = false := by decide +kernel

/-- The least and the greatest width, and an elected lane. -/
theorem witness_ShuffleAndElectResults : (width base 4).WidthMet 0 ∧ base.WidthMet 4
    ∧ ∀ l ∈ (width base 8).actG .always, l ∈ segOf ((width base 8).actG .always) 4 l →
        l / 4 * 4 ∈ segOf ((width base 8).actG .always) 4 l ∧ ∀ j ∈ segOf ((width base 8).actG .always) 4 l, l / 4 * 4 ≤ j := by
  unfold State.WidthMet; decide +kernel

theorem witness_VoteAndMatchResults : base.WidthMet 4 ∧ (94 : Reg).toNat % 2 = 0 ∧ (126 : Reg).toNat % 2 = 0 := by
  unfold State.WidthMet; decide +kernel

theorem witness_ReductionResults : base.WidthMet 4 ∧ (5 : BitVec 3).toNat < 6 := by unfold State.WidthMet; decide +kernel

theorem witness_LoadIssues : ∃ (s : State) (f : LoadForm), s.loadForm (.ldLong .always ⟨4, 1, 5, 3⟩ 8 4 0) f ∧ f.lanes ≠ []
    ∧ (∀ l ∈ f.lanes, s.Loadable (f.addr l) (sizeBytes f.size)) ∧ s.Quiet :=
  ⟨lineS, _, ⟨by unfold sizeFits; decide, by decide, by decide, by decide, rfl⟩, by decide +kernel,
    fun l h => loadable_of ((by decide +kernel : ∀ l ∈ lineS.actG .always, loadableB lineS
      (((lineS.u2 4 l + (0 : BitVec 18).toInt) % 2 ^ 64).toNat) 4 = true) l h), by unfold State.Quiet; decide +kernel⟩

/-- Under the policy `.split miss`: quad 0's line is in the L1 and quad 1's in neither cache. -/
theorem witness_LoadIssues_split : ∃ f : LoadForm, splitS.loadForm (.ldLong .always ⟨4, 0, 0, 0⟩ 8 4 0) f
    ∧ splitS.loadOps f = [[0, 1, 2, 3], [4, 5, 6, 7]] ∧ (∀ l ∈ f.lanes, splitS.Loadable (f.addr l) (sizeBytes f.size)) ∧ splitS.Quiet :=
  ⟨_, ⟨by unfold sizeFits; decide, by decide, by decide, by decide, rfl⟩, by decide +kernel,
    fun l h => loadable_of ((by decide +kernel : ∀ l ∈ splitS.actG .always, loadableB splitS
      (((splitS.u2 4 l + (0 : BitVec 18).toInt) % 2 ^ 64).toNat) 4 = true) l h), by unfold State.Quiet; decide +kernel⟩

/-- A page that is not present, with no entry for it and room for its record, and with one. -/
theorem witness_LoadIssues_absent :
    (∃ f : LoadForm, npS.loadForm (.ld 8 4 4 0) f ∧ npS.Alone ∧ quadsWith (maskOf f.lanes) ≠ 0
      ∧ quadsWith (maskOf f.lanes) &&& ~~~npS.part.members = 0 ∧ npS.entriesFor 1
      ∧ (∀ l ∈ f.lanes, canonical (f.addr l) = true ∧ f.addr l % sizeBytes f.size = 0
        ∧ (f.home = true ∨ lineOf (npS.core npS.wg.core) (npS.ctx npS.wg.ctx).asid (f.addr l) = none)
        ∧ npS.look (sectOf npS.wg.core) npS.wg.ctx (f.addr l) false = .np 0 0x1001
        ∧ f.addr l / pageSize 0 * pageSize 0 = 0x4000
        ∧ waitFind (npS.sect (sectOf npS.wg.core)) (npS.ctx npS.wg.ctx).asid (f.addr l) = none)
      ∧ (let x := (npS.sect (sectOf npS.wg.core)).waits.get 0; !x.used && !x.held && x.answer.isNone) = true
      ∧ npS.RecordRoom 0x2000 0x2040 0)
    ∧ ∃ f : LoadForm, npJ.loadForm (.ld 8 4 4 0) f ∧ npJ.Alone
      ∧ ∀ l ∈ f.lanes, npJ.look (sectOf npJ.wg.core) npJ.wg.ctx (f.addr l) false = .np 0 0x1001
        ∧ waitFind (npJ.sect (sectOf npJ.wg.core)) (npJ.ctx npJ.wg.ctx).asid (f.addr l) = some 5 :=
  ⟨⟨_, ⟨by unfold sizeFits; decide, by decide, rfl⟩, by unfold State.Alone State.InFocus; decide +kernel, by decide +kernel, by decide +kernel,
      by unfold State.entriesFor; decide +kernel, by decide +kernel, by decide +kernel, room_of (by decide +kernel)⟩,
    ⟨_, ⟨by unfold sizeFits; decide, by decide, rfl⟩, by unfold State.Alone State.InFocus; decide +kernel, by decide +kernel⟩⟩

/-- LDK ends at byte 4,096 of the parameter block. -/
theorem witness_LoadIssues_ldk : ∃ (s : State) (f : LoadForm), s.loadForm (.ldk 8 9 6 255) f ∧ f.lanes ≠ []
    ∧ (∀ l ∈ f.lanes, s.Loadable (f.addr l) (sizeBytes f.size)) ∧ s.Quiet :=
  ⟨memS, _, ⟨by unfold sizeFits; decide, by decide +kernel, rfl⟩, by decide +kernel,
    fun l h => loadable_of ((by decide +kernel : ∀ l ∈ memS.act, loadableB memS
      ((memS.wg.launch.param + (memS.u 9 l + (255 : BitVec 8).toNat * sizeBytes 6) % 2 ^ 32) % 2 ^ 64) 16 = true) l h),
    by unfold State.Quiet; decide +kernel⟩

/-- A line in the L1, and none. -/
theorem witness_LoadReadsLineOrHome : (lineS.Mapped 0x200 ⟨true, false, false, false⟩ ∧ lineS.Quiet
      ∧ (lineOf (lineS.core lineS.wg.core) (lineS.ctx lineS.wg.ctx).asid 0x200).isSome = true)
    ∧ memS.Mapped 0x200 ⟨true, false, false, false⟩ ∧ memS.Quiet ∧ lineOf (memS.core memS.wg.core) (memS.ctx memS.wg.ctx).asid 0x200 = none :=
  ⟨⟨mapped_of (by decide +kernel), by unfold State.Quiet; decide +kernel, by decide +kernel⟩,
    mapped_of (by decide +kernel), by unfold State.Quiet; decide +kernel, by decide +kernel⟩

/-- With a writable line of the addresses in the L1. -/
theorem witness_StoreIssues : ∃ (s : State) (f : LoadForm), s.storeForm (.stLong .always ⟨4, 2, 5, 3⟩ 6 4 0) f ∧ f.lanes ≠ []
    ∧ (∀ l ∈ f.lanes, s.Storable (f.addr l) (sizeBytes f.size) ⟨false, true, false, false⟩ ∧ s.LineAgrees (f.addr l)) ∧ s.Quiet
    ∧ (lineOf (s.core s.wg.core) (s.ctx s.wg.ctx).asid 0x200).isSome = true :=
  ⟨lineS, _, ⟨by unfold sizeFits; decide, by decide, by decide, by decide, rfl⟩, by decide +kernel,
    fun l h => ⟨storable_of ((by decide +kernel : ∀ l ∈ lineS.actG .always, storableB lineS
      (((lineS.u2 4 l + (0 : BitVec 18).toInt) % 2 ^ 64).toNat) 4 ⟨false, true, false, false⟩ = true) l h),
      lineAgrees_of ((by decide +kernel : ∀ l ∈ lineS.actG .always, agreesB lineS
      (((lineS.u2 4 l + (0 : BitVec 18).toInt) % 2 ^ 64).toNat) = true) l h)⟩,
    by unfold State.Quiet; decide +kernel, by decide +kernel⟩

/-- The window's last bytes; a member of the cluster that has exited. -/
theorem witness_ScratchAccessesIssue :
    (∃ f : ScratchForm, winS.ldsForm (.lds 8 9 6 255) f ∧ f.lanes ≠ [] ∧ winS.InWindow f (sizeBytes f.size)
      ∧ ∀ w, winS.hopWg f.dx f.dy = some w → pendingSteps winS.allWaves (w + 1) = [])
    ∧ (∃ f : ScratchForm, pairS.ldsForm (.ldsLong .always ⟨4, 1, 2, 1, 0⟩ 8 4 0) f ∧ f.lanes ≠ [] ∧ pairS.InWindow f (sizeBytes f.size)
      ∧ ∀ w, pairS.hopWg f.dx f.dy = some w → pendingSteps pairS.allWaves (w + 1) = [])
    ∧ ∃ f : ScratchForm, pairS.stsForm (.stsLong .always ⟨4, 2, 5, 1, 0⟩ 6 4 0) f ∧ f.lanes ≠ [] ∧ pairS.InWindow f (sizeBytes f.size)
      ∧ pairS.Quiet := by
  refine ⟨⟨_, ⟨by unfold sizeFits; decide, rfl⟩, by decide +kernel, by unfold State.InWindow; decide +kernel, ?_⟩,
    ⟨_, ⟨by unfold sizeFits; decide, by decide, by decide, rfl⟩, by decide +kernel, by unfold State.InWindow; decide +kernel, ?_⟩,
    ⟨_, ⟨by unfold sizeFits; decide, by decide, by decide, rfl⟩, by decide +kernel, by unfold State.InWindow; decide +kernel,
      by unfold State.Quiet; decide +kernel⟩⟩
  · intro w h
    have e : winS.hopWg 0 0 = some 1 := by decide +kernel
    cases e.symm.trans h
    decide +kernel
  · intro w h
    have e : pairS.hopWg 1 0 = none := by decide +kernel
    cases e.symm.trans h

/-- CAS of a pair type, and an add of a word. -/
theorem witness_GlobalAtomics :
    (atomLegal ⟨7, 3, 5, 3⟩ 8 10 12 ∧ (2 ≤ (3 : BitVec 2).toNat → (94 : Reg).toNat % 2 = 0) ∧ memS.actG ⟨7, false⟩ ≠ [] ∧ memS.Quiet
      ∧ ∀ l ∈ memS.actG ⟨7, false⟩, memS.Storable (memS.u2 8 l) (atomicBytes 3) ⟨true, true, false, false⟩
        ∧ isRegSpace (memS.paOf (memS.u2 8 l)) = false ∧ memS.poisoned (memS.paOf (memS.u2 8 l)) (atomicBytes 3) = false)
    ∧ atomLegal ⟨12, 2, 3, 1⟩ 4 6 0 ∧ (2 : BitVec 2).getLsbD 0 = false ∧ memS.actG .always ≠ [] ∧ memS.Quiet
      ∧ ∀ l ∈ memS.actG .always, memS.Storable (memS.u2 4 l) (atomicBytes 1) ⟨false, true, false, false⟩ :=
  ⟨⟨by unfold atomLegal; decide, by decide, by decide +kernel, by unfold State.Quiet; decide +kernel,
    fun l h => ⟨storable_of ((by decide +kernel : ∀ l ∈ memS.actG ⟨7, false⟩, storableB memS (memS.u2 8 l) 8
      ⟨true, true, false, false⟩ = true) l h), (by decide +kernel : ∀ l ∈ memS.actG ⟨7, false⟩,
        isRegSpace (memS.paOf (memS.u2 8 l)) = false ∧ memS.poisoned (memS.paOf (memS.u2 8 l)) 8 = false) l h⟩⟩,
    by unfold atomLegal; decide, by decide, by decide +kernel, by unfold State.Quiet; decide +kernel,
    fun l h => storable_of ((by decide +kernel : ∀ l ∈ memS.actG .always, storableB memS (memS.u2 4 l) 4
      ⟨false, true, false, false⟩ = true) l h)⟩

/-- A hop to a member that has exited, and to one that is resident, by instructions that return and that do not. -/
theorem witness_ScratchAtomics_hop :
    let live : State := { pairS with wgs := [{ pairS.wg with id := 2, core := (hopCore pairS.wg 1 0).getD 0 }] }
    (hopCore pairS.wg 1 0).isSome = true ∧ pairS.hopWg 1 0 = none ∧ pairS.Quiet ∧ pairS.actG .always ≠ [] ∧ pairS.wg.id ≠ 0
      ∧ (∀ l ∈ pairS.actG .always, pairS.u 4 l + 4 ≤ 4096 * pairS.wg.launch.scratch ∧ pairS.u 4 l % 4 = 0)
      ∧ live.hopWg 1 0 = some 2 ∧ live.Quiet ∧ pendingSteps live.allWaves 3 = [] ∧ atomsType 3 1 = (1 : BitVec 2).toNat
      ∧ ordAcq 2 = false ∧ ordAcq 3 = true := by
  unfold State.Quiet; decide +kernel

theorem witness_ScratchAtomics : (12 : BitVec 4).toNat < 13 ∧ (5 : BitVec 3).toNat < 6 ∧ (94 : Reg).toNat % 2 = 0 ∧ atomsType 12 1 = (1 : BitVec 2).toNat ∧ winS.actG .always ≠ [] ∧ winS.wg.id ≠ 0
    ∧ (∀ l ∈ winS.actG .always, winS.u 4 l + 4 ≤ 4096 * winS.wg.launch.scratch ∧ winS.u 4 l % 4 = 0)
    ∧ pendingSteps winS.allWaves (winS.wg.id + 1) = [] := by decide +kernel

/-- A load completes while its store waits; the store is the core's oldest. -/
theorem witness_MemoryOperationsComplete :
    (∃ (o : Op) (ws : List RegWrite), opsS.wave.id ≠ 0 ∧ opsS.wave.ops.find? (fun o => o.id == 1) = some o ∧ o.done = false
      ∧ o.kind = .regs ws ∧ (∀ w ∈ opsS.wave.ops, w.release = none) ∧ ∀ w ∈ opsS.waves, w.id ≠ opsS.wave.id)
    ∧ ∃ (o : Op) (steps : List HomeStep), opsS.wave.ops.find? (fun o => o.id == 2) = some o ∧ o.done = false ∧ o.kind = .home steps
      ∧ o.target = 0 ∧ steps ≠ [] ∧ (∀ h ∈ steps, h.rmw = none ∧ isRegSpace h.addr = false)
      ∧ (pendingSteps (opsS.wavesOn (opsS.wgOf opsS.wave.wg).core) 0).filter (fun x => decide (x.2.1 ≤ 2)) = [(opsS.wave.id, 2, steps)] :=
  ⟨⟨_, _, by decide +kernel, rfl, by decide +kernel, rfl, by decide +kernel, by decide +kernel⟩,
    ⟨_, _, rfl, by decide +kernel, rfl, by decide +kernel, by decide +kernel, by decide +kernel, by decide +kernel⟩⟩

theorem witness_PrefetchAndCacheControl : ((5 : BitVec 3).toNat < 6 ∧ (4 : Reg).toNat % 2 = 0 ∧ memS.Quiet
      ∧ ∀ l ∈ memS.actG .always, (memS.entryOf (memS.globalAddr 4 ((3 : BitVec 18).signExtend 64) l)).isSome = true)
    ∧ lineS.actG .always ≠ [] ∧ (∀ l ∈ lineS.actG .always, canonical (((lineS.u2 4 l + (0x20000 : BitVec 18).toInt) % 2 ^ 64).toNat) = true)
    ∧ (lineS.core lineS.wg.core).l1 ≠ [] := by
  unfold State.Quiet; decide +kernel

/-- Every lane taken; no lane taken; one target for a BRX; a RET of four quads. -/
theorem witness_BranchesTakenWhole : predS.InFocus ∧ (∀ l ∈ lanesOf predS.part.lanes, l ∈ predS.actG ⟨7, false⟩)
    ∧ predS.branchForm (.brl ⟨7, false⟩ 5 1) = some (⟨7, false⟩, 35, 1) ∧ predS.actG ⟨2, false⟩ = [] ∧ predS.part.lanes ≠ 0
    ∧ predS.iss.trapped = false ∧ predS.entriesFor ((quadsOf predS.part.members).length - 1) ∧ quadsOf predS.part.members ≠ []
    ∧ (∀ q ∈ quadsOf predS.part.members, ∃ j < 4, (nibble predS.part.masks q).getLsbD j = true)
    ∧ ∀ q ∈ quadsOf predS.part.members, ∀ j < 4, (nibble predS.part.masks q).getLsbD j = true →
        4 * q + j ∈ predS.actG .always ∧ predS.rd 9 (4 * q + j) = 0 := by
  unfold State.InFocus State.entriesFor; decide +kernel

/-- Quad 0 all taken, quad 1 mixed, quads 2 and 3 not taken. -/
theorem witness_DivergentBranches : predS.InFocus ∧ (∃ l ∈ lanesOf predS.part.lanes, l ∉ predS.actG ⟨1, false⟩)
    ∧ predS.actG ⟨1, false⟩ ≠ [] ∧ predS.entriesFor 2
    ∧ ∀ q ∈ quadsOf predS.part.members, hasRoom predS.wg.launch (predS.wave.quads.get q) 1 = true := by
  unfold State.InFocus State.entriesFor; decide +kernel

/-- A CALL in the same state; a BRX whose quads name three targets, two, and one. -/
theorem witness_DivergentBranches_call : predS.iss.trapped = false ∧ brxS.InFocus
    ∧ brxS.entriesFor ((quadsOf brxS.part.members).length - 1)
    ∧ (let target := fun (l : Nat) => if l ∈ brxS.actG ⟨1, false⟩ then brxS.rd 9 l else brxS.iss.next
       target 0 ≠ target 1 ∧ (∀ l < 2, l / 4 ∈ quadsOf brxS.part.members ∧ brxS.part.masks.getLsbD l = true)
        ∧ (∀ q ∈ quadsOf brxS.part.members, ∀ n < 4, hasRoom brxS.wg.launch (brxS.wave.quads.get q) n = true)) := by
  unfold State.InFocus State.entriesFor; decide +kernel

/-- A FUSE that waits, one that completes, and one whose quads divert. -/
theorem witness_FuseActs :
    (halfS.InFocus ∧ (halfS.wave.parts.map Part.entry).Nodup ∧ halfS.part.members ≠ 0
      ∧ (∀ q ∈ quadsOf halfS.part.members, fullStack halfS.wg halfS.wave q = [])
      ∧ (∀ q ∈ halfS.wave.parts.filter (fun q => q.entry != halfS.iss.entry), q.fws = .run) ∧ halfS.wave.live &&& ~~~halfS.part.members ≠ 0)
    ∧ (meetS.InFocus ∧ (meetS.wave.parts.map Part.entry).Nodup
      ∧ (∀ q ∈ meetS.wave.parts.filter (fun q => q.entry != meetS.iss.entry), q.fws = .fuse ∧ q.pc = meetS.iss.pc ∧ q.after = some meetS.iss.next)
      ∧ meetS.wave.live &&& ~~~((meetS.wave.parts.filter fun q => q.entry != meetS.iss.entry).foldl (fun m q => m ||| q.members) meetS.part.members) = 0)
    ∧ stackS.InFocus ∧ ∀ q ∈ quadsOf stackS.part.members, (stackS.wave.quads.get q).spilled = 0
      ∧ (stackS.wave.quads.get q).stack.head? = some ⟨false, 3, 15, 7, 50⟩ := by
  unfold State.InFocus; decide +kernel

/-- A width whose blocks the part covers and one whose it does not, counters at zero, and a yield requested; the other part
waiting at the REGANG in issue, so that the two cover the blocks; a load in flight that a WAITCNT of 0 waits for. -/
theorem witness_PartsWaitAndExit : halfS.InFocus ∧ 4 * 2 ^ (2 : BitVec 3).toNat ≤ halfS.wave.width
    ∧ lacking halfS.wave (4 * 2 ^ 1) halfS.part.members = 0 ∧ lacking halfS.wave (4 * 2 ^ 2) halfS.part.members ≠ 0
    ∧ (halfS.wave.parts.map Part.entry).Nodup ∧ (∀ q ∈ halfS.wave.parts, q.entry ≠ halfS.iss.entry → q.fws = .run)
    ∧ halfS.wave.count halfS.part.members .ldc ≤ 0 ∧ (halfS.ctx halfS.wg.ctx).yieldReq = false ∧ (halfS.ctx halfS.wg.ctx).debug = false
    ∧ (let y := { halfS with ctxs := halfS.ctxs.upd 0 fun c => { c with yieldReq := true } }
       y.InFocus ∧ (y.ctx y.wg.ctx).yieldReq = true ∧ y.act ≠ [])
    ∧ (gangS.InFocus ∧ lacking gangS.wave (4 * 2 ^ 2) gangS.iss.members ≠ 0 ∧ (gangS.wave.parts.map Part.entry).Nodup
      ∧ (∀ q ∈ gangS.wave.parts.filter (fun q => q.entry != gangS.iss.entry), q.fws = .forced ∧ q.pc = gangS.iss.pc)
      ∧ lacking gangS.wave (4 * 2 ^ 2)
          ((gangS.wave.parts.filter fun q => q.entry != gangS.iss.entry).foldl (fun m q => m ||| q.members) gangS.part.members) = 0)
    ∧ opsS.InFocus ∧ opsS.iss.waited = false ∧ (0 : BitVec 4).toNat < opsS.wave.count opsS.iss.members .ldc := by
  unfold State.InFocus; decide +kernel

/-- A fault queue with room for the record. -/
theorem witness_TrapsStopWaves : debugS.InFocus ∧ debugS.wave.stop = none ∧ debugS.iss.trapped = false
    ∧ debugS.iss.parked = false ∧ (debugS.ctx debugS.wg.ctx).debug = true ∧ debugS.RecordRoom 0x2000 0x2040 0 :=
  ⟨by unfold State.InFocus; decide +kernel, by decide +kernel, by decide +kernel, by decide +kernel, by decide +kernel,
    room_of (by decide +kernel)⟩

/-- The wave's last quads, the phase's last arrival and one before it; quads still to come; a BAR.WAIT that waits and one that goes on. -/
theorem witness_BarriersCountAndWait : wgS.InFocus ∧ wgS.Quiet ∧ (1 : BitVec 4).toNat < wgS.wg.launch.barriers ∧ (32 : BitVec 10).toNat ≤ 32
    ∧ arrivalPending wgS.wg wgS.wave 1 = false ∧ wgS.wave.live &&& ~~~(wgS.wave.arrived.get 1 ||| wgS.part.members) = 0
    ∧ (let s := { halfS with wg := wgS.wg }
       s.InFocus ∧ s.Quiet ∧ arrivalPending s.wg s.wave 1 = false ∧ s.wave.live &&& ~~~(s.wave.arrived.get 1 ||| s.part.members) ≠ 0)
    ∧ wgS.part.hold ≠ .passed ∧ (wgS.onPart fun p => { p with hold := .passed }).part.hold = .passed
    ∧ (wgS.onPart fun p => { p with hold := .passed }).InFocus := by
  unfold State.InFocus State.Quiet; decide +kernel

/-- A free slot, and one that the wave holds. -/
theorem witness_RingSlots :
    (wgS.InFocus ∧ wgS.WidthMet (BitVec.ofNat 3 wgS.wave.widthCode) ∧ wgS.wave.widthCode < 5 ∧ (ringOf wgS.wg 0).valid = true
      ∧ wgS.actG .always ≠ [] ∧ (let i := wgS.wg.cursors.get (stageOf wgS.wg wgS.wave)
        (wgS.wg.slots.get i).owner = stageOf wgS.wg wgS.wave ∧ (wgS.wg.slots.get i).full = false))
    ∧ heldS.InFocus ∧ heldS.WidthMet (BitVec.ofNat 3 heldS.wave.widthCode) ∧ (ringOf heldS.wg 0).valid = true ∧ heldS.actG .always ≠ []
      ∧ (heldS.wg.slots.get (heldS.wg.cursors.get (stageOf heldS.wg heldS.wave))).full = true ∧ heldS.Quiet
      ∧ heldS.holds 0 (heldS.u 9 ((heldS.actG .always).headD 0)) = true
      ∧ (∀ w ∈ heldS.allWaves, ∀ p ∈ w.parts, (match p.hold with
        | .ring _ _ => false
        | .got _ => false
        | _ => true) = true) := by
  unfold State.InFocus State.WidthMet State.Quiet; decide +kernel

/-- A load outstanding that a FENCE waits for. -/
theorem witness_FenceOrders_waits : opsS.InFocus ∧ (0 : BitVec 3).toNat < 2 ∧ opsS.wave.count opsS.iss.members .ldc ≠ 0
    ∧ opsS.iss.waited = false := by
  unfold State.InFocus; decide +kernel

/-- A slot free and wanted by none, and one that another part waits for. -/
theorem witness_RingSlots_wanted : (∀ w ∈ wgS.allWaves, ∀ p ∈ w.parts, p.hold = .none)
    ∧ (let s : State := { wgS with waves := wgS.waves.map fun w => { w with parts := w.parts.map fun p => { p with hold := .ring 0 0 } } }
       s.InFocus ∧ ∃ w ∈ s.allWaves, w.wg = s.wg.id ∧ ∃ p ∈ w.parts, p.hold = .ring 0 0) := by
  unfold State.InFocus; decide +kernel

theorem witness_FenceOrders : opsS.InFocus ∧ (5 : BitVec 3).toNat < 6 ∧ (3 : BitVec 3).toNat < 4
    ∧ ((3 : BitVec 3).toNat < 2 → opsS.wave.count opsS.part.members .ldc = 0) ∧ lineS.wave.count lineS.part.members .ldc = 0
    ∧ pendingSteps (opsS.wavesOn opsS.wg.core) 0 ≠ [] ∧ (lineS.core lineS.wg.core).l1 ≠ [] := by
  unfold State.InFocus; decide +kernel

theorem witness_SpecialRegisters : ∃ v : Nat → Word, predS.wave.id ≠ 0 ∧ predS.actG .always ≠ [] ∧ predS.InFocus
    ∧ ∀ l ∈ predS.actG .always, ((0x1F : BitVec 8), v l) ∈ [((0x00 : BitVec 8), nat32 l), (0x1F, nat32 predS.wg.launch.waves)] :=
  ⟨fun _ => nat32 predS.wg.launch.waves, by unfold State.InFocus; decide +kernel⟩

/-- A group whose count has run out exactly, a wait of exactly 2^24 cycles, a split on a miss, a ninth entry, an ended sleep. -/
theorem witness_WaveEvents :
    (waitS.InFocus ∧ waitS.saving = [] ∧ waitS.wave.stop = none
      ∧ (∃ p rest, (waitS.wave.parts.filter fun q => q.fws == .fuse && q.pc == 30) = p :: rest ∧ p.cls ≠ 0 ∧ p.cls ≠ 15
        ∧ waitS.wg.launch.fusetab.getD (p.cls - 1) 0 ≤ p.clock)
      ∧ (waitS.ctx waitS.wg.ctx).debug = true ∧ waitS.part.fws = .forced ∧ 2 ^ 24 ≤ waitS.part.clock ∧ waitS.RecordRoom 0x2000 0x2040 0
      ∧ (waitS.wave.quads.get 3).moves ≠ 0 ∧ pendingSteps waitS.allWaves (waitS.wg.id + 1) = [] ∧ (waitS.wave.part 2).hold = .sleep 0)
    ∧ missS.InFocus ∧ missS.wg.launch.splitMiss = true ∧ missS.wave.awake missS.part = true ∧ 32 ≤ missS.part.stalled
      ∧ (missS.aim missS.wave.id missS.iss.entry).missQuads.isSome = true ∧ missS.entriesFor 1 := by
  refine ⟨⟨by unfold State.InFocus; decide +kernel, rfl, rfl, ⟨_, _, rfl, by decide +kernel, by decide +kernel, by decide +kernel⟩, ?_⟩, ?_⟩
  · exact ⟨by decide +kernel, by decide +kernel, by decide +kernel, room_of (by decide +kernel), by decide +kernel⟩
  · unfold State.InFocus State.entriesFor; decide +kernel

theorem witness_WalksAndRetirement :
    (∃ pte a level, (127 : Nat) < 128 ∧ debugS.liveOfAsid 1 = some 0 ∧ (debugS.ctx 0).asid = 1 ∧ canonical (0x2000#64).toNat = true
      ∧ tlbFind (debugS.sect 127).tlb 1 (0x2000#64).toNat = none ∧ debugS.walk 0 (0x2000#64).toNat = .leaf pte a level
      ∧ isRegSpace a = false ∧ grants pte ⟨true, true, true, true⟩ = true)
    ∧ doneS.wave.id ≠ 0 ∧ doneS.wg.id ≠ 0 ∧ doneS.wave.wg = doneS.wg.id ∧ doneS.wave.live = 0 ∧ doneS.wave.ops = []
      ∧ (∀ w ∈ doneS.waves, w.wg ≠ doneS.wg.id) ∧ doneS.wg.descendant = false ∧ (∃ g ∈ doneS.grids, g.id = doneS.wg.grid)
      ∧ doneS.permits.get (2 * sectOf doneS.wg.core) < 8
      ∧ ∀ m ∈ (doneS.gridOf doneS.wg.grid).messages, m.1 ≠ 2 * sectOf doneS.wg.core :=
  ⟨⟨_, _, _, by decide +kernel, by decide +kernel, by decide +kernel, by decide +kernel, by decide +kernel, rfl, by decide +kernel,
    by decide +kernel⟩, by decide +kernel⟩

/-- A command of wave 1 in the copy engine of section 0: number 7, operation 9, status register k3. -/
def cmdOf (j : Job) : Cmd :=
  { (default : Cmd) with id := 7, job := j, wave := 1, wg := 1, op := 9, quad := 0, reg := 3, taken := true }

/-- The wave in focus with an engine command outstanding, in the copy queue or the splat queue, and memory given. -/
def engS (splat : Bool) (c : Cmd) (mem : List (Nat × List Byte)) : State :=
  { base with
    mem := mem.foldl (fun (m : List Host.Cell) x => Cells.write m x.1 x.2) base.mem
    queues := [(0, { (default : Queue) with engmask := 7 })]
    wave := { base.wave with ops := [{ (default : Op) with id := 9, group := 9, cls := .cpc, quads := 1, lanes := 1, regs := [99], kind := .engine 0 7 }] }
    sects := base.sects.upd 0 fun t => if splat then { t with splatQ := [c] } else { t with copyQ := [c] } }

/-- A layout record of one dimension of 8 words at 0x400, its box of 4. -/
def layoutBytes : List Byte :=
  leBytes 8 0x400 ++ leBytes 4 8 ++ leBytes 4 0 ++ leBytes 4 0 ++ leBytes 4 0 ++ leBytes 4 0 ++ leBytes 4 0 ++ leBytes 4 0
    ++ leBytes 4 0 ++ leBytes 4 0 ++ [3, 0, 0, 0, 0, 0x12, 0, 0] ++ leBytes 4 0 ++ leBytes 8 0

/-- A copy of 4 words from word 2 of that tensor to 16 of the window: not taken, and taken. -/
def cpyJob : Job := .cpy 0 2 none 0x200 [2, 0, 0, 0, 0, 0] 16
def cpyS : State :=
  let s := engS false { cmdOf cpyJob with taken := false } [(0x200, layoutBytes), (0x400, (List.range 32).map fun i => BitVec.ofNat 8 (i + 1))]
  { s with wg := { s.wg with launch := { s.wg.launch with scratch := 1 } } }
def cpyT : State :=
  { cpyS with sects := cpyS.sects.upd 0 fun t => { t with copyQ := [{ cmdOf cpyJob with record := layoutBytes }] } }

/-- A context with tables that map page 0x4000 to frame 0x10000, and a shadow region open there or not. -/
def pagesS (c : Cmd) (open' : Bool) (mem : List (Nat × List Byte)) : State :=
  let s := engS false c ([(0x20000, leBytes 8 0x24001), (0x24000, leBytes 8 0x28001), (0x28000, leBytes 8 0x2C001),
    (0x2C008, leBytes 8 0x1033F)] ++ mem)
  { s with ctxs := s.ctxs.upd 0 fun x => { x with
      ptroot := 0x20000, serial := 4, frames := [0x40000, 0x44000]
      regions := if open' then [⟨0, 4, 0x4000, 1, [(0, 0x48000)]⟩] else [] } }

/-- A collective's record: from 0x300, to 0x4100, two elements. -/
def collBytesW : List Byte := leBytes 8 0x300 ++ leBytes 8 0x4100 ++ leBytes 4 2 ++ leBytes 4 1 ++ leBytes 8 0
def collS : State :=
  let s := pagesS { cmdOf (.coll 0 0 2 3 0x200 0x400) with record := collBytesW } true [(0x300, [5, 0, 0, 0, 6, 0, 0, 0])]
  { s with sects := s.sects.upd 0 fun t => { t with tlb := ⟨1, 0x4000, 0, 0x1033F⟩ :: t.tlb } }
def collPodS : State :=
  let s := pagesS { cmdOf (.coll 0 0 2 4 0x200 0x400) with record := collBytesW, grid := 5 } true []
  { s with grids := [{ (default : Grid) with id := 5, span := [0, 1] }] }

/-- A splat pass of no Gaussians over one pixel: picture at 0x1000, the rest above it. -/
def passBytes (count : Nat) : List Byte :=
  leBytes 8 0x2000 ++ leBytes 4 count ++ leBytes 4 0 ++ (List.range 12).flatMap (fun _ => leBytes 4 0x3F800000)
    ++ leBytes 4 0x3F800000 ++ leBytes 4 0x3F800000 ++ leBytes 4 0 ++ leBytes 4 0 ++ leBytes 2 1 ++ leBytes 2 1
    ++ leBytes 4 0x3F000000 ++ leBytes 4 0x42000000 ++ leBytes 4 0 ++ leBytes 4 0 ++ leBytes 4 1 ++ leBytes 8 0
    ++ leBytes 8 0x1000 ++ leBytes 8 0x1100 ++ leBytes 8 0x1200 ++ leBytes 8 0x1300 ++ leBytes 8 0x1400 ++ leBytes 4 0
    ++ leBytes 4 0 ++ leBytes 8 0 ++ leBytes 8 0 ++ leBytes 16 0
def splatJob : Job := .splat false 3 0x200
def splatS : State := engS true { cmdOf splatJob with taken := false } [(0x200, passBytes 0)]
def splatC : Cmd := { cmdOf splatJob with record := passBytes 0 }
def splatT : State := engS true splatC []
def splatD : Cmd := { splatC with methods := 1, progress := 1 }
def splatU : State := engS true splatD []

/-- Two forms: one whose scope falls back, one whose destination is a pair. -/
theorem witness_EngineCommandsIssue :
    (∃ f, predS.engineForm (.coll .always 0 2 1 0 99 100 102) f) ∧ (∃ f, predS.engineForm (.cpy .always 5 2 false 0 99 100 122 108) f)
      ∧ (∃ f, predS.engineForm (.splatRun .always 2 99 100) f) ∧ (∃ ld rest, predS.actG .always = ld :: rest) ∧ predS.Quiet ∧ predS.InFocus := by
  refine ⟨⟨_, by decide, by decide, by decide, by decide, by unfold kBase; decide, by decide, rfl⟩,
    ⟨_, by decide, by decide, by decide, by unfold kBase; decide, by decide, by decide, by decide, by decide, by decide, rfl⟩,
    ⟨_, by decide, by decide, by unfold kBase; decide, rfl⟩, ⟨_, _, rfl⟩, ?_⟩
  unfold State.Quiet State.InFocus; decide +kernel

theorem witness_EngineCommandsRun_take :
    (∃ c, (cpyS.sect 0).copyQ.find? (fun c => !c.taken && cpyS.runnable c) = some c ∧ c.job = .cpy 0 2 none 0x200 [2, 0, 0, 0, 0, 0] 16
      ∧ cpyS.denied c = false ∧ cpyS.engReadable 0 c.ctx 0x200 64 ∧ { cpyS with queues := [] }.denied c = true
      ∧ ∀ d ∈ (cpyS.sect 0).copyQ ++ (cpyS.sect 0).splatQ, d.id = c.id → d.slot = none)
    ∧ (∃ c, (splatS.sect 0).splatQ.head? = some c ∧ c.taken = false ∧ splatS.runnable c = true ∧ c.job = .splat false 3 0x200
      ∧ splatS.denied c = false ∧ ∀ i < 6, splatS.engReadable 0 c.ctx (0x200 + 32 * i) 32) :=
  ⟨⟨_, rfl, rfl, by decide +kernel, engReadable_of (by decide +kernel), by decide +kernel, by decide +kernel⟩,
    ⟨_, rfl, rfl, by decide +kernel, rfl, by decide +kernel, by
      have h : ∀ i < 6, (engB splatS 0 0 (0x200 + 32 * i) 32 ⟨true, false, false, true⟩
        && !splatS.poisoned (splatS.engPa 0 0 (0x200 + 32 * i)) 32) = true := by decide +kernel
      exact fun i hi => engReadable_of (h i hi)⟩⟩

theorem copying_of {s : State} {c : Cmd} (hf : s.InFocus) (h : ((s.sect 0).copyQ == [c] && c.id == 7 && c.taken && s.runnable c
    && c.wave == s.wave.id && c.wg == s.wg.id && s.saved == []) = true) : s.copying 0 7 c := by
  simp only [Bool.and_eq_true, beq_iff_eq] at h
  obtain ⟨⟨⟨⟨⟨⟨hq, hi⟩, ht⟩, hr⟩, hw⟩, hg⟩, hp⟩ := h
  exact ⟨by simp [hq, hi], ht, hr, by simp [State.NotSaved, hp], hf, hw, hg⟩

theorem focus_of {s : State} (h : (s.wave.id != 0 && s.wg.id != 0 && s.wave.wg == s.wg.id && s.wave.parts.any fun p => p.entry == s.iss.entry) = true) :
    s.InFocus := by
  simp only [Bool.and_eq_true, beq_iff_eq, List.any_eq_true, bne_iff_ne] at h
  exact ⟨h.1.1.1, h.1.1.2, h.1.2, h.2⟩

/-- A region refused and opened, one published and one unknown. -/
theorem witness_EngineCommandsRun_regions :
    (let s := pagesS (cmdOf (.shdw 0x4000 1)) false []
     let c := cmdOf (.shdw 0x4000 1)
     s.copying 0 7 c ∧ s.publishFirst c.ctx 0x4000 1 = false ∧ s.regionCause c.ctx 0x4000 1 = 0)
    ∧ (let s := pagesS (cmdOf (.shdw 0x4001 65536)) false []
       s.copying 0 7 (cmdOf (.shdw 0x4001 65536)) ∧ s.publishFirst 0 0x4001 65536 = false)
    ∧ (let s := pagesS (cmdOf (.publish 2 0x400)) true []
       let c := cmdOf (.publish 2 0x400)
       s.copying 0 7 c ∧ c.err = 0 ∧ (s.ctx c.ctx).regionOfHandle 0x400 = some ⟨0, 4, 0x4000, 1, [(0, 0x48000)]⟩
        ∧ (s.ctx c.ctx).regionOfHandle 0x500 = none) :=
  ⟨⟨copying_of (focus_of (by decide +kernel)) (by decide +kernel), by decide +kernel, by decide +kernel⟩,
    ⟨copying_of (focus_of (by decide +kernel)) (by decide +kernel), by decide +kernel⟩,
    copying_of (focus_of (by decide +kernel)) (by decide +kernel), by decide +kernel, by decide +kernel, by decide +kernel⟩

/-- A collective of one participant, and one of two of which one is lost. -/
def collC : Cmd := { cmdOf (.coll 0 0 2 3 0x200 0x400) with record := collBytesW }
def collPinned : State := (collS.refer 0 { collC with shares := [] } (collSpans 0 2 2 1 0x300 0x4100)).2
def collRead : List Byte × State :=
  match collPinned.engReadAll 0 0 0 0x300 8 with
  | .ok r => r
  | .stop _ s => ([], s)
def collWrite : Nat × State × Option EngEnd :=
  collRead.2.engWriteAll 0 0 0 0x4100 (collResult 0 0 2 2 0 collRead.2.fresh [collRead.1] 0)

def engOk {α : Type} : EngRes α → Bool
  | .ok _ => true
  | .stop _ _ => false

theorem collRead_eq : collPinned.engReadAll 0 0 0 0x300 8 = .ok (collRead.1, collRead.2) := by
  have h : engOk (collPinned.engReadAll 0 0 0 0x300 8) = true := by decide +kernel
  unfold collRead
  cases hr : collPinned.engReadAll 0 0 0 0x300 8 with
  | ok r => rfl
  | stop e s => simp [hr, engOk] at h

theorem triple_eta {α β γ : Type} {x : α × β × γ} {a : α} {c : γ} (h : x.1 = a ∧ x.2.2 = c) : x = (a, x.2.1, c) :=
  Prod.ext h.1 (Prod.ext rfl h.2)

theorem collWrite_eq : collRead.2.engWriteAll 0 0 0 0x4100 (collResult 0 0 2 2 0 collRead.2.fresh [collRead.1] 0)
    = (8, collWrite.2.1, none) := triple_eta (x := collWrite) (by decide +kernel)

theorem witness_EngineCommandsRun_collectives :
    (∃ r own s' t', collS.copying 0 7 collC ∧ collC.err = 0 ∧ (collS.ctx collC.ctx).regionOfHandle 0x400 = some r
      ∧ r.base ≤ fieldAt collC.record 8 8 ∧ fieldAt collC.record 8 8 + collBytes 0 2 (fieldAt collC.record 16 4) 1 ≤ r.base + r.pages * 2 ^ 14
      ∧ collC.data = [] ∧ collC.out = [] ∧ collC.progress = 0
      ∧ (collS.refer 0 { collC with shares := [] }
          (collSpans 0 2 (fieldAt collC.record 16 4) 1 (fieldAt collC.record 0 8) (fieldAt collC.record 8 8))).2.engReadAll
          0 collC.ctx collC.grid (fieldAt collC.record 0 8) (collSize 2 * fieldAt collC.record 16 4) = .ok (own, s')
      ∧ s'.engWriteAll 0 collC.ctx collC.grid (fieldAt collC.record 8 8)
          (collResult 0 0 2 (fieldAt collC.record 16 4) 0 s'.fresh [own] (fieldAt collC.record 25 1))
        = (collBytes 0 2 (fieldAt collC.record 16 4) 1, t', none))
    ∧ (let c := { cmdOf (.coll 0 0 2 4 0x200 0x400) with record := collBytesW, grid := 5 }
       collPodS.copying 0 7 c ∧ c.err = 0 ∧ max 1 (collPodS.gridOf c.grid).span.length ≠ 1) := by
  have a : fieldAt collC.record 0 8 = 0x300 := by decide +kernel
  have b : fieldAt collC.record 8 8 = 0x4100 := by decide +kernel
  have c : fieldAt collC.record 16 4 = 2 := by decide +kernel
  have d : fieldAt collC.record 25 1 = 0 := by decide +kernel
  have e : collBytes 0 2 2 1 = 8 := by decide +kernel
  have f : collSize 2 * 2 = 8 := by decide +kernel
  have g : collC.ctx = 0 := rfl
  have h : collC.grid = 0 := rfl
  have w := collWrite_eq
  refine ⟨⟨⟨0, 4, 0x4000, 1, [(0, 0x48000)]⟩, collRead.1, collRead.2, collWrite.2.1,
    copying_of (focus_of (by decide +kernel)) (by decide +kernel), by decide +kernel, by decide +kernel, by decide +kernel, by decide +kernel, rfl, rfl, rfl,
    ?_, ?_⟩, copying_of (focus_of (by decide +kernel)) (by decide +kernel), by decide +kernel, by decide +kernel⟩
  · rw [a, b, c, f, g, h]; exact collRead_eq
  · rw [b, c, d, e, g, h]; exact w

/-- A step of a pass that leaves pixels to do, and one that ends it. -/
theorem witness_EngineCommandsRun_pass :
    let live := fun (s : State) (c : Cmd) => (s.sect 0).splatQ.head? = some c ∧ c.taken = true ∧ s.runnable c = true
      ∧ s.NotSaved c.wave ∧ s.InFocus ∧ c.wave = s.wave.id ∧ c.err = 0
    let goes := fun (s : State) (c : Cmd) (b : Bool) => let p := passOf c.record
      let r := p.advance 0 false (s.refer 0 c (p.spans false c)).1 (s.refer 0 c (p.spans false c)).2
      r.2.2 = none ∧ p.finished r.1 = b
    (live splatT splatC ∧ goes splatT splatC false) ∧ live splatU splatD ∧ goes splatU splatD true :=
  ⟨⟨⟨by decide +kernel, by decide +kernel, by decide +kernel, by simp [State.NotSaved, show splatT.saved = [] by decide +kernel],
      focus_of (by decide +kernel), by decide +kernel, by decide +kernel⟩, by decide +kernel⟩,
    ⟨by decide +kernel, by decide +kernel, by decide +kernel, by simp [State.NotSaved, show splatU.saved = [] by decide +kernel],
      focus_of (by decide +kernel), by decide +kernel, by decide +kernel⟩, by decide +kernel⟩

theorem witness_CopyIntoWindow : ∃ c, cpyT.copying 0 7 c ∧ c.job = .cpy 0 2 none 0x200 [2, 0, 0, 0, 0, 0] 16 ∧ c.err = 0 ∧ c.progress = 0
    ∧ c.nibbles = 0 ∧ c.methods = 0 ∧ (let l := layoutOf c.record
      l.fmt = 2 ∧ l.rank = 1 ∧ l.swz = 0 ∧ l.comp = false ∧ l.box = [4] ∧ 2 + 4 ≤ l.dims.headD 0 ∧ l.dims.length = 1
      ∧ l.base + 6 * 2 ^ 2 < 2 ^ 64 ∧ ∀ i < 4, cpyT.engReadable 0 c.ctx (l.base + (2 + i) * 2 ^ 2) (2 ^ 2))
    ∧ pendingSteps cpyT.allWaves (cpyT.wg.id + 1) = []
    ∧ (∀ p ∈ cpyT.entriesOf c.ctx (copySpans (layoutOf c.record) 0 16 [2, 0, 0, 0, 0, 0]), ∀ i < 4,
      let a := cpyT.engPa 0 c.ctx ((layoutOf c.record).base + (2 + i) * 2 ^ 2)
      isRegSpace a = false ∧ (a + 2 ^ 2 ≤ p ∨ p + 8 ≤ a)) := by
  have e : ∀ p ∈ cpyT.entriesOf 0 (copySpans (layoutOf layoutBytes) 0 16 [2, 0, 0, 0, 0, 0]), ∀ i < 4,
      isRegSpace (cpyT.engPa 0 0 ((layoutOf layoutBytes).base + (2 + i) * 2 ^ 2)) = false
      ∧ (cpyT.engPa 0 0 ((layoutOf layoutBytes).base + (2 + i) * 2 ^ 2) + 2 ^ 2 ≤ p
        ∨ p + 8 ≤ cpyT.engPa 0 0 ((layoutOf layoutBytes).base + (2 + i) * 2 ^ 2)) := by decide +kernel
  have h : ∀ i < 4, (engB cpyT 0 0 (0x400 + (2 + i) * 2 ^ 2) (2 ^ 2) ⟨true, false, false, true⟩
    && !cpyT.poisoned (cpyT.engPa 0 0 (0x400 + (2 + i) * 2 ^ 2)) (2 ^ 2)) = true := by decide +kernel
  exact ⟨{ cmdOf cpyJob with record := layoutBytes }, copying_of (focus_of (by decide +kernel)) (by decide +kernel), rfl, rfl, rfl, rfl, rfl,
    ⟨by decide +kernel, by decide +kernel, by decide +kernel, by decide +kernel, by decide +kernel, by decide +kernel,
      by decide +kernel, by decide +kernel, fun i hi => engReadable_of (h i hi)⟩, by decide +kernel, e⟩

/-- A box of 3 by 3 words at column 2 and row 0 of a tensor of 4 by 2, so that some elements lie out of bounds, to the window, from
it, and to another tensor. -/
def boxBytes : List Byte :=
  leBytes 8 0x400 ++ leBytes 4 4 ++ leBytes 4 2 ++ leBytes 4 0 ++ leBytes 4 0 ++ leBytes 4 0 ++ leBytes 4 16 ++ leBytes 4 0
    ++ leBytes 4 0 ++ leBytes 4 0 ++ [2, 2, 0, 0, 0, 0x22, 0, 0] ++ leBytes 4 0xAABBCCDD ++ leBytes 8 0
def boxC (dir dst : Nat) : Cmd := { cmdOf (.cpy dir 2 none 0x200 [2, 0, 0, 0, 0, 0] dst) with record := boxBytes }
def boxS (dir dst : Nat) : State := { cpyS with sects := cpyS.sects.upd 0 fun t => { t with copyQ := [boxC dir dst] } }

/-- What the statement asks of the elements of that box. -/
def boxB (dir dst : Nat) : Bool :=
  let s := boxS dir dst
  let c := boxC dir dst
  let l := layoutOf c.record
  let b := s.boxOf 0 c l dst [2, 0, 0, 0, 0, 0]
  let dest := fun (i : Nat) => s.engPa 0 c.ctx (b.va (if dir = 2 then dst else l.base) i)
  let is := (List.range l.count).filter b.inside
  let apart := fun (x y n : Nat) => decide (x + 4 ≤ y) || decide (y + n ≤ x)
  is.length == 4
    && (is.all fun i => engB s 0 c.ctx (b.va l.base i) 4 ⟨true, false, false, true⟩ && !s.poisoned (b.source i) 4
      && engB s 0 c.ctx (b.va (if dir = 2 then dst else l.base) i) 4 ⟨false, true, false, true⟩
      && !isRegSpace (b.source i) && !isRegSpace (dest i)
      && is.all fun j => (i == j || apart (dest i) (dest j) 4) && (dir != 2 || apart (b.source i) (dest j) 4))
    && (s.pinsOf c ++ s.entriesOf c.ctx (copySpans l dir dst [2, 0, 0, 0, 0, 0])).all fun p =>
      is.all fun i => apart (b.source i) p 8 && apart (dest i) p 8

theorem witness_CopyIntoWindow_box : ∀ x ∈ [(0, 16), (1, 16), (2, 0x800)],
    (boxS x.1 x.2).copying 0 7 (boxC x.1 x.2) ∧ boxB x.1 x.2 = true ∧ (layoutOf (boxC x.1 x.2).record).fmt = 2
      ∧ (layoutOf (boxC x.1 x.2).record).comp = false ∧ (layoutOf (boxC x.1 x.2).record).count * 2 ^ 2 < 2 ^ 23
      ∧ pendingSteps (boxS x.1 x.2).allWaves ((boxS x.1 x.2).wg.id + 1) = []
      ∧ ((boxS x.1 x.2).ctx (boxC x.1 x.2).ctx).regions = [] := by
  intro x hx
  simp only [List.mem_cons, List.not_mem_nil, or_false] at hx
  obtain rfl | rfl | rfl := hx <;>
    exact ⟨copying_of (focus_of (by decide +kernel)) (by decide +kernel), by decide +kernel⟩

/-- Two lanes that hold continuation records in v8 to v15; the wave belongs to grid 5 of queue 0 with a node 3. -/
def childS : State :=
  let s := given (active base 3) ((List.range 2).flatMap fun l => [(l, 8, 100), (l, 9, 0x0502), (l, 10, 1), (l, 11, 2), (l, 12, 3), (l, 13, 4), (l, 0, 3)])
  { s with
    wg := { s.wg with grid := 5 }
    grids := [{ (default : Grid) with
      id := 5, begun := true, launch := { (default : LaunchRec) with prio := 4, nwgx := 1, nwgy := 1, nwgz := 1 }, nodes := [⟨3, 8, 50, 8, 200⟩] }]
    names := 5 }

/-- Its store and ring full. -/
def fullS : State :=
  { childS with dies := [(0, { (default : Die) with store := List.replicate 4096 default, ring := List.replicate 65536 default })] }

/-- One lane, an open batch of one record; and one whose pair v[4:5] names a join block at 0x240 with a count of one and a parent. -/
def emitS : State := { active childS 1 with dies := [(0, { (default : Die) with batches := [⟨0, 5, 3, [[7, 8]], 50, 0⟩] })] }
def joinS : State :=
  let s := given (active childS 1) [(0, 4, 0x240), (0, 6, 9)]
  { s with mem := Cells.write s.mem 0x240 ([1, 0, 0, 0, 0, 0, 0, 0] ++ leBytes 8 0x4020) }

/-- The root's pod-wide grid 6 of generation 9 over modules 0, 1 and 2, one unit of its four undealt, a workgroup of it resident. -/
def podGridOf (place : Nat) : Grid :=
  { (default : Grid) with
    id := 6, gen := 9, root := 0, span := [0, 1, 2], place := place, begun := true, dealing := true
    launch := { (default : LaunchRec) with nwgx := 4, nwgy := 1, nwgz := 1, cw := 1, ch := 1 }
    undealt := if place = 0 then [⟨3, 4, 0⟩] else [], pool := 4, poolEnd := 100 }
def podS : State :=
  let s := given childS [(0, 6, 9), (1, 6, 9)]
  { s with names := 6, grids := s.grids ++ [podGridOf 0], wgs := [{ (default : WG) with id := 4, grid := 6 }] }

/-- A die with a continuation record of a wave of 16 lanes, a parent record to read and a batch that is due. -/
def pendS : State :=
  let record := leBytes 4 100 ++ [2, 7, 0, 0] ++ leBytes 4 1 ++ leBytes 4 2 ++ leBytes 4 3 ++ leBytes 4 4 ++ leBytes 8 0
  let tables := [(0x20000, leBytes 8 0x24001), (0x24000, leBytes 8 0x100000033F), (0x1000004020, record)]
  { childS with
    mem := tables.foldl (fun (m : List Host.Cell) x => Cells.write m x.1 x.2) childS.mem
    ctxs := childS.ctxs.upd 0 fun c => { c with ptroot := 0x20000 }
    dies := [(0, { (default : Die) with
      store := [⟨0, 5, 4, .cont record⟩], parents := [⟨0, 5, 0x4020, 0, none⟩], batches := [⟨0, 5, 3, [[7, 8]], 50, 0⟩] })] }

/-- A GLAUNCH that waits for the root, of a record at 0x4080 that asks for two workgroups, or of a misaligned one. -/
def recordBytes : List Byte :=
  leBytes 4 100 ++ leBytes 4 2 ++ leBytes 2 1 ++ leBytes 2 1 ++ [0, 1, 0, 0] ++ leBytes 8 0 ++ leBytes 12 0 ++ leBytes 16 0 ++ [0, 0, 3, 0]
    ++ leBytes 4 0 ++ (List.range 14).flatMap (fun _ => leBytes 2 16) ++ leBytes 8 0 ++ leBytes 8 0x4040 ++ leBytes 8 0 ++ leBytes 16 0
def rootS (addr : Nat) : State :=
  { pendS with
    mem := Cells.write pendS.mem 0x1000004080 recordBytes
    queues := [(0, { (default : Queue) with engmask := 8, maxspan := 1, maxprio := 7 })]
    wave := { pendS.wave with ops := [{ (default : Op) with id := 3, group := 3, quads := 1, lanes := 1, regs := [9], kind := .launch addr 0 }] } }

/-- Grid 7 of 100 units: die 1 has asked for units and holds none, section 32 (die 2) has asked a die that holds a range, a workgroup
starts on section 48; die 0 and section 0 want units. -/
def dealGrid : Grid :=
  { (default : Grid) with
    id := 7, begun := true, dealing := true, undealt := [⟨0, 100, 0⟩], dieAsks := [1], sectAsks := [32]
    dieRanges := [(2, [⟨200, 300, 100⟩])], sectRanges := [(48, [⟨5, 6, 1⟩])]
    launch := { (default : LaunchRec) with code := 100, nwgx := 3, nwgy := 2, nwgz := 60, width := 16, waves := 5, cw := 1, ch := 1, prio := 3, round := 1, assist := true, scratch := 1 } }
def dealS : State := { base with grids := [dealGrid], permits := [(3, 8), (65, 7)], names := 7 }

/-- A grid whose work has ended, its completion word at 0x4040 in the page of frame 2^36; its queue raises a vector. -/
def endedGrid : Grid :=
  { (default : Grid) with
    id := 7, queue := 2, begun := true, completed := 1, cancelled := 3, mode := 1, err := 2
    launch := { (default : LaunchRec) with compl := 0x4040, nwgx := 4, nwgy := 1, nwgz := 1, cw := 1, ch := 1 } }
def endedS : State :=
  { pendS with grids := [endedGrid], queues := [(2, { (default : Queue) with irqdone := true, msix := 9, taken := [(true, 7)] })] }

/-- Module 1 of a pod of 20, whose children are places past it; a grid it holds, one that has not begun; the root's. -/
def memberGrid (place : Nat) : Grid :=
  { (default : Grid) with
    id := 6, gen := 9, root := 0, span := List.range 20, place := place, dealing := true, acks := []
    launch := { (default : LaunchRec) with nwgx := 400, nwgy := 1, nwgz := 1, cw := 1, ch := 1 }
    undealt := [⟨3, 4, 0⟩], pool := 300, poolEnd := 400 }
def memberS (g : Grid) (number : Nat) : State :=
  { pendS with cycle := 100000, time := micros 20, names := 6, grids := [g], fw := { pendS.fw with podNumber := number } }
def launchedS : State :=
  let s := { pendS with grids := [], fw := { pendS.fw with podNumber := 1 } }
  { s with ctxs := s.ctxs.upd 0 fun c => { c with installed := true } }

/-- LAUNCH where there is room and where there is none. -/
theorem witness_LaunchesAndCancels_launch : childS.InFocus ∧ (8 : Reg).toNat ≤ 88 ∧ (8 : Reg).toNat % 8 = 0 ∧ childS.actG .always ≠ [] ∧ childS.Quiet
    ∧ (childS.die 0).ring = [] ∧ (childS.die 0).store.length + (childS.actG .always).length ≤ 4096 := by
  refine ⟨focus_of (by decide +kernel), ?_⟩; unfold State.Quiet; decide +kernel

theorem witness_LaunchesAndCancels_full : fullS.InFocus ∧ fullS.actG .always ≠ [] ∧ fullS.Quiet
    ∧ 4096 ≤ (fullS.die (dieOf fullS.wg.core)).store.length ∧ 65536 ≤ (fullS.die (dieOf fullS.wg.core)).ring.length := by
  have h : fullS.die (dieOf fullS.wg.core)
      = { (default : Die) with store := List.replicate 4096 default, ring := List.replicate 65536 default } := rfl
  refine ⟨focus_of (by decide +kernel), by decide +kernel, by unfold State.Quiet; decide +kernel, ?_, ?_⟩ <;> rw [h] <;>
    simp only [List.length_replicate] <;> decide

/-- An EMIT that joins an open batch and one that opens a batch; a JOIN that brings a count to zero. -/
theorem witness_LaunchesAndCancels_emit :
    (∃ n x, emitS.InFocus ∧ emitS.actG .always = [0] ∧ emitS.emitNode 0 0 = some n ∧ (8 : Reg).toNat + n.stride / 4 ≤ 96 ∧ emitS.Quiet
      ∧ (emitS.die 0).batches.find? (fun x => x.named emitS.wg.ctx n.id emitS.wg.grid && decide (x.records.length < n.width)) = some x
      ∧ x.records.length + 1 < n.width)
    ∧ (∃ n, (active childS 1).actG .always = [0] ∧ (active childS 1).emitNode 0 0 = some n ∧ (active childS 1).Quiet ∧ 1 < n.width
      ∧ (active childS 1).die 0 = default)
    ∧ joinS.InFocus ∧ joinS.actG .always = [0] ∧ joinS.Quiet ∧ joinS.Storable (joinS.u2 4 0) 16 ⟨true, true, false, false⟩
      ∧ isRegSpace (joinS.paOf (joinS.u2 4 0)) = false ∧ joinS.poisoned (joinS.paOf (joinS.u2 4 0)) 16 = false := by
  refine ⟨⟨⟨3, 8, 50, 8, 200⟩, ⟨0, 5, 3, [[7, 8]], 50, 0⟩, focus_of (by decide +kernel), ?_⟩, ⟨⟨3, 8, 50, 8, 200⟩, ?_⟩,
    focus_of (by decide +kernel), by decide +kernel, by unfold State.Quiet; decide +kernel, storable_of (by decide +kernel), by decide +kernel, by decide +kernel⟩ <;>
  · unfold State.Quiet; decide +kernel

/-- GLAUNCH, and GCANCEL of a live grid and of a generation that is none. -/
theorem witness_LaunchesAndCancels_cancel : podS.InFocus ∧ podS.Quiet ∧ podS.actG .always = [0, 1] ∧ podS.rootGrid (podS.u 6 0) = some (podGridOf 0)
    ∧ podS.rootGrid (podS.u 0 0) = none ∧ (podGridOf 0).id ≠ 0 ∧ podS.gridOf (podGridOf 0).id = podGridOf 0
    ∧ (podGridOf 0).sums.1 + (podGridOf 0).sums.2 < (podGridOf 0).launch.groups := by
  refine ⟨focus_of (by decide +kernel), ?_⟩; unfold State.Quiet; decide +kernel

theorem witness_PendingLaunches : (∃ b n, (pendS.die 0).batches.find? (fun x => x.named 0 3 5) = some b ∧ (b.ctx, b.node, b.grid) = (0, 3, 5)
      ∧ nodeOf (pendS.gridOf 5) 3 = some n ∧ n.timer ≤ b.clock)
    ∧ (∃ p, (pendS.die 0).parents = [p] ∧ p.parked = none ∧ p.addr % 32 = 0 ∧ pendS.fwCheck p.ctx p.addr needRead = .ok 0x1000004020
      ∧ (pendS.die 0).store.length < 4096 ∧ (pendS.die 0).ring = [] ∧ pendingSteps (pendS.wavesOn p.core) 0 = [])
    ∧ (∃ r, pendS.entryToPop 3 = some (0, ⟨0, 5, 4, .cont r⟩) ∧ badCont r = false) :=
  ⟨⟨⟨0, 5, 3, [[7, 8]], 50, 0⟩, ⟨3, 8, 50, 8, 200⟩, by decide +kernel⟩, ⟨⟨0, 5, 0x4020, 0, none⟩, by decide +kernel⟩,
    ⟨leBytes 4 100 ++ [2, 7, 0, 0] ++ leBytes 4 1 ++ leBytes 4 2 ++ leBytes 4 3 ++ leBytes 4 4 ++ leBytes 8 0, by decide +kernel, by decide +kernel⟩⟩

def accepts (a : RootAnswer) (record : List Byte) (span : List Nat) (nodes : List Node) : Bool :=
  match a with
  | .accept r p n => decide (r = record ∧ p = span ∧ n = nodes)
  | _ => false

theorem accepts_of {a : RootAnswer} {record : List Byte} {span : List Nat} {nodes : List Node} (h : accepts a record span nodes = true) :
    a = .accept record span nodes := by
  cases a <;> simp [accepts] at h
  obtain ⟨rfl, rfl, rfl⟩ := h; rfl

theorem witness_PendingLaunches_root : ((rootS 0x4081).InFocus ∧ ∃ o, (rootS 0x4081).wave.ops.find? (fun o => o.id == 3) = some o ∧ o.done = false
      ∧ o.kind = .launch 0x4081 0 ∧ o.regs = [9] ∧ lanesOf o.lanes = [0] ∧ (rootS 0x4081).rootTurn (rootS 0x4081).wave.id 3 = true)
    ∧ (rootS 0x4080).InFocus ∧ (∃ o, (rootS 0x4080).wave.ops.find? (fun o => o.id == 3) = some o ∧ o.done = false
      ∧ o.kind = .launch 0x4080 0 ∧ o.regs = [9] ∧ lanesOf o.lanes = [0] ∧ (rootS 0x4080).rootTurn (rootS 0x4080).wave.id 3 = true)
    ∧ (rootS 0x4080).rootAnswer 0 5 0x4080 = .accept recordBytes [0] [] ∧ ∀ x ∈ (rootS 0x4080).grids, x.id ≤ (rootS 0x4080).names := by
  exact ⟨⟨focus_of (by decide +kernel), _, rfl, by decide +kernel⟩, focus_of (by decide +kernel), ⟨_, rfl, by decide +kernel⟩,
    accepts_of (by decide +kernel), by decide +kernel⟩

/-- A link with all its permits spent; holders that want units; the last permit of a link; a workgroup on the last sections. -/
theorem witness_GridsDealAndComplete : 0 < dealS.permits.get 3 ∧ dealS.gridOf dealGrid.id = dealGrid ∧ dealS.deals dealGrid = true
    ∧ (wantsRange (dealGrid.dieRanges.get 7) = true ∧ 7 ∉ dealGrid.dieAsks ∧ dealS.permits.get (upLink (dieHolder 7)) < 8)
    ∧ (wantsRange (dealGrid.sectRanges.get 127) = true ∧ 127 ∉ dealGrid.sectAsks ∧ dealS.permits.get 254 < 8)
    ∧ (1 ∈ dealGrid.dieAsks ∧ dealGrid.undealt = [⟨0, 100, 0⟩] ∧ dealS.permits.get (downLink (dieHolder 1)) < 8)
    ∧ (32 ∈ dealGrid.sectAsks ∧ dealGrid.dieRanges.get (32 / 16) = [⟨200, 300, 100⟩] ∧ dealS.permits.get 65 < 8)
    ∧ dealS.unitToStart 48 = some (dealGrid, 5, 768)
    ∧ endedS.gridOf endedGrid.id = endedGrid ∧ endedS.gridEnds endedGrid = true ∧ endedGrid.gen = 0 ∧ endedGrid.place = 0
      ∧ endedGrid.reports = [] ∧ endedGrid.lost = 0 ∧ endedS.ctxPa endedGrid.ctx endedGrid.launch.compl = some 0x1000004040
      ∧ writtenB endedS endedGrid.ctx endedGrid.launch.compl = true ∧ isRegSpace 0x1000004040 = false := by decide +kernel

/-- A completion count that waits for a permit of its section's link. -/
theorem witness_GridsDealAndComplete_message : (let s := { dealS with grids := [{ dealGrid with messages := [(3, 1, 2)] }] }
    s.waitingMessage 3 = some (7, 1, 2) ∧ 0 < s.permits.get 3)
    ∧ ∀ g ∈ dealS.grids, ∀ m ∈ g.messages, m.1 ≠ 3 := by decide +kernel

/-- A member that asks for pool units, one that an answer reaches, and a module that passed a LAUNCH on. -/
theorem witness_PodGrids_pool : (let g := { memberGrid 1 with begun := true, undealt := [] }
       (memberS g 1).podOf 0 9 = some g ∧ (memberS g 1).gridOf g.id = g ∧ g.place ≠ 0 ∧ g.poolAsked = false ∧ (memberS g 1).asksPool g = true)
    ∧ (let g := { memberGrid 1 with begun := true, poolAsked := true }
       (memberS g 1).podOf 0 9 = some g ∧ (memberS g 1).gridOf g.id = g ∧ g.poolAsked = true ∧ g.mode = 0)
    ∧ { launchedS with relayed := [(7, 8, [17, 18])] }.podOf 7 8 = none := by decide +kernel

/-- A leaf that takes a grid; a member whose child acknowledges first; a root of two whose only child acknowledges; the root's pool. -/
theorem witness_PodGrids : ([7, 1, 2].findIdx? (· == launchedS.fw.podNumber) = some 1 ∧ launchedS.podOf 7 9 = none ∧ launchedS.relayOf 7 9 = []
      ∧ (launchedS.ctx 0).installed = true ∧ (launchedS.ctx 0).killed = false ∧ launchGood recordBytes = true
      ∧ fieldAt recordBytes 104 8 = 0 ∧ ∀ x ∈ launchedS.grids, x.id ≤ launchedS.names)
    ∧ (let g := { memberGrid 0 with span := [0, 1] }
       (memberS g 0).podOf 0 9 = some g ∧ g.id ≠ 0 ∧ (memberS g 0).gridOf g.id = g ∧ 1 ∈ childPlaces g.place g.span.length ∧ 1 ∉ g.acks
        ∧ g.started = false ∧ ∀ p ∈ childPlaces g.place g.span.length, p = 1 ∨ p ∈ g.acks)
    ∧ (let g := memberGrid 1
       (memberS g 1).podOf 0 9 = some g ∧ (memberS g 1).gridOf g.id = g ∧ 19 ∈ childPlaces g.place g.span.length ∧ 19 ∉ g.acks
        ∧ (17 ∈ childPlaces g.place g.span.length ∧ 17 ≠ 19 ∧ 17 ∉ g.acks) ∧ g.place ≠ 0 ∧ g.started = false
        ∧ (∀ r ∈ g.reports, r.place = 19 → r.final = false) ∧ g.place < 2 ∧ 19 < g.span.length)
    ∧ (let g := { memberGrid 0 with begun := true }
       (memberS g 0).podOf 0 9 = some g ∧ (memberS g 0).gridOf g.id = g ∧ g.place = 0 ∧ g.begun = true ∧ 19 < g.span.length)
    ∧ (let g := memberGrid 0
       (memberS g 0).podOf 0 9 = some g ∧ 0 = (memberS g 0).fw.podNumber ∧ (1 ∈ childPlaces 0 g.span.length ∧ 1 ∉ g.acks)
        ∧ g.sent + micros 20 ≤ (memberS g 0).time) := by decide +kernel

/-- A cube operation of the wave in focus: number 3, reached in cycle 10; it is cycle 100. -/
def cubeOp (j : CubeJob) (ends : Option Nat) : CubeOp := ⟨3, 10, 1, 1, 9, j, ends, false, none, [], false⟩

/-- Core 0 with one operation, an INT8 weight slot 2 of 16 rows, some cells, and a window. -/
def cubeS (o : CubeOp) : State :=
  { base with
    cycle := 100
    cores := base.cores.upd 0 fun c => { c with
      cube := [o], cubeSeq := 3
      acc := [(0, 5), (256 * 8 + 17, 0xFFFFFFF0), (256 * 15 + 31, 7), (256 * 16 + 16, 0x3F800000), (256 * 17 + 33, 0x7F7FFFFF)]
      slots := [(2, ⟨true, 5, 0, 16, true, 0, (List.range 256).map fun i => BitVec.ofNat 8 (7 * i + 3), false, 0⟩)] }
    wg := { base.wg with launch := { base.wg.launch with scratch := 1 }, scratch := Cells.write [] 0x40 ((List.range 64).map fun i => BitVec.ofNat 8 (5 * i + 1)) }
    wave := { base.wave with ops := [{ (default : Op) with id := 9, group := 9, cls := .cbc, quads := 3, lanes := 0xFF, kind := .cube 1 }] } }

/-- An INT8 octet operation of octet 1, lanes 0 and 7, at row 8 and column 16. -/
def octetJob : CubeJob :=
  .octet ⟨5, 5, 0, false, true, false, 0⟩ ⟨0, 1, 2, 0, 0, 0⟩
    ⟨1, 0x81, (List.range 8).map fun i => (List.range 4).map fun k => BitVec.ofNat 32 (0x01F20304 * (i + 1) + k), [], [], 0⟩ false

/-- A texture of 4 by 2 texels of four bytes at 0x800, two levels, its descriptor at 0x400; a triangle at 0x600; a node at 0x640 whose only
child is that triangle. -/
def texBytes : List Byte := leBytes 8 0x800 ++ leBytes 2 3 ++ leBytes 2 1 ++ leBytes 4 0 ++ [2, 1, 0, 0] ++ leBytes 12 0
def triBytes : List Byte :=
  ([0, 0, 0x40000000, 0x3F800000, 0, 0x40000000, 0, 0x3F800000, 0x40000000] : List Nat).flatMap (leBytes 4)
    ++ leBytes 4 77 ++ [1] ++ leBytes 7 0
def nodeBytes : List Byte :=
  leBytes 4 0 ++ leBytes 4 0 ++ leBytes 4 0 ++ [127, 127, 127, 1] ++ [0, 0, 0, 1, 1, 2] ++ List.replicate 18 0
    ++ leBytes 6 (2 ^ 47 + 2 ^ 43 - 4) ++ leBytes 6 0 ++ leBytes 6 0 ++ leBytes 6 0

/-- One lane: coordinates in v8 and v9, a ray in v16 to v23, pairs that name the texture in k4 and the node in k6, a triangle in v[24:25]. -/
def rtS : State :=
  let s := given (active base 1) [(0, 8, 0x3E800000), (0, 9, 0x3F000000), (0, 10, 0x3F000000), (0, 100, 0x400), (0, 102, 0x640),
    (0, 16, 0x3E800000), (0, 17, 0x3E800000), (0, 20, 0), (0, 21, 0x3F800000), (0, 22, 0), (0, 23, 0x41200000), (0, 24, 0x600)]
  let m := Cells.write (Cells.write (Cells.write s.mem 0x400 texBytes) 0x600 triBytes) 0x640 nodeBytes
  { s with mem := Cells.write m 0x800 ((List.range 64).map fun i => BitVec.ofNat 8 (9 * i)) }
def rtOp : Op :=
  { (default : Op) with
    id := 9, group := 9, cls := .rtc, quads := 1, lanes := 1, regs := [12], kind := .rt 30 0 0 (regWrites [(0, 12, 5, false), (0, 13, 6, true)]) }
def rtDoneS : State := { rtS with wave := { rtS.wave with ops := [rtOp] } }

/-- A wave of 16 lanes for cube instructions. -/
def cubeWave : State :=
  let s := given (width base 16) [(0, 100, 0x40), (0, 101, 0x100), (0, 110, 0x40)]
  { s with wg := { s.wg with launch := { s.wg.launch with scratch := 2 } } }

/-- A CUBE whose rows come from the window, a CLDB from the last pair, CARD and CAWR at the last rows, CASTS and CALDS, CAZERO. -/
theorem witness_CubeInstructionsIssue : cubeWave.actG .always ≠ [] ∧ cubeWave.Quiet ∧ pendingSteps cubeWave.allWaves (cubeWave.wg.id + 1) = []
    ∧ (∃ f, cubeWave.cubeForm (cubeWave.actG .always) (.cube .always ⟨5, 5, 0, true, false, true, 1⟩ ⟨31, 15, 63, 31, 110, 0⟩) f)
    ∧ (∃ f, cubeWave.cubeForm (cubeWave.actG .always) (.cube .always ⟨0, 1, 1, false, true, false, 2⟩ ⟨0, 0, 0, 0, 0, 0⟩) f)
    ∧ (∃ f, cubeWave.cubeForm (cubeWave.actG .always) (.cldb .always ⟨4, 0, false, false, 0, 63, 63, 30, 0⟩) f)
    ∧ (∃ f, cubeWave.cubeForm (cubeWave.actG .always) (.card .always 0 false false 31 30 15 80) f)
    ∧ (∃ f, cubeWave.cubeForm (cubeWave.actG .always) (.cawr .always 7 30 15 92) f)
    ∧ (∃ f, cubeWave.cubeForm (cubeWave.actG .always) (.casts .always 7 true true false 0 ⟨31, 15, 0, 0⟩ 4 31) f)
    ∧ (∃ f, cubeWave.cubeForm (cubeWave.actG .always) (.calds .always 0 false 0 ⟨30, 14, 1, 1⟩ 4) f)
    ∧ (∃ f, cubeWave.cubeForm (cubeWave.actG .always) (.cazeroMask .always 31) f)
    ∧ (∃ f, cubeWave.cubeForm (cubeWave.actG .always) (.cazeroTile .always ⟨31, 15, 0, 0⟩) f) := by
  have w : cubeWave.WidthMet 1 := by unfold State.WidthMet; decide +kernel
  refine ⟨by decide +kernel, by unfold State.Quiet; decide +kernel, by decide +kernel,
    ⟨_, by decide, by decide, by decide, w, by decide +kernel, rfl⟩, ⟨_, by decide, by decide, by decide, w, by decide +kernel, rfl⟩,
    ⟨_, by decide, by decide, by decide, by decide, by decide, rfl⟩,
    ⟨_, by decide, w, by decide, by decide +kernel, rfl⟩,
    ⟨_, by decide, w, by decide, by decide, by decide, by decide, by decide +kernel, rfl⟩,
    ⟨_, by decide, by decide, by decide, ?_, rfl⟩, ⟨_, by decide, by decide, by decide, by decide, by decide, by decide, ?_, rfl⟩,
    ⟨_, rfl⟩, ⟨_, by decide, rfl⟩⟩ <;>
  · unfold State.TileFits; decide +kernel

theorem ofFocus_of {s : State} {o : CubeOp} (h : ((s.wave.id != 0 && s.wg.id != 0 && s.wave.wg == s.wg.id
    && s.wave.parts.any fun p => p.entry == s.iss.entry) && (o.wave == s.wave.id && o.wg == s.wg.id)) = true) : s.ofFocus o := by
  rw [Bool.and_eq_true] at h
  obtain ⟨a, b⟩ := h
  simp only [Bool.and_eq_true, beq_iff_eq] at b
  exact ⟨focus_of a, b.1, b.2⟩

/-- A pass that begins, one that is due, an assisted octet; fills from the window and from memory, a refill. -/
theorem witness_CubePassesAndSlots :
    (let s := cubeS (cubeOp octetJob none)
     s.nextPass 0 = [cubeOp octetJob none] ∧ ∀ o ∈ (s.core 0).cube, s.octetFails 0 o = false)
    ∧ (let o := cubeOp octetJob (some 90)
       let s := cubeS o
       s.ofFocus o ∧ s.duePass 0 = [o] ∧ (s.core 0).accBad = [] ∧ ((s.core 0).slots.get 2).sparse = 0 ∧ ((s.core 0).slots.get 2).fmt = 5)
    ∧ (let o := { cubeOp octetJob (some 90) with assisted := true }
       let s := cubeS o
       s.ofFocus o ∧ (s.core 0).cube.find? (fun o => o.assisted) = some o)
    ∧ (let o := cubeOp (.load ⟨5, 0, true, false, 0, 63, 31, 0, 0⟩ 0x40) none
       let s := cubeS { o with job := .load ⟨5, 0, true, false, 0, 63, 1, 0, 0⟩ 0xE00 }
       (cubeS o).ofFocus o ∧ ((cubeS o).core 0).readyLoads = [o] ∧ 16 * ((31 : BitVec 6).toNat + 1) ≤ maxKext 5 0
        ∧ 0xE00 + imageBytes 5 0 32 = 4096 * s.wg.launch.scratch)
    ∧ (let o := cubeOp (.load ⟨5, 0, false, false, 0, 63, 0, 0, 0⟩ 0x40) none
       (cubeS o).ofFocus o ∧ ((cubeS o).core 0).readyLoads = [o] ∧ 0x40 % 16 = 0)
    ∧ (let s := cubeS (cubeOp octetJob none)
       ({ s.core 0 with slots := (s.core 0).slots.upd 2 fun x => { x with refill := true } }).refillFor 2 = some (cubeOp octetJob none)) := by
  refine ⟨by decide +kernel, ⟨ofFocus_of (by decide +kernel), ?_⟩, ⟨ofFocus_of (by decide +kernel), ?_⟩,
    ⟨ofFocus_of (by decide +kernel), ?_⟩, ⟨ofFocus_of (by decide +kernel), ?_⟩, ?_⟩ <;> decide +kernel

def spanOk (x : EngRes (List Byte × State)) : Bool :=
  match x with
  | .ok _ => true
  | .stop _ _ => false

theorem spanOk_of {x : EngRes (List Byte × State)} (h : spanOk x = true) : ∃ bs s', x = .ok (bs, s') := by
  cases x with
  | ok r => exact ⟨r.1, r.2, rfl⟩
  | stop e s => simp [spanOk] at h

theorem witness_CubePassesAndSlots_memory : (∃ bs s', (cubeS (cubeOp octetJob none)).engSpan 0 0 0 3 0x40 256 = .ok (bs, s')) :=
  spanOk_of (by decide +kernel)

/-- A move that begins, and each move due to be written, at its boundary. -/
theorem witness_AccumulatorMoves : ∀ j ∈ [
    CubeJob.card 0 false false 248 240 80 0xFF 0 [], .card 7 true true 0 0 92 0x80 7 (List.replicate 8 127), .cawr 7 248 240 0xFF 0 [],
    .casts 5 true true 248 240 8 16 4000 16 255, .calds 0 240 224 16 32 0 128, .zeroTile 248 240 8 16, .zeroMask 0x80000001],
    (cubeS (cubeOp j none)).nextMove 0 = some (cubeOp j none) ∧ (cubeS (cubeOp j (some 100))).dueMove 0 = some (cubeOp j (some 100))
      ∧ ((cubeS (cubeOp j (some 100))).core 0).accBad = [] := by decide +kernel

theorem witness_AccumulatorMoves_focus : ∀ j : CubeJob, (cubeS (cubeOp j (some 100))).ofFocus (cubeOp j (some 100)) :=
  fun _ => ofFocus_of rfl

/-- A miss, a triangle's words, TEXQ, TLD, TEX of the mixed filter at the last v quadruple, TEXG; a ray of a NaN and one traced. -/
theorem rtMapped (va n : Nat) (h : rtB rtS va n = true) : rtS.RtReadable va n := rtReadable_of h

theorem witness_Textured : rtS.Textured (rtS.u2 100 0) (textureOf texBytes) := by
  refine ⟨by decide +kernel, rtReadable_of (by decide +kernel), by decide +kernel, by decide +kernel, by decide +kernel⟩

theorem only0 {P : Nat → Prop} (h : P 0) : ∀ l ∈ rtS.actG .always, P l := by
  have e : rtS.actG .always = [0] := by decide +kernel
  rw [e]; simpa using h

theorem witness_RaysAndTextures_ray : rtS.actG .always = [0] ∧ rtS.Quiet ∧ rtS.InFocus
    ∧ (∃ f, rtS.rtForm (.rayt .always true false false 255 92 16 96) f) ∧ (∃ f, rtS.rtForm (.raya .always 87 24 0) f) := by
  refine ⟨by decide +kernel, by unfold State.Quiet; decide +kernel, focus_of (by decide +kernel),
    ⟨_, by unfold quadV; decide, by decide, by decide, by unfold kBase; decide, ?_, rfl⟩, ⟨_, by decide, by decide, ?_, rfl⟩⟩
  · exact only0 ⟨⟨by decide +kernel, ⟨5, by decide, by decide, by decide +kernel⟩, by decide +kernel, by decide +kernel⟩, by left; decide +kernel⟩
  · exact only0 ⟨by decide +kernel, rtReadable_of (by decide +kernel)⟩

theorem witness_RaysAndTextures_texture : (∃ f, rtS.rtForm (.texq .always 92 0 100) f) ∧ (∃ f, rtS.rtForm (.tld .always true 12 0 100) f)
    ∧ (∃ f, rtS.rtForm (.tex .always 2 true 12 8 100) f) ∧ (∃ f, rtS.rtForm (.texg .always true 3 12 8 100) f) := by
  have q : quadV 12 := by unfold quadV; decide
  have k : kBase 100 := by unfold kBase; decide
  refine ⟨⟨_, by unfold quadV; decide, by decide, k, fun _ => textureOf texBytes, only0 witness_Textured, rfl⟩,
    ⟨_, q, by decide, k, fun _ => textureOf texBytes, only0 ⟨witness_Textured, rtReadable_of (by decide +kernel)⟩, rfl⟩,
    ⟨_, by decide, q, by decide, k, fun _ => textureOf texBytes,
      fun _ => (textureOf texBytes).sample 2 (rtS.texArgs 8 true 0).1 (rtS.texArgs 8 true 0).2.1 (rtS.texArgs 8 true 0).2.2,
      only0 ⟨witness_Textured, by decide +kernel, ?_⟩, rfl⟩,
    ⟨_, q, by decide, k, fun _ => textureOf texBytes,
      fun _ => (textureOf texBytes).bilinear ((textureOf texBytes).levelOf (rtS.texArgs 8 true 0).2.2) (rtS.texArgs 8 true 0).1 (rtS.texArgs 8 true 0).2.1,
      only0 ⟨witness_Textured, by decide +kernel, ?_⟩, rfl⟩⟩
  · have h : ∀ x ∈ ((textureOf texBytes).sample 2 (rtS.texArgs 8 true 0).1 (rtS.texArgs 8 true 0).2.1 (rtS.texArgs 8 true 0).2.2).1,
        rtB rtS x.1 (textureOf texBytes).bytes = true := by decide +kernel
    exact fun x hx => rtReadable_of (h x hx)
  · have h : ∀ x ∈ (textureOf texBytes).bilinear ((textureOf texBytes).levelOf (rtS.texArgs 8 true 0).2.2) (rtS.texArgs 8 true 0).1
        (rtS.texArgs 8 true 0).2.1, rtB rtS x.1 (textureOf texBytes).bytes = true := by decide +kernel
    exact fun x hx => rtReadable_of (h x hx)

def traced : LaneOut × State :=
  match rtS.trace 0 0 0 false false false 255 ((List.range 8).map fun i => rtS.src.read 0 (16 + i)) 0x640 with
  | .ok r s => (r, s)
  | .stop _ _ _ s => (([], false, false), s)

def rtOk {α : Type} (x : RtGot α) : Bool :=
  match x with
  | .ok .. => true
  | .stop .. => false

theorem traced_eq : rtS.trace 0 0 0 false false false 255 ((List.range 8).map fun i => rtS.src.read 0 (16 + i)) 0x640 = .ok traced.1 traced.2 := by
  have h : rtOk (rtS.trace 0 0 0 false false false 255 ((List.range 8).map fun i => rtS.src.read 0 (16 + i)) 0x640) = true := by decide +kernel
  unfold traced
  cases hr : rtS.trace 0 0 0 false false false 255 ((List.range 8).map fun i => rtS.src.read 0 (16 + i)) 0x640 with
  | ok r s => rfl
  | stop v e i s => simp [hr, rtOk] at h

theorem ok_eta (x : LaneOut × State) : (RtGot.ok x.1 x.2 : RtGot LaneOut) = .ok (x.1.1, x.1.2.1, x.1.2.2) x.2 := rfl

theorem traced_frame : traced.2.wave = rtS.wave ∧ traced.2.iss = rtS.iss ∧ traced.2.names = rtS.names
    ∧ traced.2.wg = rtS.wg ∧ (traced.2.core 0).rtQ = (rtS.core 0).rtQ := by
  have h : decide (traced.2.wave = rtS.wave) && (decide (traced.2.iss = rtS.iss) && (decide (traced.2.names = rtS.names)
    && (decide (traced.2.wg = rtS.wg) && decide ((traced.2.core 0).rtQ = (rtS.core 0).rtQ)))) = true := by decide +kernel
  simpa using h

theorem witness_RaysAndTextures_trace : (∃ ws bad inv s', rtS.trace rtS.wg.core rtS.wg.ctx rtS.wg.grid false false false (255 : BitVec 8).toNat
      ((List.range 8).map fun i => rtS.src.read 0 ((16 : Reg).toNat + i)) (rtS.u2 102 0) = .ok (ws, bad, inv) s' ∧ s'.wave = rtS.wave
      ∧ s'.iss = rtS.iss ∧ s'.names = rtS.names ∧ s'.wg = rtS.wg
      ∧ (s'.core rtS.wg.core).rtQ = (rtS.core rtS.wg.core).rtQ)
    ∧ ∃ i < 6, (Fmt.decode .fp32 ((given rtS [(0, 21, 0x7FC00000)]).src.read 0 ((16 : Reg).toNat + i)).toNat).isNan = true := by
  have a : rtS.wg.core = 0 := by decide +kernel
  have b : rtS.wg.ctx = 0 := by decide +kernel
  have g : rtS.wg.grid = 0 := by decide +kernel
  have c : rtS.u2 102 0 = 0x640 := by decide +kernel
  have d : (255 : BitVec 8).toNat = 255 := rfl
  have e : (16 : Reg).toNat = 16 := rfl
  rw [a, b, c, d, e, g]
  exact ⟨⟨traced.1.1, traced.1.2.1, traced.1.2.2, traced.2, traced_eq.trans (ok_eta traced), traced_frame⟩,
    5, by decide, by decide +kernel⟩

theorem witness_RaysAndTextures_complete : rtDoneS.InFocus ∧ rtDoneS.wave.ops.find? (fun o => o.id == 9) = some rtOp ∧ rtOp.done = false
    ∧ rtOp.faults = [] ∧ rtDoneS.rtTaken rtDoneS.wave rtOp = true ∧ (∀ x ∈ rtDoneS.wave.ops, x.group = rtOp.group → x.id = 9 ∨ x.done = true)
    ∧ (∀ x ∈ rtDoneS.wave.ops, x.release = none) ∧ ∀ w ∈ rtDoneS.waves, w.id ≠ rtDoneS.wave.id :=
  ⟨focus_of (by decide +kernel), by decide +kernel⟩

/-- Queue 3 of context 0, loaded and served: its user half at 0x4040, its ring of 4 KiB at 0x5000 (frame 0x1000005000), its next block the
bytes given. -/
def queueS (block : List Byte) : State :=
  let q : Queue := { (default : Queue) with
    installed := true, loaded := true, user := 0x4040, shadow := 0x30000, ringbase := 0x5000, ringsize := 4096, writeidx := 20
    engmask := 31, maxprio := 5, maxspan := 1, msix := 7, prio := 2 }
  { pendS with
    mem := Cells.write pendS.mem 0x1000005000 block
    ctxs := pendS.ctxs.upd 0 fun c => { c with installed := true }
    queues := [(3, q)], fw := { pendS.fw with serving := some (3, true) }, clock0 := some 0, cycle := 0x123456789 }

def gridBlock : List Byte := leBytes 2 1 ++ [2, 2] ++ leBytes 4 0 ++ leBytes 8 0x4080 ++ leBytes 8 0x77 ++ leBytes 4 9 ++ leBytes 4 0
def gridS : State := { queueS gridBlock with mem := Cells.write (queueS gridBlock).mem 0x1000004080 recordBytes }
def copyBlock : List Byte := leBytes 2 2 ++ [1, 3] ++ leBytes 4 5 ++ leBytes 8 0x4200 ++ leBytes 8 0x4300 ++ leBytes 24 0
def signalBlock (add : Nat) : List Byte := leBytes 2 3 ++ [1, 2] ++ leBytes 4 add ++ leBytes 8 0x4048 ++ leBytes 8 5 ++ leBytes 8 0
def waitBlock (cond value : Nat) : List Byte := leBytes 2 4 ++ [1, 2] ++ leBytes 4 cond ++ leBytes 8 0x4048 ++ leBytes 8 value ++ leBytes 8 0
def barrierBlock : List Byte := leBytes 2 6 ++ [1, 1] ++ leBytes 12 0
def stampBlock : List Byte := leBytes 2 7 ++ [1, 1] ++ leBytes 4 0 ++ leBytes 8 0x4048
def umxBlock : List Byte := leBytes 2 5 ++ [1, 2] ++ leBytes 4 0 ++ leBytes 8 0x4400 ++ leBytes 8 0x4800 ++ leBytes 8 0
def badBlock : List Byte := leBytes 2 9 ++ [1, 1] ++ leBytes 12 0

/-- A container of one function with no body, at 0x4400: its entry at 0x4440. -/
def containerBytes : List Byte :=
  leBytes 4 0x31584D55 ++ leBytes 2 1 ++ leBytes 2 0 ++ leBytes 8 1 ++ leBytes 8 64 ++ leBytes 8 0x80 ++ leBytes 8 4 ++ leBytes 8 0 ++ leBytes 8 0
    ++ leBytes 8 0x90 ++ leBytes 64 0
def umxS : State :=
  let s := queueS umxBlock
  { s with
    mem := Cells.write s.mem 0x1000004400 containerBytes
    ctxs := s.ctxs.upd 0 fun c => { c with codebase := 0x8000, heapSize := 1, heapNext := 10 } }
def umxDoneS : State := { umxS with queues := umxS.queues.upd 3 fun v => { v with umx := some (0x4400, 0x4800, [10]) } }

/-- Queue 3 while queue 2 was served last, its two halves in memory. -/
def loadS : State :=
  let s := queueS barrierBlock
  let user := leBytes 8 0x5000 ++ leBytes 4 4096 ++ leBytes 4 20 ++ leBytes 4 0 ++ [9, 1] ++ leBytes 10 0
  let shadow := leBytes 8 0x20000 ++ leBytes 8 0 ++ leBytes 8 6 ++ leBytes 8 0 ++ leBytes 4 0 ++ leBytes 8 0x4000 ++ leBytes 8 0x8000
    ++ leBytes 2 1 ++ leBytes 2 0 ++ [6, 31] ++ leBytes 2 256 ++ [24] ++ leBytes 2 2047 ++ [1]
  { s with
    mem := Cells.write (Cells.write s.mem 0x1000004040 user) 0x30000 shadow
    ctxs := s.ctxs.upd 0 fun c => { c with asid := 1, faultLog := 6 }
    fw := { s.fw with serving := some (2, true) } }

/-- A workgroup in focus of an installed context whose part sleeps; its grid 5 asks for a deadline of 2^10 cycles, its queue for 2^12. -/
def sleepS : State :=
  { childS with
    ctxs := childS.ctxs.upd 0 fun c => { c with installed := true }
    queues := [(0, { (default : Queue) with installed := true, deadline := 12 })]
    grids := childS.grids.map fun g => { g with launch := { g.launch with yieldDl := 10 } }
    wave := { childS.wave with parts := childS.wave.parts.map fun p => { p with hold := .sleep 3 } } }
def expiredS : State := { sleepS with wg := { sleepS.wg with deadline := some 0 } }

/-- Its cluster being saved: yielded, of one wave of four lanes, the pool of 1 MiB at 0x100000. -/
def savingS : State :=
  { sleepS with
    ctxs := sleepS.ctxs.upd 0 fun c => { c with pool := 0x100000, poolSize := 64 }
    wg := { sleepS.wg with cluster := 1, launch := { sleepS.wg.launch with waves := 1, width := 4, cw := 1, ch := 1, scratch := 0 } }
    wave := { sleepS.wave with
      width := 4, rf := sleepS.wave.rf.setP 1 2 true
      parts := sleepS.wave.parts.map fun p => { p with members := 1, masks := 0xF, hold := .yielded 0 } }
    saving := [⟨1, false, micros 50⟩] }

/-- The same cluster saved, on a module that holds nothing else. -/
def savedS : State :=
  { savingS with
    saving := [], wave := default, wg := default
    saved := [⟨1, 0, [{ wg := savingS.wg, waves := [savingS.wave], live := 0, acc := [], slots := [], cmds := [], fills := [], image := 0x100000, size := 3000, forced := false }]⟩] }
def hungS : State := { sleepS with ctxs := sleepS.ctxs.upd 0 fun c => { c with quiet := micros 100000 } }

/-- GRID of the second version, COPY, SIGNAL of both kinds, WAIT at each condition, BARRIER and TIMESTAMP. -/
theorem witness_QueueCommands_blocks :
    (gridS.due 3 (.grid 3 2 0x4080 0x77 9) = some 2 ∧ gridS.fwRange 0 0x4080 128 = .ok 0x1000004080
      ∧ (let r := (gridS.ctxTouchRange 0 0x4080 128 false).fwBytes 0 0x4080 128
         launchGood r = true ∧ fieldAt r 88 8 = 0 ∧ fieldAt r 104 8 = 0) ∧ ∀ g ∈ gridS.grids, g.id ≤ gridS.names)
    ∧ ({ queueS copyBlock with sects := [] }.due 3 (.copy 3 5 0x4200 0x4300 [0, 0, 0, 0, 0]) = some 3
      ∧ ((queueS copyBlock).queues.get 3).engmask.getLsbD 0 = true)
    ∧ ((queueS (signalBlock 0)).due 3 (.signal 3 false 0x4048 5) = some 2 ∧ (queueS (signalBlock 0)).fwCheck 0 0x4048 needBoth = .ok 0x1000004048)
    ∧ ((queueS (signalBlock 1)).due 3 (.signal 3 true 0x4048 5) = some 2 ∧ (queueS (signalBlock 1)).fwCheck 0 0x4048 needBoth = .ok 0x1000004048
      ∧ (((queueS (signalBlock 1)).takeBlock 3 2).fwTouch 0 0x4048 needBoth).poisoned 0x1000004048 8 = false)
    ∧ (queueS (waitBlock 0 0)).due 3 (.wait 3 0 0x4048 0) = some 2 ∧ (queueS (waitBlock 1 0)).due 3 (.wait 3 1 0x4048 0) = some 2
    ∧ ((queueS (waitBlock 2 5)).due 3 (.wait 3 2 0x4048 5) = some 2 ∧ (queueS (waitBlock 2 5)).fwCheck 0 0x4048 needRead = .ok 0x1000004048)
    ∧ (queueS barrierBlock).due 3 (.barrier 3) = some 1
    ∧ ((queueS stampBlock).due 3 (.timestamp 3 0x4048) = some 1 ∧ (queueS stampBlock).fwCheck 0 0x4048 needWrite = .ok 0x1000004048)
    ∧ isRegSpace 0x1000004048 = false := by decide +kernel

/-- UMXLOAD of one function and its end; a queue to load, its fields at the ends of their ranges; a malformed block. -/
theorem witness_QueueCommands_umxload :
    (let h := umxS.fwRead 0 0x4400 64
     let fs := (List.range 1).map fun i => umxS.functionEntry 0 0x4400 i h
     umxS.due 3 (.umxload 3 0x4400 0x4800) = some 2 ∧ (umxS.queues.get 3).engmask.getLsbD 4 = true ∧ fieldAt h 8 4 = 1
      ∧ firstFail [umxS.fwSpan 0 0x4400 64 needRead, umxS.fwSpan 0 0x4800 32 needWrite] = .ok 0 ∧ containerGood h = true
      ∧ (let s' := umxS.ctxTouchRange 0 0x4400 64 false
         firstFail [s'.fwSpan 0 (0x4400 + fieldAt h 16 8) 64 needBoth, s'.fwSpan 0 0x4400 (fieldAt h 56 8) needRead,
          s'.fwSpan 0 0x4820 4 needWrite] = .ok 0)
      ∧ fs.all (((umxS.takeBlock 3 2).ctxTouchRange 0 0x4400 (fieldAt h 56 8) false).functionKnown 0 0x4400 h) = true
      ∧ (umxS.ctx 0).heapNext + 1 ≤ (umxS.ctx 0).packets)
    ∧ (umxDoneS.queues.get 3).umx = some (0x4400, 0x4800, [10])
    ∧ (loadS.toServe = some 3 ∧ loadS.serves 3 = false
      ∧ loadCode (loadS.ctx 0) ((loadS.ctxRead 0 0x4040 32).getD (List.replicate 32 0)) (loadS.readPhys 0x30000 64) = 0
      ∧ ∀ i < 2, writtenB loadS 0 (max 0x4040 ((0x4040 / 2 ^ 14 + i) * 2 ^ 14) % 2 ^ 64) = true)
    ∧ (queueS badBlock).serves 3 = true ∧ (queueS badBlock).block 3 = .bad := by decide +kernel

/-- A request, a deadline, a cluster saved and resumed, a save that has lasted exactly 50 µs and a hang of exactly 100 ms. -/
theorem witness_Preemption :
    (sleepS.InFocus ∧ (sleepS.ctx 0).installed = true ∧ (sleepS.ctx 0).killed = false ∧ (sleepS.ctx 0).yieldReq = false)
    ∧ (expiredS.wg.id ≠ 0 ∧ expiredS.wg.deadline = some 0 ∧ ∀ v ∈ expiredS.saving, v.cluster ≠ expiredS.wg.cluster)
    ∧ (savingS.saving.find? (fun x => x.cluster == 1) = some ⟨1, false, micros 50⟩ ∧ savingS.membersOf 1 = [savingS.wg]
      ∧ savingS.settled 1 = true
      ∧ (let u := (savingS.flushCore 0).flushWindow 1
         let s' := u.uncountParked ((u.wavesOf 1).map Wave.id)
         s'.poisonedMember [savingS.wg] false = none ∧ (allocImages (s'.ctx 0) [s'.capture savingS.wg false]).isSome = true))
    ∧ (∃ v, savedS.saved.find? (fun x => x.cluster == 1) = some v ∧ savedS.resumeFits v 2047 = true)
    ∧ hungS.hangs 0 = true := by
  refine ⟨⟨focus_of (by decide +kernel), by decide +kernel⟩, by decide +kernel, by decide +kernel, ⟨_, rfl, by decide +kernel⟩, by decide +kernel⟩

/-- A booted module whose link is up and whose mailbox of function `fn` holds one message; context 0 as in queueS. -/
def booted (s : State) : State := { s with fw := { s.fw with step := 11, linkUp := true } }
def mailS (s : State) (fn : Nat) (b : List Byte) : State :=
  let m : Mailbox := { (default : Mailbox) with
    mbctl := 1, sqsize := 4, cqsize := 4, cqbase := 0x7000, vecFirst := 0, vecCount := 2048, pending := [b ++ List.replicate (64 - b.length) 0] }
  { booted s with mailbox := if fn = 0 then [(0, m)] else [(0, { m with pending := [] }), (fn, { m with vecFirst := 5, vecCount := 1, asidBase := 7, asidCount := 2 })] }

/-- A message's header, its version 2, its TAG 9: TYPE, OPT, LEN, ASID, ADDR. -/
def headBytes (type opt len asid addr : Nat) : List Byte :=
  [BitVec.ofNat 8 type, 2, BitVec.ofNat 8 len, BitVec.ofNat 8 opt] ++ leBytes 2 asid ++ leBytes 2 9 ++ leBytes 8 addr
def head (fn opt len asid addr : Nat) : MsgHead := ⟨fn, 2, 9, asid, opt, len, addr⟩

/-- Memory pages of context 0, ASID 1. -/
def pagesM : State :=
  let s := queueS barrierBlock
  { s with ctxs := s.ctxs.upd 0 fun c => { c with asid := 1, codebase := 0, faultLog := 6 }, fw := { s.fw with serving := none } }

/-- Queue 3 installed; removed; one that drains and owes its completion. -/
def installBytes : List Byte :=
  headBytes 2 1 0 0 0x4040 ++ leBytes 2 5 ++ leBytes 6 0 ++ leBytes 8 0x30000 ++ leBytes 8 0x50000 ++ leBytes 4 7 ++ leBytes 4 9 ++ [1, 0, 0, 0] ++ leBytes 4 0x11223344
def shadowBytes : List Byte :=
  leBytes 8 0x20000 ++ leBytes 8 0x8000 ++ leBytes 8 0x5006 ++ leBytes 8 0x60000 ++ leBytes 4 2 ++ leBytes 8 0x4000 ++ leBytes 8 0x8000
    ++ leBytes 2 44 ++ leBytes 2 6 ++ [6, 31] ++ leBytes 2 256 ++ [24] ++ leBytes 2 2047 ++ [1]
def installS : State :=
  let s := mailS pagesM 0 installBytes
  { s with mem := Cells.write s.mem 0x30000 shadowBytes }
def removeS (busy : Bool) : State :=
  let s := mailS (queueS barrierBlock) 0 (headBytes 2 2 0 0 0 ++ leBytes 2 3)
  { s with queues := s.queues.upd 3 fun v => { v with taken := if busy then [(true, 6)] else [] } }
def drainedS : State :=
  let s := mailS (queueS barrierBlock) 0 []
  { s with
    queues := s.queues.upd 3 fun v => { v with draining := some (0, 9) }
    mailbox := s.mailbox.upd 0 fun b => { b with owed := [(4, entryOf (head 0 2 0 0 0) 2 0 0)] } }

/-- A part parked under the token of entry 200 of section 100, generation 1, and a REPLAY of it. -/
def token : Nat := 2 ^ 15 + 100 * 2 ^ 8 + 200
def parkedS (opt : Nat) (result : Nat) : State :=
  let s := mailS pagesM 0 (headBytes 3 opt 0 1 (if opt = 0 then 0x7000 else 0) ++ (if opt = 0 then leBytes 2 0 else leBytes 2 token) ++ [BitVec.ofNat 8 result])
  { s with
    sects := s.sects.upd 100 fun t => { t with waits := t.waits.upd 200 fun w => { w with used := true, gen := true, asid := 1, page := 0x4000, level := 0 } }
    wave := { s.wave with parts := s.wave.parts.map fun p => { p with fws := .parked, token := BitVec.ofNat 16 token } } }

/-- The same while the entry's page-fault record is held. -/
def heldWaitS : State :=
  { parkedS 1 0 with sects := (parkedS 1 0).sects.upd 100 fun t => { t with waits := t.waits.upd 200 fun w => { w with held := true } } }

/-- The link down; a completion ring full; the fault queue of context 0 at 0x4800; one record waiting for the machine-check log. -/
def downS : State := { mailS pagesM 0 [] with fw := { (mailS pagesM 0 []).fw with linkUp := false } }
def ringFullS : State := (mailS pagesM 0 []).onBox 0 fun b => { b with cqtail := 16 }
def faultqS : State := { pagesM with ctxs := pagesM.ctxs.upd 0 fun c => { c with faultq := 0x4800 } }
def waitingS : State := { pagesM with mclog := { pagesM.mclog with waiting := [(3, List.replicate 60 1)], wridx := 256, mcvec := 9 } }

/-- Messages of every kind at the head of function 0's queue. -/
def writeS : State := mailS pagesM 0 (headBytes 1 0 48 1 0x7FD0 ++ List.replicate 48 3)
def readS : State := mailS pagesM 0 (headBytes 5 0 0 1 0x7000 ++ leBytes 8 0x9000 ++ leBytes 2 4096)
def evictS : State := mailS pagesM 0 (headBytes 4 2 0 1 0x4000)
def evictPinS : State :=
  match evictS.walk 0 0x4000 with
  | .leaf pte a _ => { evictS with mem := Cells.write evictS.mem a (leBytes 8 (pte.toNat + 0x400)) }
  | _ => evictS
def put0 : State := mailS loadS 0 (headBytes 2 0 0 0 0 ++ leBytes 2 3)
def put3 : State := mailS loadS 3 (headBytes 2 0 0 0 0 ++ leBytes 2 3)
def staleS (opt : Nat) : State := { parkedS opt 0 with fw := { (parkedS opt 0).fw with killedAsids := [1] } }
def reportB : List Byte := headBytes 6 0 0 0 0 ++ List.replicate 32 7 ++ leBytes 8 0x9000
def extendS (i : Nat) : State := mailS pagesM 0 (headBytes 6 1 0 0 0 ++ leBytes 1 i ++ List.replicate 47 3)
def commitS : State := mailS pagesM 0 (headBytes 7 1 0 0 0)
def committingS : State :=
  let s := mailS pagesM 0 []
  { s with time := micros 10000 + 7, fw := { s.fw with committing := some (0, 9, 2, 7), staged := some [1] } }
def vfS (opt a b c : Nat) : State := mailS pagesM 0 (headBytes 8 opt 0 0 0 ++ leBytes 2 a ++ leBytes 2 b ++ leBytes 2 c)
def vfMeetS : State := (mailS pagesM 3 []).onBox 0 fun m => { m with pending := ((vfS 0 4 8 1).box 0).pending }
def vecS (a b c : Nat) : State := (vfS 1 a b c).onBox 0 fun m => { m with vecCount := 2047 }

/-! Mailbox -/

def sendsB (s : State) (i : Instr) (h : MsgHead) : Bool :=
  (match s.nextMessage with
    | some (fn, b) => fn == h.fn && sameMessage i (messageOf fn b) && messageGood b i
    | none => false)
    && (!privileged i || h.fn == 0) && (!namesAsid i || s.owns h.fn h.asid)

theorem sends_of {s : State} {i : Instr} {h : MsgHead} (x : sendsB s i h = true) : s.sends i h := by
  unfold sendsB at x
  split at x
  · next fn b e =>
    simp only [Bool.and_eq_true, beq_iff_eq, Bool.or_eq_true, Bool.not_eq_true'] at x
    obtain ⟨⟨⟨⟨rfl, h1⟩, h2⟩, h3⟩, h4⟩ := x
    exact ⟨⟨b, e, h1, h2⟩, fun p => by simp_all, fun p => by simp_all⟩
  · simp at x

/-- Entries with room and without, with the link up and down; SQTAIL past the ring's end while the mailbox is enabled and not, CQHEAD,
the last function; a fault-queue RDIDX whose context is mapped; the machine-check log with nothing and one record waiting. -/
theorem witness_MailboxRegistersAndCompletions :
    (let b := (mailS pagesM 0 []).box 0
     b.owed = [] ∧ (b.cqtail + 2 ^ 32 - b.cqhead) % 2 ^ 32 < 2 ^ b.cqsize ∧ (mailS pagesM 0 []).fw.linkUp = true)
    ∧ downS.fw.linkUp = false ∧ downS.fw.downLong = false ∧ (downS.box 0).owed = []
    ∧ (let b := ringFullS.box 0
       b.owed = [] ∧ ¬ (b.cqtail + 2 ^ 32 - b.cqhead) % 2 ^ 32 < 2 ^ b.cqsize)
    ∧ (mailS pagesM 32 []).booted = true ∧ ((mailS pagesM 32 []).box 32).mbctl % 2 = 1 ∧ ((mailS pagesM 32 []).box 32).sqsize = 4
    ∧ (List.replicate 64 (0 : Byte)).length = 64 * ((0x21 % 2 ^ 4 + 2 ^ 4 - ((mailS pagesM 32 []).box 32).sqhead % 2 ^ 4) % 2 ^ 4)
    ∧ ((mailS pagesM 32 []).box 1).mbctl % 2 = 0
    ∧ ((faultqS.ctx 0).installed = true ∧ faultqS.ctxPa 0 0x4804 = some (0x1000004800 + 4) ∧ isRegSpace 0x1000004804 = false
      ∧ (faultqS.ctx 0).held = [] ∧ (faultqS.ctx 0).faultq = 0x4800
      ∧ (faultqS.ctxWrite 0 0x4804 (leBytes 4 0x99)).ctxPa 0 0x4800 = some 0x1000004800 ∧ isRegSpace 0x1000004800 = false
      ∧ writtenB faultqS 0 0x4804 = true ∧ writtenB (faultqS.ctxWrite 0 0x4804 (leBytes 4 0x99)) 0 0x4800 = true)
    ∧ pagesM.mclog.waiting = [] ∧ waitingS.mclog.waiting = [(3, List.replicate 60 1)] ∧ { waitingS.mclog with rdidx := 2 }.used = 254 := by
  decide +kernel

/-- A reserved TYPE, a reserved field, a privileged message of function 3, an ASID of another function. -/
theorem witness_MessagesRefused :
    (let s := mailS pagesM 0 (headBytes 9 0 0 0 0)
     (s.nextMessage.map fun x => sameMessage (.reservedMessageType (head 0 0 0 0 0) 9) (messageOf x.1 x.2)
      && !messageGood x.2 (.reservedMessageType (head 0 0 0 0 0) 9)) = some true ∧ s.translating = false)
    ∧ (let s := mailS pagesM 0 (headBytes 2 0 0 0 0 ++ leBytes 2 3 ++ [1])
       (s.nextMessage.map fun x => sameMessage (.queuePut (head 0 0 0 0 0) 3) (messageOf x.1 x.2)
        && !messageGood x.2 (.queuePut (head 0 0 0 0 0) 3)) = some true ∧ s.translating = false)
    ∧ (let s := mailS pagesM 3 (headBytes 8 0 0 0 0)
       (s.nextMessage.map fun x => sameMessage (.vfasid (head 3 0 0 0 0) 0 0 0) (messageOf x.1 x.2)
        && messageGood x.2 (.vfasid (head 3 0 0 0 0) 0 0 0)) = some true ∧ privileged (.vfasid (head 3 0 0 0 0) 0 0 0) = true)
    ∧ (let s := mailS pagesM 3 (headBytes 4 2 0 9 0)
       (s.nextMessage.map fun x => sameMessage (.evict (head 3 2 0 9 0)) (messageOf x.1 x.2)
        && messageGood x.2 (.evict (head 3 2 0 9 0))) = some true ∧ namesAsid (.evict (head 3 2 0 9 0)) = true ∧ s.owns 3 9 = false) := by
  decide +kernel

/-- Ranges that end at their page's end, and an ASID of no context; FENCE, INVAL; a leaf that is pinned and one that is not. -/
theorem witness_MemoryMessages :
    (writeS.sends (.write (head 0 0 48 1 0x7FD0) (List.replicate 48 3)) (head 0 0 48 1 0x7FD0)
      ∧ (writeS.afterTaking 0).ctxOfAsid 1 = some 0 ∧ 0x7FD0 % 2 ^ 14 + 48 = 2 ^ 14
      ∧ (writeS.afterTaking 0).fwCheck 0 0x7FD0 needWrite = .ok 0x1000007FD0 ∧ isRegSpace 0x1000007FD0 = false)
    ∧ ((mailS pagesM 0 (headBytes 1 0 1 77 0 ++ [5])).sends (.write (head 0 0 1 77 0) [5]) (head 0 0 1 77 0)
      ∧ ((mailS pagesM 0 (headBytes 1 0 1 77 0 ++ [5])).afterTaking 0).ctxOfAsid 77 = none)
    ∧ (readS.sends (.read (head 0 0 0 1 0x7000) 0x9000 4096) (head 0 0 0 1 0x7000)
      ∧ (readS.afterTaking 0).ctxOfAsid 1 = some 0 ∧ 0x7000 % 2 ^ 14 + 4096 = 2 ^ 14
      ∧ (readS.afterTaking 0).fwCheck 0 0x7000 needRead = .ok 0x1000007000
      ∧ ((readS.afterTaking 0).ctxUse 0 0x7000 4096 false).poisoned 0x1000007000 4096 = false)
    ∧ (mailS pagesM 0 (headBytes 4 0 0 1 0)).sends (.fenceOrder (head 0 0 0 1 0)) (head 0 0 0 1 0)
    ∧ (mailS pagesM 0 (headBytes 4 1 0 1 0 ++ leBytes 8 0x4000)).sends (.inval (head 0 1 0 1 0) 0x4000) (head 0 1 0 1 0)
    ∧ (evictS.sends (.evict (head 0 2 0 1 0x4000)) (head 0 2 0 1 0x4000) ∧ canonical 0x4000 = true
      ∧ (match (evictS.afterTaking 0).walk 0 0x4000 with
        | .leaf pte a _ => !(ptePin pte || pteEpin pte || pteShd pte) && !isRegSpace a
        | _ => false) = true)
    ∧ (let s := evictPinS
       s.sends (.evict (head 0 2 0 1 0x4000)) (head 0 2 0 1 0x4000)
        ∧ (match (s.afterTaking 0).walk 0 0x4000 with
        | .leaf pte a _ => ptePin pte && !isRegSpace a
        | _ => false) = true) :=
  ⟨⟨sends_of (by decide +kernel), by decide +kernel⟩, ⟨sends_of (by decide +kernel), by decide +kernel⟩,
    ⟨sends_of (by decide +kernel), by decide +kernel⟩, sends_of (by decide +kernel), sends_of (by decide +kernel),
    ⟨sends_of (by decide +kernel), by decide +kernel⟩, sends_of (by decide +kernel), by decide +kernel⟩

/-- PUT of queue 3, of one not installed, of another function's; INSTALL of a free number and one taken; REMOVE of an idle queue and
one with a command taken; the end of a drained one. -/
theorem witness_QueueMessages :
    (put0.sends (.queuePut (head 0 0 0 0 0) 3) (head 0 0 0 0 0) ∧ (put0.queues.get 3).installed = true
      ∧ (put0.queues.get 3).draining = none ∧ (put0.queues.get 3).halt = 0)
    ∧ ((mailS pagesM 0 (headBytes 2 0 0 0 0 ++ leBytes 2 1023)).sends (.queuePut (head 0 0 0 0 0) 1023) (head 0 0 0 0 0)
      ∧ (pagesM.queues.get 1023).installed = false)
    ∧ (put3.sends (.queuePut (head 3 0 0 0 0) 3) (head 3 0 0 0 0) ∧ put3.owns 3 (put3.ctx 0).asid = false)
    ∧ (installS.sends (.install (head 0 1 0 0 0x4040) 5 0x30000 0x50000 7 9 true 0x11223344) (head 0 1 0 0 0x4040)
      ∧ fieldAt (installS.readPhys 0x30000 64) 54 2 = 6
      ∧ (installS.queues.get 5).installed = false ∧ (installS.ctx 6).installed = false ∧ (installS.ctx 6).killed = false)
    ∧ (let s := { installS with queues := installS.queues.upd 5 fun v => { v with installed := true } }
       s.sends (.install (head 0 1 0 0 0x4040) 5 0x30000 0x50000 7 9 true 0x11223344) (head 0 1 0 0 0x4040)
        ∧ (s.queues.get 5).installed = true)
    ∧ (let s := { installS with ctxs := installS.ctxs.upd 6 fun c => { c with
        installed := true, killed := true, ptroot := 0x20000, codebase := 0x8000, faultq := 0x5000, faultLog := 6, shpool := 0x60000
        shpooln := 2, asid := 44, id := 6, pool := 0x50000, poolSize := 7, heapSize := 9, debug := true, capbase := 0x11223344 } }
       s.sends (.install (head 0 1 0 0 0x4040) 5 0x30000 0x50000 7 9 true 0x11223344) (head 0 1 0 0 0x4040)
        ∧ (s.queues.get 5).installed = false ∧ (s.ctx 6).installed = true ∧ (s.ctx 6).killed = true
        ∧ (s.ctx 6).same (s.readPhys 0x30000 64) 0x50000 7 9 true 0x11223344 = true)
    ∧ ((removeS false).sends (.remove (head 0 2 0 0 0) 3) (head 0 2 0 0 0) ∧ ((removeS false).box 0).owed = []
      ∧ ((removeS false).queues.get 3).taken = [] ∧ ((removeS false).queues.get 3).umx = none)
    ∧ ((removeS true).sends (.remove (head 0 2 0 0 0) 3) (head 0 2 0 0 0) ∧ ((removeS true).box 0).owed = []
      ∧ ((removeS true).queues.get 3).taken ≠ [] ∧ ((removeS true).queues.get 3).draining = none)
    ∧ ((drainedS.queues.get 3).draining = some (0, 9) ∧ (drainedS.queues.get 3).taken = []
      ∧ (drainedS.box 0).owed = [(4, entryOf (head 0 2 0 0 0) 2 0 0)]
      ∧ ((drainedS.box 0).cqtail + 2 ^ 32 - (drainedS.box 0).cqhead) % 2 ^ 32 < 2 ^ (drainedS.box 0).cqsize
      ∧ drainedS.fw.linkUp = true) :=
  ⟨⟨sends_of (by decide +kernel), by decide +kernel⟩, ⟨sends_of (by decide +kernel), by decide +kernel⟩,
    ⟨sends_of (by decide +kernel), by decide +kernel⟩, ⟨sends_of (by decide +kernel), by decide +kernel⟩,
    ⟨sends_of (by decide +kernel), by decide +kernel⟩, ⟨sends_of (by decide +kernel), by decide +kernel⟩,
    ⟨sends_of (by decide +kernel), by decide +kernel⟩, ⟨sends_of (by decide +kernel), by decide +kernel⟩, by decide +kernel⟩

/-- Replays by token and by page that succeed, that fail, of a reserved result, of a killed context, and of no entry. -/
theorem witness_Replays :
    (∀ r ∈ [0, 1, 2], (parkedS 1 r).sends (.replayByToken (head 0 1 0 1 0) token r) (head 0 1 0 1 0)
      ∧ (parkedS 0 r).sends (.replayByPage (head 0 0 0 1 0x7000) r) (head 0 0 0 1 0x7000))
    ∧ (let w := ((parkedS 1 0).sect 100).waits.get 200
       token / 2 ^ 8 % 128 = 100 ∧ token % 256 = 200 ∧ w.used = true ∧ tokenOf 100 200 w = token ∧ w.asid = 1
        ∧ 0x7000 / pageSize w.level = w.page / pageSize w.level)
    ∧ 1 ∉ (parkedS 1 0).fw.killedAsids ∧ (((parkedS 1 0).sect 100).waits.get 200).held = false ∧ (parkedS 1 0).saving = []
    ∧ (heldWaitS.sends (.replayByToken (head 0 1 0 1 0) token 0) (head 0 1 0 1 0)
      ∧ ((heldWaitS.sect 100).waits.get 200).held = true ∧ ((heldWaitS.sect 100).waits.get 200).used = true)
    ∧ ((staleS 1).sends (.replayByToken (head 0 1 0 1 0) token 0) (head 0 1 0 1 0)
      ∧ (staleS 0).sends (.replayByPage (head 0 0 0 1 0x7000) 0) (head 0 0 0 1 0x7000) ∧ 1 ∈ (staleS 1).fw.killedAsids)
    ∧ ({ parkedS 1 0 with sects := [] }.sends (.replayByToken (head 0 1 0 1 0) token 0) (head 0 1 0 1 0)
      ∧ ({ parkedS 1 0 with sects := [] }.sect 100).waits.get 200 = default) :=
  ⟨fun r h => ⟨sends_of ((by decide +kernel : ∀ r ∈ [0, 1, 2], sendsB (parkedS 1 r) (.replayByToken (head 0 1 0 1 0) token r) (head 0 1 0 1 0) = true) r h),
      sends_of ((by decide +kernel : ∀ r ∈ [0, 1, 2], sendsB (parkedS 0 r) (.replayByPage (head 0 0 0 1 0x7000) r) (head 0 0 0 1 0x7000) = true) r h)⟩,
    by decide +kernel, by decide +kernel, by decide +kernel, by decide +kernel, ⟨sends_of (by decide +kernel), by decide +kernel⟩,
    ⟨sends_of (by decide +kernel), sends_of (by decide +kernel), by decide +kernel⟩, sends_of (by decide +kernel), by decide +kernel⟩

/-- REPORT, EXTEND at both ends of M4 to M7 and past them, STAGE, COMMIT with and without a staged image, its end and its time-out at
exactly 10 ms. -/
theorem witness_FirmwareMessages_images :
    ((mailS pagesM 0 reportB).sends (.report (head 0 0 0 0 0) (List.replicate 32 7) 0x9000) (head 0 0 0 0 0)
      ∧ ∀ i < 8, ((mailS pagesM 0 reportB).fw.m i).length = 64)
    ∧ (∀ i ∈ [3, 4, 7, 8], (extendS i).sends (.extend (head 0 1 0 0 0) i (List.replicate 47 3)) (head 0 1 0 0 0))
    ∧ (mailS pagesM 0 (headBytes 7 0 0 0 0 ++ leBytes 8 0x9000 ++ leBytes 4 2)).sends
        (.stage (head 0 0 0 0 0) 0x9000 2 [1, 2]) (head 0 0 0 0 0)
    ∧ (commitS.sends (.commit (head 0 1 0 0 0)) (head 0 1 0 0 0) ∧ commitS.translating = false ∧ commitS.fw.staged = none)
    ∧ ({ commitS with fw := { commitS.fw with staged := some [1] } }.sends (.commit (head 0 1 0 0 0)) (head 0 1 0 0 0))
    ∧ committingS.fw.committing = some (0, 9, 2, 7) ∧ committingS.fw.staged = some [1]
    ∧ 7 + micros 10000 = committingS.time :=
  ⟨⟨sends_of (by decide +kernel), by decide +kernel⟩,
    fun i h => sends_of ((by decide +kernel : ∀ i ∈ [3, 4, 7, 8],
      sendsB (extendS i) (.extend (head 0 1 0 0 0) i (List.replicate 47 3)) (head 0 1 0 0 0) = true) i h),
    sends_of (by decide +kernel), ⟨sends_of (by decide +kernel), by decide +kernel⟩, sends_of (by decide +kernel), by decide +kernel⟩

/-- VFASID, VFMSIX and POWER at the ends of their ranges, past them, and against another function's block. -/
theorem witness_FirmwareMessages_limits :
    (∀ x ∈ [(32, 65535, 1), (33, 0, 1), (0, 5, 1), (32, 65535, 2)],
      (vfS 0 x.1 x.2.1 x.2.2).sends (.vfasid (head 0 0 0 0 0) x.1 x.2.1 x.2.2) (head 0 0 0 0 0))
    ∧ (let u := (vfS 0 32 65535 1).afterTaking 0
       (∀ b ∈ u.mailbox, b.1 ≠ 32 → b.1 ≠ 0 → rangesMeet 65535 1 b.2.asidBase b.2.asidCount = false)
        ∧ (∀ x ∈ u.queues, x.2.installed = true → ¬ ((u.box 32).asidBase ≤ (u.ctx x.2.ctx).asid
          ∧ (u.ctx x.2.ctx).asid < (u.box 32).asidBase + (u.box 32).asidCount)))
    ∧ (vfMeetS.sends (.vfasid (head 0 0 0 0 0) 4 8 1) (head 0 0 0 0 0)
      ∧ ∃ b ∈ (vfMeetS.afterTaking 0).mailbox, b.1 ≠ 4 ∧ b.1 ≠ 0 ∧ rangesMeet 8 1 b.2.asidBase b.2.asidCount = true)
    ∧ (∀ x ∈ [(32, 2047, 1), (33, 5, 1), (32, 2047, 2)],
      (vecS x.1 x.2.1 x.2.2).sends (.vfmsix (head 0 1 0 0 0) x.1 x.2.1 x.2.2) (head 0 1 0 0 0))
    ∧ (let u := (vecS 32 2047 1).afterTaking 0
       (u.box 32).vecCount = 0 ∧ ∀ b ∈ u.mailbox, b.1 ≠ 32 → rangesMeet 2047 1 b.2.vecFirst b.2.vecCount = false)
    ∧ ((vfS 1 32 2047 1).sends (.vfmsix (head 0 1 0 0 0) 32 2047 1) (head 0 1 0 0 0)
      ∧ ∃ b ∈ ((vfS 1 32 2047 1).afterTaking 0).mailbox, b.1 ≠ 32 ∧ rangesMeet 2047 1 b.2.vecFirst b.2.vecCount = true)
    ∧ ∀ w ∈ [3999, 4000, 10000, 10001],
      (mailS pagesM 0 (headBytes 8 2 0 0 0 ++ leBytes 4 w)).sends (.power (head 0 2 0 0 0) w) (head 0 2 0 0 0) :=
  ⟨fun x h => sends_of ((by decide +kernel : ∀ x ∈ [(32, 65535, 1), (33, 0, 1), (0, 5, 1), (32, 65535, 2)],
      sendsB (vfS 0 x.1 x.2.1 x.2.2) (.vfasid (head 0 0 0 0 0) x.1 x.2.1 x.2.2) (head 0 0 0 0 0) = true) x h),
    by decide +kernel, ⟨sends_of (by decide +kernel), by decide +kernel⟩,
    fun x h => sends_of ((by decide +kernel : ∀ x ∈ [(32, 2047, 1), (33, 5, 1), (32, 2047, 2)],
      sendsB (vecS x.1 x.2.1 x.2.2) (.vfmsix (head 0 1 0 0 0) x.1 x.2.1 x.2.2) (head 0 1 0 0 0) = true) x h),
    by decide +kernel, ⟨sends_of (by decide +kernel), by decide +kernel⟩,
    fun w h => sends_of ((by decide +kernel : ∀ w ∈ [3999, 4000, 10000, 10001],
      sendsB (mailS pagesM 0 (headBytes 8 2 0 0 0 ++ leBytes 4 w)) (.power (head 0 2 0 0 0) w) (head 0 2 0 0 0) = true) w h)⟩

/-- debugS with a wave of four lanes of grid 7, stopped for the debugger with its record at 0x2040. -/
def trapS : State :=
  { debugS with
    wave := { debugS.wave with
      width := 4, rf := debugS.wave.rf.setK 0 100 0xABCD, parts := debugS.wave.parts.map fun p => { p with members := 1, masks := 0xF }
      stop := some { (default : Stop) with debug := true, dump := 0x2040 } }
    wg := { debugS.wg with grid := 7 }, grids := [{ (default : Grid) with id := 7, dealing := true }] }

/-- The debug command block: OP of the wave of WAVE 0 in context 0 with a dump, ADDR. -/
def blockOf (op addr dump : Nat) : Cells Byte :=
  Cells.write [] 0 ([BitVec.ofNat 8 op, 1] ++ leBytes 2 0 ++ leBytes 4 0 ++ leBytes 8 addr ++ leBytes 8 dump)
def stoppedS (op : Nat) : State := { trapS with debugBlk := blockOf op 0x1000 0x2040 }
/-- READREGS of a record that no stopped wave has, with the wave stopped and running; ADDR not aligned. -/
def astrayS (stop : Bool) : State :=
  { trapS with debugBlk := blockOf 4 0x1000 77, wave := { trapS.wave with stop := if stop then trapS.wave.stop else none } }
def unalignedS (op : Nat) : State := { trapS with debugBlk := blockOf op 0x1004 0x2040 }

/-- An error of a unit in core 1 of the first I/O die, and a machine with a wave, a full slot and a context there. -/
def ecc (unit target : Nat) (beyond : Bool) : EccReport := ⟨unit, 1, 0x4040, target, 1, 0, 5, beyond⟩
def eccS : State :=
  { sleepS with cores := sleepS.cores.upd 1 fun c => { c with ctx := some 0, slots := c.slots.upd 3 fun x => { x with valid := true, image := [1] } } }

/-- Boot at a step, tried `tries` times; the link down for exactly 1 s. -/
def bootS (step tries : Nat) : State := { State.reset with fw := { State.reset.fw with step := step, tries := tries } }
def outcome (passed : Bool) : BootOutcome := ⟨passed, 3, 4, [], [1], 0x80000001, 2, 4, 6, 4, [[1], [2], [3]]⟩
def portS (narrow : Bool) : State := { base with fw := { base.fw with ports := 0x80000001, narrow := if narrow then 0x80000000 else 0 } }
def lostS : State :=
  { base with time := micros 1000000 + 5, fw := { base.fw with step := 11, linkUp := false, downSince := 5, heldHost := [(0x9000, [1])] } }

/-- debugS with lane 1 active, v[4:5] there as given, a window of 4 KiB, page 1 without R and page 64 without an entry. -/
def oneS (lo hi : Word) : State :=
  let s := given (active debugS 2) [(1, 4, lo), (1, 5, hi)]
  { s with
    mem := Cells.write s.mem 0x1C008 (leBytes 8 0x433B), wg := { s.wg with launch := { s.wg.launch with scratch := 1 } } }

/-- A state whose step issues one IADD; one whose agenda holds a warm reset; parts in each slot of the packet at index 30. -/
def iaddS : State := State.reset.withFetchWord 32 0b0_000001_0000011_0000001_0000010_0000
def resetS : State := { base with agenda := [.warmReset, .coldReset] }
def slotS (i : Word) (words : List Nat) : State :=
  { base with
    mem := Cells.write base.mem 128 (words.flatMap (leBytes 4))
    wave := { base.wave with parts := base.wave.parts.map fun p => { p with pc := i } } }

theorem chunks_below (va : Nat) (n : Nat) (bs : List Byte) : ∀ c ∈ chunks va n bs, c.1 < va + bs.length := by
  induction n generalizing va bs with
  | zero => simp [chunks]
  | succ n ih =>
    intro c hc
    simp only [chunks] at hc
    split at hc
    · simp at hc
    · next hb =>
      have hp : 0 < bs.length := List.length_pos_iff.mpr hb
      split at hc
      · next h =>
        rcases List.mem_cons.mp hc with rfl | hc
        · dsimp only; omega
        · have := ih _ _ c hc; rw [List.length_drop] at this; omega
      · rcases List.mem_cons.mp hc with rfl | hc
        · dsimp only; omega
        · have := ih _ _ c hc; rw [List.length_drop] at this; omega

theorem walk_first (s : State) (ctx : Nat) {va : Nat} (h : va < 2 ^ 14) : s.walk ctx va = s.walk ctx 0 := by
  have z : ∀ k, va / 2 ^ (14 + k) = 0 := fun k => Nat.div_eq_of_lt (Nat.lt_of_lt_of_le h (Nat.pow_le_pow_right (by decide) (by omega)))
  have z0 : va / 2 ^ 14 = 0 := z 0
  simp only [State.walk, State.walkFrom, natBits, z, z0, Nat.zero_div]

/-- A range of the first page, when that page grants it. -/
theorem span_first {s : State} {ctx va n : Nat} {need : Need} (h : va + n ≤ 2 ^ 14)
    (w : (match s.walk ctx 0 with
      | .leaf pte _ _ => grants pte need
      | _ => false) = true) : ∃ pa, s.fwSpan ctx va n need = .ok pa := by
  have one : ∀ v < 2 ^ 14, ∃ pa, s.fwCheck ctx v need = .ok pa := by
    intro v hv
    have c : canonical v = true := by
      have : v % 2 ^ 64 / 2 ^ 57 = 0 := by omega
      unfold canonical
      rw [this]
      rfl
    unfold State.fwCheck
    rw [c, walk_first s ctx hv]
    revert w
    cases s.walk ctx 0 <;> simp
    intro g; simp [g]
  have all : ∀ (l : List (Nat × List Byte)) (pa : Nat), (∀ c ∈ l, c.1 < 2 ^ 14) → ∃ r, l.foldl (fun e c =>
      match e with
      | .ok pa => match s.fwCheck ctx c.1 need with
        | .ok _ => .ok pa
        | e => e
      | e => e) (FwEnd.ok pa) = .ok r := by
    intro l
    induction l with
    | nil => intro pa _; exact ⟨pa, rfl⟩
    | cons c l ih =>
      intro pa h
      obtain ⟨r, hr⟩ := one c.1 (h c (List.mem_cons_self ..))
      simp only [List.foldl_cons, hr]
      exact ih pa fun d hd => h d (List.mem_cons_of_mem _ hd)
  refine all _ 0 fun c hc => ?_
  have := chunks_below _ _ _ c hc
  rw [List.length_replicate] at this
  omega

theorem debugRange_first {s : State} {ctx va n : Nat} {need : Need} (h : va + n ≤ 2 ^ 14 ∧ va % 8 = 0)
    (w : (match s.walk ctx 0 with
      | .leaf pte _ _ => grants pte need
      | _ => false) = true) : s.debugRange ctx va n need = true := by
  obtain ⟨pa, e⟩ := span_first h.1 w
  simp [State.debugRange, e, h.2]

theorem asked_of {s : State} {b : Cells Byte} {op ctx wave dump : Nat} (f : s.InFocus) (g : s.saving = [] ∧ s.wg.ctx = ctx
    ∧ waveWord s.wg.core s.wave = wave) (a : { s with debugBlk := b }.debugAsks op ctx wave dump = true)
    (st : ∃ st, s.wave.stop = some st ∧ st.debug = true ∧ st.dump = dump ∧ st.stepping = none ∧ st.held = false) :
    { s with debugBlk := b }.asked op ctx wave dump := ⟨f, g.1, a, g.2.1, g.2.2, st⟩

/-- A wave stopped for the debugger, of a grid; each command of it. -/
theorem witness_DebugCommands_asked (op : Nat) (h : op ∈ [1, 2, 3, 4, 5]) : (stoppedS op).asked op 0 0 0x2040 := by
  have f : trapS.InFocus := focus_of (by decide +kernel)
  have g : trapS.saving = [] ∧ trapS.wg.ctx = 0 ∧ waveWord trapS.wg.core trapS.wave = 0 := by decide +kernel
  have st : ∃ st, trapS.wave.stop = some st ∧ st.debug = true ∧ st.dump = 0x2040 ∧ st.stepping = none ∧ st.held = false := by
    have : (trapS.wave.stop.any fun st => st.debug && st.dump == 0x2040 && st.stepping.isNone && !st.held) = true := by decide +kernel
    obtain ⟨st, e, x⟩ := (Option.any_eq_true ..).mp this
    simp only [Bool.and_eq_true, beq_iff_eq, Option.isNone_iff_eq_none, Bool.not_eq_true'] at x
    exact ⟨st, e, x.1.1.1, x.1.1.2, x.1.2, x.2⟩
  have b : ∀ op ∈ [1, 2, 3, 4, 5], (stoppedS op).debugAsks op 0 0 0x2040 = true := by decide +kernel
  exact asked_of f g (b op h) st

/-- Its grid; ranges that can be used, and one that is not aligned; a wave that runs and one not found. -/
theorem witness_DebugCommands :
    (trapS.wg.grid = 7 ∧ (trapS.gridOf 7).id = 7 ∧ (trapS.gridOf 7).done = false)
    ∧ (stoppedS 4).debugAddr = 0x1000 ∧ (stoppedS 4).wave.quadCount = 1
    ∧ ((List.range 1).flatMap (quadRecord (stoppedS 4).wave)).length = 1728
    ∧ (stoppedS 4).debugRange 0 0x1000 1728 needWrite = true ∧ (stoppedS 5).debugRange 0 0x1000 1728 needRead = true
    ∧ ((∀ op ∈ [4, 5], (unalignedS op).debugAsks op 0 0 0x2040 = true ∧ (unalignedS op).debugAddr = 0x1004)
      ∧ (unalignedS 4).debugRange 0 0x1004 1728 needWrite = false ∧ (unalignedS 5).debugRange 0 0x1004 1728 needRead = false)
    ∧ (∀ x : Bool, (astrayS x).debugAsks 4 0 0 77 = true ∧ (astrayS x).debugAddr = 0x1000)
    ∧ (astrayS true).target 0 0 77 = .missing ∧ (astrayS false).target 0 0 77 = .running := by
  refine ⟨by decide +kernel, by decide +kernel, by decide +kernel, ?_, debugRange_first (by decide) (by decide +kernel),
    debugRange_first (by decide) (by decide +kernel), by decide +kernel⟩
  have one : List.range 1 = [0] := rfl
  simp [one, quadRecord_length]

/-- A graver record while the log has room; errors of every unit, corrected and beyond correction. -/
theorem witness_DetectedErrors :
    (⟨2, 8, 0, 0, 0, 0, 0, 3⟩ : McInfo).sev ≠ 1 ∧ { eccS.mclog with wridx := 254 }.used = 254
    ∧ (∀ u ∈ [0, 1, 4, 5, 7, 8], (ecc u 0 false).beyond = false ∧ (ecc u 0 false).unit = u)
    ∧ (ecc 1 65535 true).target < 65536
    ∧ (let x := (eccS.core (coreOfLoc (ecc 2 3 true).loc)).slots.get 3
       x.valid = true ∧ x.fromScratch = false)
    ∧ (∀ u ∈ [0, 7], eccS.errorCtx (ecc u 0 true) = 0) ∧ (eccS.ctx 0).installed = true ∧ (eccS.ctx 0).killed = false
    ∧ (eccS.core (coreOfLoc (ecc 4 0 true).loc)).ctx = some 0
    ∧ eccS.fw.takenOver = false ∧ { eccS with fw := { eccS.fw with takenOver := true } }.fw.takenOver = true := by decide +kernel

/-- A reset; the first and last boot steps, the optional one and one that is required, tried and not tried; a lower DVFS point, and a
higher one exactly 1 ms after the last throttling. -/
theorem witness_ResetsAndBoot :
    (∀ x ∈ [(1, 0), (10, 0), (6, 1), (7, 1), (8, 0), (4, 1)], (bootS x.1 x.2).fw.stuck = false ∧ (bootS x.1 x.2).fw.step = x.1
      ∧ (bootS x.1 x.2).fw.tries = x.2)
    ∧ (∀ n ∈ [1, 4, 6, 7, 10], bootPasses n (outcome true) = true) ∧ (∀ n ∈ [1, 6, 8], bootPasses n (outcome false) = false)
    ∧ State.reset.fw.dvfs.toNat < (3 : BitVec 2).toNat
    ∧ (let s := { State.reset with time := micros 1000 + 5, fw := { State.reset.fw with dvfs := 3, throttledAt := 5 } }
       (2 : BitVec 2).toNat < s.fw.dvfs.toNat ∧ s.fw.throttledAt + micros 1000 ≤ s.time) := by decide +kernel

/-- Step 8 passes exactly where its image carries the module's signature, which the model leaves free (log entry 10). -/
theorem witness_ResetsAndBoot_signature (h : Config.verifies [1] = true) : bootPasses 8 (outcome true) = true := by
  simpa [bootPasses, outcome] using h

/-- A port in use at four lanes and at two, the last of 32; the link up; the link down for exactly 1 s. -/
theorem witness_Links :
    (portS false).fw.ports.getLsbD (31#5).toNat = true ∧ (portS false).fw.narrow.getLsbD (31#5).toNat = false
    ∧ (portS true).fw.narrow.getLsbD (31#5).toNat = true
    ∧ (booted base).fw.linkUp = true ∧ (booted base).fw.downLong = false
    ∧ lostS.fw.linkUp = false ∧ lostS.fw.downLong = false ∧ lostS.booted = true ∧ lostS.fw.downSince + micros 1000000 = lostS.time
    ∧ (∀ x ∈ [(7, 16), (6, 8), (5, 4)], linkGood x.1 x.2 = true) ∧ 7 < lostS.fw.step := by
  decide +kernel

/-- The smallest address that is not canonical; an unaligned one; a page without an entry and one without R; offsets at the ends of a
window of 4 KiB. -/
theorem witness_AccessAndFieldTraps :
    (∀ x ∈ [(0, 0x2000000), (2, 0), (0x100000, 0), (0x4000, 0), (4090, 0), (4093, 0)],
      let s := oneS (BitVec.ofNat 32 x.1) (BitVec.ofNat 32 x.2)
      s.InFocus ∧ s.wave.stop = none ∧ s.iss.trapped = false ∧ s.iss.parked = false ∧ (s.ctx s.wg.ctx).debug = true ∧ s.act = [1]
        ∧ s.u2 4 1 = x.1 + 2 ^ 32 * x.2 ∧ s.u 4 1 = x.1 ∧ s.wg.launch.scratch = 1 ∧ roomB s 0x2000 0x2040 0 = true)
    ∧ canonical (0x2000000 * 2 ^ 32) = false ∧ canonical 2 = true ∧ 2 % 4 ≠ 0
    ∧ (let s := oneS 0x100000 0
       lineOf (s.core s.wg.core) (s.ctx s.wg.ctx).asid 0x100000 = none ∧ s.look (sectOf s.wg.core) s.wg.ctx 0x100000 false = .invalid)
    ∧ (let s := oneS 0x4000 0
       lineOf (s.core s.wg.core) (s.ctx s.wg.ctx).asid 0x4000 = none
        ∧ (match s.look (sectOf s.wg.core) s.wg.ctx 0x4000 false with
          | .leaf pte _ _ => !pteR pte
          | _ => false) = true)
    ∧ 4096 * 1 < 4093 + 4 ∧ 4090 + 4 ≤ 4096 * 1 ∧ 4090 % 4 ≠ 0 ∧ sizeFits 4 8 ∧ 5 ≤ (5#3).toNat ∧ 5 ≤ (7#3).toNat := by
  unfold State.InFocus sizeFits; decide +kernel

def nextOf (o : Host.Outcome State Fault Refusal) : Option State :=
  match o with
  | .next t => some t
  | _ => none

theorem next_of {o : Host.Outcome State Fault Refusal} (h : (nextOf o).isSome = true) : o = .next ((nextOf o).getD State.reset) := by
  cases o <;> simp_all [nextOf]

def openedReset : State := (nextOf (resetS.beginCycle.happenAll resetS.beginCycle.deadlines)).getD State.reset
/-- A chain of two IADDs, the second of which reads what the first writes. -/
def pairIaddS : State := State.reset.withFetchWord 64 (0x820C0820 + 2 ^ 32 * 0b0_000001_0000100_0000011_0000010_0000)
def openedPair : State := (nextOf pairIaddS.openCycle).getD State.reset

/-- A chain of two, the one pick of its cycle, whose instructions act as they stand. -/
theorem witness_StepRunsDecoded_chain : (nextOf pairIaddS.openCycle).isSome = true ∧ openedPair.allPicks.length = 1
    ∧ ∀ p ∈ openedPair.allPicks, openedPair.noteLosers.stillReady p = true
      ∧ (let t := openedPair.noteLosers.at' p
         let x : Item := (30, decodeAt 0x820C0820 (some 0x02101820))
         let y : Item := (31, decodeAt 0x02101820 (some 0))
         let c := slateOf t.part [x, y]
         let s := t.fetchTouch t.wg.core t.wg.ctx t.part.pc.toNat
         let u := (nextOf (exec x.2.instr ((s.begin' c true).latch x))).getD State.reset
         let v := (nextOf (exec y.2.instr (u.latch y))).getD State.reset
         t.fetchPart = .chain [x, y] ∧ x.2.instr = .iadd 3 1 2 ∧ y.2.instr = .iadd 4 3 2 ∧ c.list = [x, y] ∧ s.chainWidth c.list = none
          ∧ x.2.rsv = false ∧ y.2.rsv = false ∧ (s.begin' c true).mustWait x.2.instr = false ∧ u.mustWait y.2.instr = false
          ∧ ((s.begin' c true).latch x).statusScope (guardOf x.2.instr) x.2.instr = 0
          ∧ (u.latch y).statusScope (guardOf y.2.instr) y.2.instr = 0
          ∧ ((s.begin' c true).latch x).poisonTrap (guardOf x.2.instr) x.2.instr = none
          ∧ (u.latch y).poisonTrap (guardOf y.2.instr) y.2.instr = none ∧ u.iss.traps = (s.begin' c true).iss.traps
          ∧ v.iss.traps = u.iss.traps ∧ v.iss.parks = [] ∧ (nextOf (s.issueSlate c)).isSome = true) := by decide +kernel

def openedIadd : State := (nextOf iaddS.openCycle).getD State.reset

/-- An event of the agenda; an IADD alone in its chain, the one pick of its cycle; each form of each slot of a packet. -/
theorem witness_StepRunsDecoded :
    (∃ u t, resetS.beginCycle.happenAll resetS.beginCycle.deadlines = .next u ∧ u.tickClocks.agenda = [.warmReset, .coldReset]
      ∧ Instr.warmReset.isEvent = true ∧ engineOf .warmReset = none
      ∧ exec .warmReset { u.tickClocks with agenda := [.coldReset] } = .next t)
    ∧ (∃ u, iaddS.openCycle = .next u ∧ u.allPicks.length = 1 ∧ ∀ p ∈ u.allPicks, u.noteLosers.stillReady p = true
      ∧ (let t := u.noteLosers.at' p
         let d := decodeAt 0x020C0820 (some 0)
         t.fetchPart = .chain [(t.part.pc, d)] ∧ d.instr = .iadd 3 1 2 ∧ d.ch = false ∧ t.part.redo = none ∧ t.part.serial = none
          ∧ (t.atInstr d).statusScope (guardOf d.instr) d.instr = 0
          ∧ (t.atInstr d).poisonTrap (guardOf d.instr) d.instr = none ∧ (nextOf (exec d.instr (t.atInstr d))).isSome = true))
    ∧ (∀ x ∈ [((30 : Word), [0x7E000000, 0, 0x02000000]), (30, [0x02000000, 0, 0]), (31, [0x02000000, 0x7E000000, 0]),
        (32, [0x7E000000, 0, 0x7E000000])],
      let t := slotS x.1 x.2
      (let i := t.part.pc.toNat
       i / 30 * 128 + i % 30 * 4 < 16384 * (t.ctx t.wg.ctx).heapSize ∧ 30 ≤ i)
      ∧ t.paOf 128 = 128 ∧ t.poisoned 128 128 = false ∧ t.lineSpoilt t.wg.core t.wg.ctx 128 = false)
    ∧ base.Mapped 128 ⟨false, false, true, false⟩ := by
  refine ⟨⟨openedReset, (nextOf (exec .warmReset { openedReset.tickClocks with agenda := [.coldReset] })).getD State.reset,
      next_of (by decide +kernel), by decide +kernel, by decide +kernel, by decide +kernel, next_of (by decide +kernel)⟩,
    ⟨openedIadd, next_of (by decide +kernel), by decide +kernel, by decide +kernel⟩, by decide +kernel, mapped_of (by decide +kernel)⟩

/-- One instruction of each kind that encodes: short, long, with every field nonzero; memory of the base state. -/
theorem witness_DecodingInvertsEncoding :
    (∀ i ∈ [(.iadd 127 1 2 : Instr), .lop3 ⟨7, true⟩ 0xCA 1 2 3 127, .movi .always 3 0xFFFFFFFF, .exit],
      i.wf = true ∧ i.isEvent = false ∧ i ≠ .pktstraddle ∧ ∀ r, i ≠ .illop r)
    ∧ isHead 0x7E000000 = true ∧ (bits 17 8 (0x7E1C0000 : Word)).toNat = 0x0E ∧ (bits 17 8 (0x7FFE0000 : Word)).toNat = 0xFF := by
  refine ⟨?_, by decide +kernel⟩
  intro i h
  simp only [List.mem_cons, List.not_mem_nil, or_false] at h
  obtain rfl | rfl | rfl | rfl := h <;> exact ⟨by decide +kernel, by decide +kernel, by decide, by intro r; simp⟩

theorem witness_StepsKeepMemoryForm : Memory.wf iaddS.mem = true ∧ (match step iaddS with
    | .next _ => true
    | _ => false) = true := by decide +kernel

end Sys2Proof.Tests
end

section
/-!
Words as numbers: each word operation of the integer instructions is the number that the manual's tables give, reduced
modulo 2^32 or 2^64 (R165 to R179).
-/

namespace Sys2Proof.Machine

/-! ### Differences, logic and shifts at any width -/

variable {w : Nat}

theorem ofInt_difference (x y : Int) : BitVec.ofInt w (x - y) = BitVec.ofInt w x - BitVec.ofInt w y := by
  rw [Int.sub_eq_add_neg, BitVec.ofInt_add, BitVec.ofInt_neg, BitVec.sub_eq_add_neg]

theorem eq_ofInt_toNat (x : BitVec w) : x = BitVec.ofInt w x.toNat := by simp

theorem sub_eq_ofInt (x y : BitVec w) : x - y = BitVec.ofInt w ((x.toNat : Int) - y.toNat) := by
  simp [ofInt_difference]

theorem mul_eq_ofInt (x y : BitVec w) : x * y = BitVec.ofInt w ((x.toNat : Int) * y.toNat) := by
  simp [BitVec.ofInt_mul]

theorem add_eq_ofInt_of_eq {p : BitVec w} {n : Int} (h : p = BitVec.ofInt w n) (x : BitVec w) :
    x + p = BitVec.ofInt w (x.toNat + n) := by
  rw [h]; simp [BitVec.ofInt_add]

theorem eq_ofInt_add_of_eq {p : BitVec w} {n : Int} (h : p = BitVec.ofInt w n) (x : BitVec w) :
    p + x = BitVec.ofInt w (n + x.toNat) := by
  rw [h]; simp [BitVec.ofInt_add]

theorem and_eq_ofNat (x y : BitVec w) : x &&& y = BitVec.ofNat w (x.toNat &&& y.toNat) := by simp [BitVec.ofNat_and]

theorem or_eq_ofNat (x y : BitVec w) : x ||| y = BitVec.ofNat w (x.toNat ||| y.toNat) := by simp [BitVec.ofNat_or]

theorem xor_eq_ofNat (x y : BitVec w) : x ^^^ y = BitVec.ofNat w (x.toNat ^^^ y.toNat) := by simp [BitVec.ofNat_xor]

theorem and_not_eq_ofNat (x y : BitVec w) : x &&& ~~~y = BitVec.ofNat w (x.toNat &&& (2 ^ w - 1 - y.toNat)) := by
  rw [← BitVec.toNat_not]
  exact and_eq_ofNat x (~~~y)

theorem shiftLeft_eq_ofNat (x : BitVec w) (n : Nat) : x <<< n = BitVec.ofNat w (x.toNat * 2 ^ n) :=
  BitVec.eq_of_toNat_eq (by rw [BitVec.toNat_shiftLeft, Nat.shiftLeft_eq, BitVec.toNat_ofNat])

theorem shiftLeft_eq_mul (x : BitVec w) (n : Nat) : x <<< n = x * BitVec.ofNat w (2 ^ n) := by
  rw [shiftLeft_eq_ofNat, BitVec.ofNat_mul, BitVec.ofNat_toNat, BitVec.setWidth_eq]

theorem shiftLeft_ofNat (z n : Nat) : BitVec.ofNat w z <<< n = BitVec.ofNat w (z * 2 ^ n) := by
  rw [shiftLeft_eq_mul, ← BitVec.ofNat_mul]

theorem shiftLeft_ofInt (z : Int) (n : Nat) : BitVec.ofInt w z <<< n = BitVec.ofInt w (z * 2 ^ n) := by
  rw [shiftLeft_eq_mul, BitVec.ofInt_mul, ← BitVec.ofInt_natCast, Int.natCast_pow]
  rfl

theorem shiftRight_eq_ofNat (x : BitVec w) (n : Nat) : x >>> n = BitVec.ofNat w (x.toNat / 2 ^ n) := by
  rw [← Nat.shiftRight_eq_div_pow, ← BitVec.toNat_ushiftRight, BitVec.ofNat_toNat, BitVec.setWidth_eq]

theorem fdiv_two_pow (z : Int) (n : Nat) : Int.fdiv z (2 ^ n) = z >>> n := by
  rw [Int.fdiv_eq_ediv_of_nonneg z (Int.pow_nonneg (by decide)), Int.shiftRight_eq_div_pow, Int.natCast_pow]
  rfl

theorem sshiftRight_eq_fdiv (x : BitVec w) (n : Nat) : x.sshiftRight n = BitVec.ofInt w (Int.fdiv x.toInt (2 ^ n)) := by
  rw [fdiv_two_pow, BitVec.sshiftRight_eq]

/-! ### Least and greatest -/

theorem signedMin_eq_ofInt (x y : BitVec w) : (if x.slt y then x else y) = BitVec.ofInt w (min x.toInt y.toInt) := by
  simp only [BitVec.slt_iff_toInt_lt]
  split
  · rw [Int.min_eq_left (by omega), BitVec.ofInt_toInt]
  · rw [Int.min_eq_right (by omega), BitVec.ofInt_toInt]

theorem signedMax_eq_ofInt (x y : BitVec w) : (if x.slt y then y else x) = BitVec.ofInt w (max x.toInt y.toInt) := by
  simp only [BitVec.slt_iff_toInt_lt]
  split
  · rw [Int.max_eq_right (by omega), BitVec.ofInt_toInt]
  · rw [Int.max_eq_left (by omega), BitVec.ofInt_toInt]

theorem unsignedMin_eq_ofNat (x y : BitVec w) : (if x < y then x else y) = BitVec.ofNat w (min x.toNat y.toNat) := by
  simp only [BitVec.lt_def]
  split
  · rw [Nat.min_eq_left (by omega), BitVec.ofNat_toNat, BitVec.setWidth_eq]
  · rw [Nat.min_eq_right (by omega), BitVec.ofNat_toNat, BitVec.setWidth_eq]

theorem unsignedMax_eq_ofNat (x y : BitVec w) : (if x < y then y else x) = BitVec.ofNat w (max x.toNat y.toNat) := by
  simp only [BitVec.lt_def]
  split
  · rw [Nat.max_eq_right (by omega), BitVec.ofNat_toNat, BitVec.setWidth_eq]
  · rw [Nat.max_eq_left (by omega), BitVec.ofNat_toNat, BitVec.setWidth_eq]

/-! ### The high half of a 64-bit value -/

/-- A word of a 64-bit value that ends at or below bit 63 is that part of the number. -/
theorem word_of_ofNat64 (z n : Nat) (h : n ≤ 32) : ((BitVec.ofNat 64 z >>> n).setWidth 32 : Word) = nat32 (z / 2 ^ n) := by
  apply BitVec.eq_of_getLsbD_eq
  intro i hi
  simp only [nat32, BitVec.getLsbD_setWidth, BitVec.getLsbD_ushiftRight, BitVec.getLsbD_ofNat, Nat.testBit_div_two_pow]
  have : n + i < 64 := by omega
  simp [hi, this, Nat.add_comm]

theorem high_of_ofInt64 (z : Int) : ((BitVec.ofInt 64 z >>> 32).setWidth 32 : Word) = int32 (Int.fdiv z (2 ^ 32)) := by
  apply BitVec.eq_of_toNat_eq
  rw [Int.fdiv_eq_ediv_of_nonneg z (by decide)]
  simp only [int32, BitVec.toNat_setWidth, BitVec.toNat_ushiftRight, BitVec.toNat_ofInt, Nat.shiftRight_eq_div_pow]
  omega

theorem setWidth32_ofInt64 (z : Int) : (BitVec.ofInt 64 z).setWidth 32 = int32 z := by
  apply BitVec.eq_of_toNat_eq
  simp only [int32, BitVec.toNat_setWidth, BitVec.toNat_ofInt]
  omega

theorem setWidth64_mul (x y : Word) : (x.setWidth 64 * y.setWidth 64 : DWord) = BitVec.ofNat 64 (x.toNat * y.toNat) := by
  rw [BitVec.ofNat_mul, BitVec.ofNat_toNat, BitVec.ofNat_toNat]

theorem signExtend64_mul (x y : Word) : (x.signExtend 64 * y.signExtend 64 : DWord) = BitVec.ofInt 64 (x.toInt * y.toInt) :=
  (BitVec.ofInt_mul x.toInt y.toInt).symm

theorem mulHigh_eq (x y : Word) : mulHigh x y = int32 (Int.fdiv (x.toInt * y.toInt) (2 ^ 32)) := by
  rw [mulHigh, signExtend64_mul, high_of_ofInt64]

theorem mulHighU_eq (x y : Word) : mulHighU x y = nat32 (x.toNat * y.toNat / 2 ^ 32) := by
  rw [mulHighU, setWidth64_mul, word_of_ofNat64 _ 32 (Nat.le_refl 32)]

/-! ### Words built bit by bit -/

/-- The number whose lowest `n` bits are given. -/
def bitSum (c : Nat → Bool) (n : Nat) : Nat := ((List.range n).map fun i => (c i).toNat * 2 ^ i).sum

theorem bitSum_succ (c : Nat → Bool) (n : Nat) : bitSum c (n + 1) = bitSum c n + (c n).toNat * 2 ^ n := by
  simp [bitSum, List.range_succ]

theorem bitSum_lt (c : Nat → Bool) (n : Nat) : bitSum c n < 2 ^ n := by
  induction n with
  | zero => simp [bitSum]
  | succ n ih => rw [bitSum_succ]; cases c n <;> simp <;> omega

theorem testBit_bitSum (c : Nat → Bool) (n i : Nat) : (bitSum c n).testBit i = (decide (i < n) && c i) := by
  induction n with
  | zero => simp [bitSum]
  | succ n ih =>
    have e : bitSum c (n + 1) = 2 ^ n * (c n).toNat + bitSum c n := by rw [bitSum_succ, Nat.mul_comm, Nat.add_comm]
    rw [e, Nat.testBit_two_pow_mul_add _ (bitSum_lt c n), ih]
    obtain h | rfl | h := Nat.lt_trichotomy i n
    · simp [h, Nat.lt_succ_of_lt h]
    · cases c i <;> simp
    · have h1 : ¬ i < n := by omega
      have h2 : ¬ i < n + 1 := by omega
      have h3 : (c n).toNat < 2 ^ (i - n) := Nat.lt_of_lt_of_le (Bool.toNat_lt _) (Nat.le_self_pow (by omega) 2)
      simp [h1, h2, Nat.testBit_lt_two_pow h3]

/-- Setting bit after bit gives the word of those bits. -/
theorem setBits_eq_bitSum (c : Nat → Bool) (n : Nat) :
    (List.range n).foldl (fun r j => if c j then r ||| BitVec.twoPow 32 j else r) (0 : Word) = nat32 (bitSum c n) := by
  induction n with
  | zero => rfl
  | succ n ih =>
    rw [List.range_succ, List.foldl_append, List.foldl_cons, List.foldl_nil, ih, bitSum_succ]
    cases c n with
    | false => simp
    | true =>
      have e : bitSum c n + 2 ^ n = bitSum c n ||| 2 ^ n := by
        have := Nat.two_pow_add_eq_or_of_lt (bitSum_lt c n) 1
        rw [Nat.mul_one] at this
        rw [Nat.add_comm, this, Nat.or_comm]
      simp only [if_true, Bool.toNat_true, Nat.one_mul, e, nat32, BitVec.ofNat_or]
      rw [show BitVec.twoPow 32 n = BitVec.ofNat 32 (2 ^ n) from BitVec.eq_of_toNat_eq (by simp)]

theorem bitReverse_eq (x : Word) : bitReverse x = x.reverse := by
  rw [bitReverse, setBits_eq_bitSum]
  apply BitVec.eq_of_getLsbD_eq
  intro i hi
  rw [nat32, BitVec.getLsbD_ofNat, testBit_bitSum, BitVec.getLsbD_reverse, BitVec.getMsbD]
  simp [hi]

theorem toNat_getLsbD (x : BitVec w) (i : Nat) : (x.getLsbD i).toNat = x.toNat / 2 ^ i % 2 := by
  rw [← BitVec.testBit_toNat, Nat.toNat_testBit]

theorem ite_getLsbD (x : BitVec w) (i k : Nat) : (if x.getLsbD i then k else 0) = k * (x.toNat / 2 ^ i % 2) := by
  rw [← toNat_getLsbD]
  cases x.getLsbD i <;> simp

theorem lut3_eq (lut : BitVec 8) (a b c : Word) : lut3 lut a b c = lop3Word lut a b c := by
  simp only [lut3, ite_getLsbD, Nat.one_mul]
  exact setBits_eq_bitSum (fun i => lut.getLsbD (a.toNat / 2 ^ i % 2 + 2 * (b.toNat / 2 ^ i % 2) + 4 * (c.toNat / 2 ^ i % 2))) 32

/-! ### Counts of bits -/

theorem length_filter_eq_sum {α : Type} (p : α → Bool) (xs : List α) :
    (xs.filter p).length = (xs.map fun x => (p x).toNat).sum := by
  induction xs with
  | nil => rfl
  | cons x xs ih => cases h : p x <;> simp [h, ih, Nat.add_comm]

theorem popcount_eq (x : Word) : popcount x = nat32 (ones x.toNat) := by
  simp only [popcount, length_filter_eq_sum, toNat_getLsbD]
  rfl

/-- From the top, the first set bit of a word is that of its logarithm. -/
theorem find?_topBit {x : Word} (h : x.toNat ≠ 0) :
    (List.range 32).find? (fun i => x.getLsbD (31 - i)) = some (31 - Nat.log2 x.toNat) := by
  have hl : Nat.log2 x.toNat < 32 := (Nat.log2_lt h).2 x.isLt
  refine List.find?_range_eq_some.2 ⟨?_, List.mem_range.2 (by omega), fun j hj => ?_⟩
  · rw [show 31 - (31 - Nat.log2 x.toNat) = Nat.log2 x.toNat by omega]
    exact Nat.testBit_log2 h
  · have : x.toNat < 2 ^ (31 - j) := (Nat.log2_lt h).1 (by omega)
    rw [← BitVec.testBit_toNat, Nat.testBit_lt_two_pow this, Bool.not_false]

theorem leadingZeros_eq (x : Word) : leadingZeros x = nat32 (if x.toNat = 0 then 32 else 31 - Nat.log2 x.toNat) := by
  unfold leadingZeros
  split
  case isTrue h =>
    obtain rfl : x = 0 := BitVec.eq_of_toNat_eq h
    decide
  case isFalse h => rw [find?_topBit h]; rfl

/-! ### Funnel shift, fields and bytes (R174 to R176) -/

theorem toNat_append_eq_add {m n : Nat} (x : BitVec m) (y : BitVec n) : (x ++ y).toNat = x.toNat * 2 ^ n + y.toNat := by
  rw [BitVec.toNat_append, Nat.shiftLeft_eq, Nat.mul_comm, ← Nat.two_pow_add_eq_or_of_lt y.isLt]

theorem append_eq_ofNat64 (a b : Word) : (b ++ a : DWord) = BitVec.ofNat 64 (a.toNat + b.toNat * 2 ^ 32) := by
  apply BitVec.eq_of_toNat_eq
  rw [toNat_append_eq_add, BitVec.toNat_ofNat]
  omega

theorem funnel_eq (left : Bool) {n : Nat} (h : n ≤ 32) (a b : Word) : funnel left n a b
    = nat32 (if left then (b.toNat * 2 ^ 32 + a.toNat) * 2 ^ n / 2 ^ 32 else (b.toNat * 2 ^ 32 + a.toNat) / 2 ^ n) := by
  rw [funnel, append_eq_ofNat64, shiftLeft_ofNat, Nat.add_comm a.toNat]
  cases left with
  | false => rw [if_neg Bool.false_ne_true, if_neg Bool.false_ne_true, word_of_ofNat64 _ n h]
  | true => rw [if_pos rfl, if_pos rfl, word_of_ofNat64 _ 32 (Nat.le_refl 32)]

theorem bitExtract_eq (signed : Bool) (p l : Nat) (a : Word) : bitExtract signed p l a =
    (let n := min 32 l
      let f := Int.fdiv (if signed then a.toInt else (a.toNat : Int)) (2 ^ p) % 2 ^ n
      int32 (if signed = true ∧ 0 < n ∧ 2 ^ (n - 1) ≤ f then f - 2 ^ n else f)) := by
  simp only [bitExtract, Nat.min_comm l, Bool.and_eq_true, decide_eq_true_eq, and_assoc, int32]

theorem bitInsert_eq (p l : Nat) (a b : Word) :
    bitInsert p l a b = nat32 ((a.toNat &&& (2 ^ 32 - 1 - (2 ^ min 32 l - 1) * 2 ^ p % 2 ^ 32))
      ||| (b.toNat * 2 ^ p &&& ((2 ^ min 32 l - 1) * 2 ^ p % 2 ^ 32))) := by
  unfold bitInsert
  rw [Nat.min_comm l 32]
  rw [← BitVec.toNat_ofNat ((2 ^ min 32 l - 1) * 2 ^ p) 32, nat32, BitVec.ofNat_or, ← and_not_eq_ofNat, BitVec.ofNat_and, ← shiftLeft_eq_ofNat, BitVec.ofNat_toNat, BitVec.setWidth_eq]

theorem getLsbD_seven (q : Byte) : q.getLsbD 7 = decide (128 ≤ q.toNat) := by
  rw [← BitVec.msb_eq_decide q, BitVec.msb_eq_getLsbD_last]

theorem permuteByte_eq (a b : Word) (sel : Byte) : (permuteByte a b sel).toNat = prmtByte a.toNat b.toNat sel.toNat := by
  have hq : (((b ++ a : DWord) >>> (8 * (sel.toNat % 8))).setWidth 8 : Byte).toNat
      = (a.toNat + b.toNat * 2 ^ 32) / 2 ^ (8 * (sel.toNat % 8)) % 256 := by
    rw [BitVec.toNat_setWidth, BitVec.toNat_ushiftRight, toNat_append_eq_add, Nat.add_comm, Nat.shiftRight_eq_div_pow]
  unfold permuteByte prmtByte
  simp only [← hq]
  generalize (((b ++ a : DWord) >>> (8 * (sel.toNat % 8))).setWidth 8 : Byte) = q
  split
  next h => simp [h]
  next h => simp [h]
  next h =>
    simp only [h, getLsbD_seven, decide_eq_true_eq, ← Nat.not_lt, ite_not]
    split <;> rfl
  next h0 h1 h2 => rw [if_neg h0, if_neg h1, if_neg h2]; rfl

/-- A word of four bytes, the highest first. -/
theorem word_of_bytes (x : Nat → Nat) (b0 b1 b2 b3 : Byte) (h0 : b0.toNat = x 0) (h1 : b1.toNat = x 1) (h2 : b2.toNat = x 2)
    (h3 : b3.toNat = x 3) : (b3 ++ b2 ++ b1 ++ b0 : Word) = nat32 ((List.range 4).map fun i => x i * 256 ^ i).sum := by
  have e : ((List.range 4).map fun i => x i * 256 ^ i).sum = x 0 + x 1 * 256 + x 2 * 256 ^ 2 + x 3 * 256 ^ 3 := by
    simp only [List.range_succ, List.range_zero, List.nil_append, List.map_append, List.map_cons, List.map_nil, List.sum_append,
      List.sum_cons, List.sum_nil, Nat.pow_zero, Nat.pow_one, Nat.mul_one, Nat.add_zero]
  apply BitVec.eq_of_toNat_eq
  rw [e, nat32, BitVec.toNat_ofNat, ← h0, ← h1, ← h2, ← h3]
  simp only [toNat_append_eq_add]
  omega

theorem permute_eq (a b c : Word) : permute a b c = prmtWord a.toNat b.toNat c.toNat := by
  have hb (i : Nat) : (permuteByte a b (bits (8 * i) 8 c)).toNat = prmtByte a.toNat b.toNat (c.toNat / 256 ^ i % 256) := by
    rw [permuteByte_eq, BitVec.extractLsb'_toNat, Nat.shiftRight_eq_div_pow, Nat.pow_mul]
  exact word_of_bytes (fun i => prmtByte a.toNat b.toNat (c.toNat / 256 ^ i % 256)) _ _ _ _ (hb 0) (hb 1) (hb 2) (hb 3)

/-! ### The shifted index of LEA (R172) -/

theorem leaIndex_eq (sext : Bool) (n : Nat) (y : Word) :
    ((if sext then y.signExtend 64 else y.setWidth 64) <<< n : DWord)
      = BitVec.ofInt 64 ((if sext then y.toInt else (y.toNat : Int)) * 2 ^ n) := by
  rw [← shiftLeft_ofInt]
  cases sext with
  | true => rfl
  | false => rw [if_neg Bool.false_ne_true, if_neg Bool.false_ne_true, BitVec.ofInt_natCast, BitVec.ofNat_toNat]

theorem leaIndex32_eq (sext : Bool) (n : Nat) (y : Word) :
    ((if sext then y.signExtend 64 else y.setWidth 64) <<< n : DWord).setWidth 32
      = int32 ((if sext then y.toInt else (y.toNat : Int)) * 2 ^ n) := by
  rw [leaIndex_eq, setWidth32_ofInt64]

/-! ### Dot product (R179) -/

theorem byteInt_unsigned_nonneg (i : Nat) (x : Word) : 0 ≤ byteInt false i x := Int.natCast_nonneg _

theorem foldl_add_eq_sum {α : Type} (f : α → Int) (xs : List α) (z : Int) :
    xs.foldl (fun t i => t + f i) z = z + (xs.map f).sum := by
  induction xs generalizing z with
  | nil => simp
  | cons x xs ih => rw [List.foldl_cons, ih, List.map_cons, List.sum_cons, Int.add_assoc]

theorem int32_toInt_add (c : Word) (z : Int) : int32 (c.toInt + z) = int32 (c.toNat + z) := by
  simp [int32, BitVec.ofInt_add]

theorem clampInt_signed (z : Int) : clampInt true 32 z = max (-2 ^ 31) (min (2 ^ 31 - 1) z) := by
  simp only [clampInt, minInt, maxInt, if_true]
  omega

theorem clampInt_unsigned {z : Int} (h : 0 ≤ z) : clampInt false 32 z = min (2 ^ 32 - 1) z := by
  simp only [clampInt, minInt, maxInt, Bool.false_eq_true, if_false]
  omega

theorem unsignedDot_nonneg (a b : Word) (xs : List Nat) :
    0 ≤ (xs.map fun i => byteInt false i a * byteInt false i b).sum := by
  induction xs with
  | nil => exact Int.le_refl 0
  | cons i xs ih =>
    rw [List.map_cons, List.sum_cons]
    exact Int.add_nonneg (Int.mul_nonneg (byteInt_unsigned_nonneg i a) (byteInt_unsigned_nonneg i b)) ih

theorem dot4_eq (as bs sat : Bool) (a b c : Word) : dot4 as bs sat a b c =
    (let t := (List.range 4).map fun i => byteInt as i a * byteInt bs i b
      if sat then
        if as || bs then int32 (max (-2 ^ 31) (min (2 ^ 31 - 1) (c.toInt + t.sum)))
        else int32 (min (2 ^ 32 - 1) (c.toNat + t.sum))
      else int32 (c.toNat + t.sum)) := by
  simp only [dot4, foldl_add_eq_sum]
  cases sat with
  | false => exact int32_toInt_add c _
  | true =>
    cases h : as || bs with
    | true => simp [clampInt_signed, int32]
    | false =>
      obtain ⟨rfl, rfl⟩ : as = false ∧ bs = false := by simpa using h
      have hn := unsignedDot_nonneg a b (List.range 4)
      rw [← clampInt_unsigned (Int.add_nonneg (Int.natCast_nonneg c.toNat) hn)]
      rfl

end Sys2Proof.Machine
end

section
/-!
Instructions that write registers and predicates and nothing else: an instruction whose meaning is one write gives what is
written, and the fields that pass their checks trap nothing (R63 to R67, R399, R403).
-/

namespace Sys2Proof.Machine

/-! ### From a write to what an instruction gives -/

theorem gives_of_writeD {i : Instr} {s : State} {ls : List Nat} {d : Reg} {f f' : Nat → Word}
    (h : exec i s = .next (s.writeD ls d f)) (hf : ∀ l, f l = f' l) : Gives i s (oneWord ls d f') noPred := by
  obtain rfl : f = f' := funext hf
  exact ⟨_, h, s.writeD_regsAfter ls d f⟩

theorem gives_of_writeD2 {i : Instr} {s : State} {ls : List Nat} {d : Reg} {f f' : Nat → DWord}
    (h : exec i s = .next (s.writeD2 ls d f)) (hf : ∀ l, f l = f' l) : Gives i s (pairOf ls d f') noPred := by
  obtain rfl : f = f' := funext hf
  exact ⟨_, h, s.writeD2_regsAfter ls d f⟩

theorem gives_of_writeP {i : Instr} {s : State} {ls : List Nat} {p : BitVec 3} {f f' : Nat → Bool}
    (h : exec i s = .next (s.writeP ls p f)) (hf : ∀ l, f l = f' l) : Gives i s noWord (onePred ls p f') := by
  obtain rfl : f = f' := funext hf
  exact ⟨_, h, s.writeP_regsAfter ls p f⟩

/-- A write of registers and then one of predicates are both kept. -/
theorem State.RegsAfter.then_preds {s t u : State} {reg : Nat → Nat → Option Word} {pred : Nat → Nat → Option Bool}
    (h : s.RegsAfter t reg noPred) (h' : t.RegsAfter u noWord pred) : s.RegsAfter u reg pred := by
  obtain ⟨only, mem, read, marked, p⟩ := h
  obtain ⟨only', mem', read', marked', p'⟩ := h'
  refine ⟨?_, fun a => (mem' a).trans (mem a), fun lane r hr => (read' lane r hr).trans (read lane r hr),
    fun lane r hr => (marked' lane r hr).trans ?_, fun lane i hi => (p' lane i hi).trans ?_⟩
  · rw [State.OnlyRegs, only', only]
  · rw [marked lane r hr]; simp [noWord]
  · rw [p lane i hi]; rfl

/-! ### Fields that pass their checks (R399, R403, R410) -/

theorem State.run_of_nil {s : State} {traps : List Trap} (h : traps = []) (act : State → State) : s.run traps act = act s := by
  rw [h]; rfl

theorem needBelow_of_lt {v limit : Nat} (pos : Nat) (h : v < limit) : needBelow v limit pos = [] := by
  simp [needBelow, require, h]

theorem needPair_of_even {r : Reg} (pos : Nat) (h : r.toNat % 2 = 0) : needPair r pos = [] := by
  simp [needPair, require, h]

end Sys2Proof.Machine
end

section
/-!
The short integer forms (Tables 9.3 and 9.4, R165 to R167).
-/

namespace Sys2Proof.Machine

theorem eq_nat32_toNat (x : Word) : x = nat32 x.toNat := by rw [nat32, BitVec.ofNat_toNat, BitVec.setWidth_eq]

theorem mul_eq_int32 (x : Word) (z : Int) : x * int32 z = int32 (x.toNat * z) := by simp [int32, BitVec.ofInt_mul]

theorem gives_shortInt {s : State} {i : Instr} {d : Reg} {f : Nat → Word} (h : shortInt s i = some (d, f)) :
    Gives i s (oneWord s.act d f) noPred := by
  cases i with
  | iadd => cases h; exact gives_of_writeD rfl fun _ => BitVec.add_def _ _
  | isub => cases h; exact gives_of_writeD rfl fun _ => sub_eq_ofInt _ _
  | imul => cases h; exact gives_of_writeD rfl fun _ => BitVec.mul_def
  | imulh => cases h; exact gives_of_writeD rfl fun _ => mulHigh_eq _ _
  | imulhu => cases h; exact gives_of_writeD rfl fun _ => mulHighU_eq _ _
  | imin => cases h; exact gives_of_writeD rfl fun _ => signedMin_eq_ofInt _ _
  | iminu => cases h; exact gives_of_writeD rfl fun _ => unsignedMin_eq_ofNat _ _
  | imax => cases h; exact gives_of_writeD rfl fun _ => signedMax_eq_ofInt _ _
  | imaxu => cases h; exact gives_of_writeD rfl fun _ => unsignedMax_eq_ofNat _ _
  | iabsd => cases h; exact gives_of_writeD rfl fun _ => rfl
  | and | andi => cases h; exact gives_of_writeD rfl fun _ => and_eq_ofNat _ _
  | or | ori => cases h; exact gives_of_writeD rfl fun _ => or_eq_ofNat _ _
  | xor | xori => cases h; exact gives_of_writeD rfl fun _ => xor_eq_ofNat _ _
  | andn => cases h; exact gives_of_writeD rfl fun _ => and_not_eq_ofNat _ _
  | shl | shli => cases h; exact gives_of_writeD rfl fun _ => shiftLeft_eq_ofNat _ _
  | shr | shri => cases h; exact gives_of_writeD rfl fun _ => shiftRight_eq_ofNat _ _
  | sar | sari => cases h; exact gives_of_writeD rfl fun _ => sshiftRight_eq_fdiv _ _
  | popc => cases h; exact gives_of_writeD rfl fun _ => popcount_eq _
  | clz => cases h; exact gives_of_writeD rfl fun _ => leadingZeros_eq _
  | brev => cases h; exact gives_of_writeD rfl fun _ => bitReverse_eq _
  | mov => cases h; exact gives_of_writeD rfl fun _ => eq_nat32_toNat _
  | iaddi => cases h; exact gives_of_writeD rfl fun _ => add_eq_ofInt_of_eq rfl _
  | imuli => cases h; exact gives_of_writeD rfl fun _ => mul_eq_int32 _ _
  | _ => cases h

/-- Settles O1: each form's meaning is one write of D in the active lanes, of the number its table gives. -/
theorem shortIntegerResults : Obligations.ShortIntegerResults :=
  ⟨fun _ => rfl, fun _ _ _ _ h => gives_shortInt h⟩

end Sys2Proof.Machine
end

section
/-!
The long integer forms that write one register (R169, R172 to R179).
-/

namespace Sys2Proof.Machine

theorem imadMode_cases : ∀ mode : BitVec 2, mode ≠ 3 → mode = 0 ∨ mode = 1 ∨ mode = 2 := by decide

theorem funnelAmount_le (imm : Bool) (amt : BitVec 5) (n : Nat) : (if imm then amt.toNat else n % 32) ≤ 32 := by
  split <;> omega

theorem ite_bne (p q : Bool) (x y : Word) : (if p != q then x else y) = if p = !q then x else y := by
  cases p <;> cases q <;> rfl

theorem gives_longInt {s : State} {i : Instr} {g : Guard} {d : Reg} {f : Nat → Word} (h : longInt s i = some (g, d, f)) :
    Gives i s (oneWord (s.actG g) d f) noPred := by
  cases i with
  | imad g mode =>
    simp only [longInt] at h
    split at h
    · cases h
    · next hm =>
      cases h
      obtain rfl | rfl | rfl := imadMode_cases mode hm
      · exact gives_of_writeD rfl fun _ => eq_ofInt_add_of_eq (mul_eq_ofInt ..) _
      · exact gives_of_writeD rfl fun _ => eq_ofInt_add_of_eq (mulHigh_eq ..) _
      · exact gives_of_writeD rfl fun _ => eq_ofInt_add_of_eq ((mulHighU_eq ..).trans (BitVec.ofInt_natCast ..).symm) _
  | lea g sh sext w32 =>
    cases w32 with
    | false => cases h
    | true =>
      cases h
      exact gives_of_writeD rfl fun _ => add_eq_ofInt_of_eq (leaIndex32_eq ..) _
  | lop3 => cases h; exact gives_of_writeD rfl fun _ => lut3_eq ..
  | fsh g left imm amt => cases h; exact gives_of_writeD rfl fun _ => funnel_eq left (funnelAmount_le ..) _ _
  | bfe g len pos imm => cases h; cases imm <;> exact gives_of_writeD rfl fun _ => bitExtract_eq ..
  | bfi g len pos imm => cases h; cases imm <;> exact gives_of_writeD rfl fun _ => bitInsert_eq ..
  | prmt => cases h; exact gives_of_writeD rfl fun _ => permute_eq ..
  | sel => cases h; exact gives_of_writeD rfl fun _ => ite_bne ..
  | movi => cases h; exact gives_of_writeD rfl fun _ => rfl
  | idp4 => cases h; exact gives_of_writeD rfl fun _ => dot4_eq ..
  | iaddImm32 => cases h; exact gives_of_writeD rfl fun _ => BitVec.add_def _ _
  | andImm32 => cases h; exact gives_of_writeD rfl fun _ => and_eq_ofNat _ _
  | orImm32 => cases h; exact gives_of_writeD rfl fun _ => or_eq_ofNat _ _
  | xorImm32 => cases h; exact gives_of_writeD rfl fun _ => xor_eq_ofNat _ _
  | imulImm32 => cases h; exact gives_of_writeD rfl fun _ => BitVec.mul_def
  | _ => cases h

/-- Settles O3: each form's meaning, once its checks pass, is one write of D where the guard holds. -/
theorem longIntegerResults : Obligations.LongIntegerResults := fun _ _ _ _ _ h => gives_longInt h

end Sys2Proof.Machine
end

section
/-!
The 64-bit forms and the carry forms (R170 to R172).
-/

namespace Sys2Proof.Machine

/-- The product of IMAD64 as SIGN reads its operands (R170). -/
theorem imad64Product_eq (sign : Bool) (x y : Word) :
    (if sign then x.signExtend 64 * y.signExtend 64 else x.setWidth 64 * y.setWidth 64 : DWord)
      = int64 (if sign then x.toInt * y.toInt else (x.toNat * y.toNat : Int)) := by
  cases sign with
  | true => exact signExtend64_mul x y
  | false =>
    rw [if_neg Bool.false_ne_true, if_neg Bool.false_ne_true, setWidth64_mul, int64, ← Int.natCast_mul, BitVec.ofInt_natCast]

/-- An instruction whose checks all pass and whose act writes a pair gives that pair. -/
theorem gives_of_run_writeD2 {i : Instr} {s : State} {traps : List Trap} {ls : List Nat} {d : Reg} {f f' : Nat → DWord}
    {act : State → State} (h : exec i s = .next (s.run traps act)) (hact : act s = s.writeD2 ls d f) (ht : traps = [])
    (hf : ∀ l, f l = f' l) : Gives i s (pairOf ls d f') noPred :=
  gives_of_writeD2 (by rw [h, State.run_of_nil ht, hact]) hf

theorem gives_longInt64 {s : State} {i : Instr} {g : Guard} {d : Reg} {f : Nat → DWord} (h : longInt64 s i = some (g, d, f)) :
    Gives i s (pairOf (s.actG g) d f) noPred := by
  cases i with
  | imad64 g sign =>
    obtain ⟨⟨hd, hc⟩, h⟩ := Option.ite_none_right_eq_some.1 h
    cases h
    exact gives_of_run_writeD2 rfl rfl (by simp [needPair_of_even, hd, hc]) fun _ => eq_ofInt_add_of_eq (imad64Product_eq ..) _
  | iadd64 =>
    obtain ⟨⟨hd, ha, hb⟩, h⟩ := Option.ite_none_right_eq_some.1 h
    cases h
    exact gives_of_run_writeD2 rfl rfl (by simp [needPair_of_even, hd, ha, hb]) fun _ => add_eq_ofInt_of_eq (eq_ofInt_toNat _) _
  | isub64 =>
    obtain ⟨⟨hd, ha, hb⟩, h⟩ := Option.ite_none_right_eq_some.1 h
    cases h
    exact gives_of_run_writeD2 rfl rfl (by simp [needPair_of_even, hd, ha, hb]) fun _ => sub_eq_ofInt _ _
  | lea g sh sext w32 =>
    obtain ⟨⟨rfl, hd, ha⟩, h'⟩ := Option.ite_none_right_eq_some.1 h
    cases h'
    exact gives_of_run_writeD2 rfl rfl (by simp [needPair_of_even, hd, ha]) fun _ => add_eq_ofInt_of_eq (leaIndex_eq ..) _
  | _ => cases h

theorem carrySum_eq (sub : Bool) (x y : Word) (c : Bool) :
    carrySum sub x y c = x.toNat + (if sub then 2 ^ 32 - 1 - y.toNat else y.toNat) + c.toNat := by
  cases c <;> rfl

/-- D and the carry out of IADDC and ISUBC are both written, from one sum (R171). -/
theorem gives_of_carry {i : Instr} {s : State} {sub cineg : Bool} {ls : List Nat} {ci co : BitVec 3} {d a b : Reg} {t : Nat → Nat}
    (h : exec i s = .next (s.carry sub ls ci cineg co d a b))
    (ht : ∀ l, carrySum sub (s.rd a l) (s.rd b l) (s.src.p l ci.toNat != cineg) = t l) :
    Gives i s (oneWord ls d fun l => nat32 (t l)) (onePred ls co fun l => decide (2 ^ 32 ≤ t l)) := by
  obtain rfl : _ = t := funext ht
  exact ⟨_, h, (s.writeD_regsAfter ls d _).then_preds (State.writeP_regsAfter _ ls co _)⟩

theorem gives_carryForm {s : State} {i : Instr} {g : Guard} {co : BitVec 3} {d : Reg} {t : Nat → Nat}
    (h : carryForm s i = some (g, co, d, t)) :
    Gives i s (oneWord (s.actG g) d fun l => nat32 (t l)) (onePred (s.actG g) co fun l => decide (2 ^ 32 ≤ t l)) := by
  cases i with
  | iaddc | isubc => cases h; exact gives_of_carry rfl fun _ => carrySum_eq ..
  | _ => cases h

/-- Settles O4: with even pairs no check traps and each form is one write of its pair; IADDC and ISUBC write D and the carry
out of one sum. -/
theorem pairAndCarryResults : Obligations.PairAndCarryResults :=
  ⟨fun _ _ _ _ _ h => gives_longInt64 h, fun _ _ _ _ _ _ h => gives_carryForm h⟩

end Sys2Proof.Machine
end

section
/-!
ISETP and FSETP (R168, R208, Table 10.4).
-/

namespace Sys2Proof.Machine

/-! ### COMB and the conditions of ISETP -/

theorem legal_cases : ∀ field : BitVec 2, field.toNat < 3 → field = 0 ∨ field = 1 ∨ field = 2 := by decide

theorem icond_cases : ∀ cond : BitVec 4, cond.toNat < 6 →
    cond = 0 ∨ cond = 1 ∨ cond = 2 ∨ cond = 3 ∨ cond = 4 ∨ cond = 5 := by
  decide

theorem type_cases : ∀ type : BitVec 2, type = 0 ∨ type = 1 ∨ type = 2 ∨ type = 3 := by decide

/-- A flag that says what COMB makes of a condition is what the model combines. -/
theorem combine_eq {comb : BitVec 2} (hcomb : comb.toNat < 3) {old c v : Bool} {p : Prop} (hc : c = true ↔ p)
    (hv : v = true ↔ combHolds comb old p) : combine comb old c = v := by
  rw [Bool.eq_iff_iff, hv, ← propext hc]
  obtain rfl | rfl | rfl := legal_cases comb hcomb <;> simp [combine, combHolds]

theorem icond_iff {cond : BitVec 4} (h : cond.toNat < 6) (x y : Int) : icond cond x y = true ↔ intHolds cond x y := by
  obtain rfl | rfl | rfl | rfl | rfl | rfl := icond_cases cond h <;> simp [icond, intHolds]

theorem State.setpOperand_eq_typed (s : State) (type : BitVec 2) (r : Reg) (l : Nat) : s.setpOperand type r l = s.typed type r l := by
  obtain rfl | rfl | rfl | rfl := type_cases type <;> rfl

/-! ### The relations of values, and the conditions of FSETP (Table 10.4) -/

/-- Two numbers are unequal when one is below the other. -/
theorem XVal.lt_or_lt_iff {x y : XVal} (hx : x.isNan = false) (hy : y.isNan = false) :
    (XVal.lt x y || XVal.lt y x) = true ↔ XVal.eq x y = false := by
  cases x with
  | nan => cases hx
  | inf a => cases y with
    | nan => cases hy
    | inf b => cases a <;> cases b <;> simp [XVal.lt, XVal.eq]
    | fin b n d => cases a <;> simp [XVal.lt, XVal.eq]
  | fin a m e => cases y with
    | nan => cases hy
    | inf b => cases b <;> simp [XVal.lt, XVal.eq]
    | fin b n d =>
      simp only [XVal.lt, XVal.eq, Bool.or_eq_true, decide_eq_true_eq, decide_eq_false_iff_not]
      omega

/-- The relation that a condition below 6 names (Table 10.4). -/
def relHolds (k : Nat) (x y : XVal) : Prop :=
  (k = 0 ∧ XVal.eq x y = true) ∨ (k = 1 ∧ XVal.eq x y = false) ∨ (k = 2 ∧ XVal.lt x y = true)
    ∨ (k = 3 ∧ XVal.le x y = true) ∨ (k = 4 ∧ XVal.lt y x = true) ∨ (k = 5 ∧ XVal.le y x = true)

theorem frel_iff {k : Nat} (hk : k < 6) {x y : XVal} (hx : x.isNan = false) (hy : y.isNan = false) :
    frel k x y = true ↔ relHolds k x y := by
  match k, hk with
  | 1, _ =>
    have h1 : frel 1 x y = (XVal.lt x y || XVal.lt y x) := rfl
    rw [h1, XVal.lt_or_lt_iff hx hy]
    simp [relHolds]
  | 0, _ | 2, _ | 3, _ | 4, _ | 5, _ => simp [frel, relHolds]

theorem floatHolds_iff (cond : BitVec 4) (x y : XVal) : floatHolds cond x y ↔
    if unordered x y then 6 ≤ cond.toNat ∧ cond.toNat ≤ 11 ∨ cond.toNat = 13
    else cond.toNat = 12 ∨ (cond.toNat < 12 ∧ relHolds (cond.toNat % 6) x y) := Iff.rfl

theorem State.decode_setpFmt {type : BitVec 2} (h : type.toNat < 3) (s : State) (r : Reg) (l : Nat) :
    (setpFmt type).decode ((s.rd r l).toNat % 2 ^ (setpFmt type).width) = s.floatTyped type r l := by
  have hlt : (s.rd r l).toNat < 4294967296 := (s.rd r l).isLt
  obtain rfl | rfl | rfl := legal_cases type h
  · simp [setpFmt, Fmt.width, Fmt.ebits, Fmt.fbits, State.floatTyped, State.f, State.u, Nat.mod_eq_of_lt hlt]
  · simp [setpFmt, Fmt.width, Fmt.ebits, Fmt.fbits, State.floatTyped, State.e, State.u]
  · simp [setpFmt, Fmt.width, Fmt.ebits, Fmt.fbits, State.floatTyped, State.e, State.u]

theorem fcond_iff {cond : BitVec 4} (h : cond.toNat < 14) (x y : XVal) : fcond cond x y = true ↔ floatHolds cond x y := by
  rw [floatHolds_iff]
  unfold fcond
  generalize cond.toNat = c at h ⊢
  have hc : c < 6 ∨ (6 ≤ c ∧ c < 12) ∨ c = 12 ∨ c = 13 := by omega
  cases hu : unordered x y with
  | true =>
    obtain h6 | ⟨h6, h12⟩ | rfl | rfl := hc
    · simp [h6, show c ≠ 12 by omega, show c ≠ 13 by omega, show ¬ 6 ≤ c by omega]
    · simp [h6, Nat.le_of_lt_succ h12, show c ≠ 12 by omega, show c ≠ 13 by omega]
    · simp
    · simp
  | false =>
    obtain ⟨hx, hy⟩ : x.isNan = false ∧ y.isNan = false := by simpa [unordered] using hu
    obtain h6 | ⟨h6, h12⟩ | rfl | rfl := hc
    · simp [h6, frel_iff h6 hx hy, Nat.mod_eq_of_lt h6, show c ≠ 12 by omega, show c ≠ 13 by omega, show c < 12 by omega]
    · have hk : c - 6 < 6 := by omega
      simp [h12, frel_iff hk hx hy, show c % 6 = c - 6 by omega, show c ≠ 12 by omega, show c ≠ 13 by omega, Nat.not_lt.2 h6]
    · simp
    · simp

/-! ### What ISETP and FSETP write -/

theorem gives_isetp (s : State) (pd : BitVec 3) (comb : BitVec 2) (a b : Reg) (cond : BitVec 4) (type : BitVec 2)
    (f : Nat → Bool) (hcomb : comb.toNat < 3) (hcond : cond.toNat < 6) (hpair : 2 ≤ type.toNat → a.toNat % 2 = 0 ∧ b.toNat % 2 = 0)
    (hf : ∀ l, f l = true ↔ combHolds comb (s.src.p l pd.toNat) (intHolds cond (s.typed type a l) (s.typed type b l))) :
    Gives (.isetp pd comb a b cond type) s noWord (onePred s.act pd f) := by
  have hpairs : (if 2 ≤ type.toNat then needPair a 13 ++ needPair b 6 else []) = [] := by
    split
    case isTrue h =>
      obtain ⟨ha, hb⟩ := hpair h
      rw [needPair_of_even 13 ha, needPair_of_even 6 hb]; rfl
    case isFalse => rfl
  refine gives_of_writeP (congrArg Host.Outcome.next (State.run_of_nil ?_ _)) fun l => combine_eq hcomb ?_ (hf l)
  · rw [needBelow_of_lt 20 hcomb, needBelow_of_lt 2 hcond, hpairs]; rfl
  · rw [s.setpOperand_eq_typed, s.setpOperand_eq_typed]; exact icond_iff hcond _ _

theorem gives_fsetp (s : State) (pd : BitVec 3) (comb : BitVec 2) (a b : Reg) (cond : BitVec 4) (type : BitVec 2)
    (f : Nat → Bool) (hcomb : comb.toNat < 3) (hcond : cond.toNat < 14) (htype : type.toNat < 3)
    (hf : ∀ l, f l = true ↔ combHolds comb (s.src.p l pd.toNat) (floatHolds cond (s.floatTyped type a l) (s.floatTyped type b l))) :
    Gives (.fsetp pd comb a b cond type) s noWord (onePred s.act pd f) := by
  refine gives_of_writeP (congrArg Host.Outcome.next (State.run_of_nil ?_ _)) fun l => combine_eq hcomb ?_ (hf l)
  · rw [needBelow_of_lt 20 hcomb, needBelow_of_lt 2 hcond, needBelow_of_lt 0 htype]; rfl
  · rw [← s.decode_setpFmt htype, ← s.decode_setpFmt htype]; exact fcond_iff hcond _ _

/-- Settles O2: legal fields trap nothing, and the flag written is what COMB makes of the condition. -/
theorem comparisonResults : Obligations.ComparisonResults := ⟨gives_isetp, gives_fsetp⟩

end Sys2Proof.Machine
end

section
/-!
What the cross-lane instructions share (R58, R216): a minimum width that is met issues at once, the contributing lanes of a
segment stand in ascending order, and a mask of positions is the sum of their bits.
-/

namespace Sys2Proof.Machine

/-! ### A minimum width that is met (R58, R147) -/

theorem State.WidthMet.code_lt {s : State} {code : BitVec 3} (h : s.WidthMet code) : code.toNat < 5 := h.1

theorem State.needWidth_of_widthMet {s : State} {code : BitVec 3} (h : s.WidthMet code) : s.needWidth code.toNat = [] := by
  obtain ⟨hcode, hwidth, -⟩ := h
  simp [State.needWidth, require, widthOf, hcode, hwidth]

theorem State.gather_of_widthMet {s : State} {code : BitVec 3} (h : s.WidthMet code) : s.gather code.toNat = (true, s) := by
  obtain ⟨-, -, hlacking⟩ := h
  exact if_pos hlacking

/-- With its width met and no field to trap, an instruction with a minimum width acts at once. -/
theorem State.runWide_of_widthMet {s : State} {code : BitVec 3} {traps : List Trap} (h : s.WidthMet code) (ht : traps = [])
    (act : State → State) : s.runWide code.toNat traps act = act s := by
  rw [State.runWide, State.run_of_nil (by rw [ht, State.needWidth_of_widthMet h]; rfl), State.gather_of_widthMet h]

theorem widthOf_eq_64_iff : ∀ {code : BitVec 3}, code.toNat < 5 → (widthOf code.toNat = 64 ↔ code = 4) := by decide

theorem widthOf_le_64 : ∀ {code : BitVec 3}, code.toNat < 5 → widthOf code.toNat ≤ 64 := by decide

/-! ### Ascending lists -/

section Ascending

variable {xs : List Nat}

theorem headD_mem (hne : xs ≠ []) (x : Nat) : xs.headD x ∈ xs := by
  cases xs with
  | nil => exact absurd rfl hne
  | cons a xs => exact List.mem_cons_self

theorem headD_le (h : xs.Pairwise (· < ·)) (x : Nat) {j : Nat} (hj : j ∈ xs) : xs.headD x ≤ j := by
  cases xs with
  | nil => cases hj
  | cons a xs =>
    obtain rfl | hj := List.mem_cons.1 hj
    · exact Nat.le_refl _
    · exact Nat.le_of_lt (List.rel_of_pairwise_cons h hj)

theorem getLastD_mem (hne : xs ≠ []) (x : Nat) : xs.getLastD x ∈ xs := by
  rw [List.getLastD_eq_getLast?, List.getLast?_eq_some_getLast hne]
  exact List.getLast_mem hne

theorem le_getLastD (h : xs.Pairwise (· < ·)) (x : Nat) {j : Nat} (hj : j ∈ xs) : j ≤ xs.getLastD x := by
  obtain rfl | ⟨ys, a, rfl⟩ := xs.eq_nil_or_concat
  · cases hj
  · rw [List.concat_eq_append] at h hj ⊢
    obtain ⟨-, -, hbefore⟩ := List.pairwise_append.1 h
    rw [List.getLastD_concat]
    obtain hj | hj := List.mem_append.1 hj
    · exact Nat.le_of_lt (hbefore j hj a List.mem_cons_self)
    · exact Nat.le_of_eq (List.mem_singleton.1 hj)

end Ascending

/-! ### Active lanes and segments (R63, R216) -/

theorem State.actG_pairwise (s : State) (g : Guard) : (s.actG g).Pairwise (· < ·) :=
  (List.pairwise_lt_range.filter _).filter _

theorem mem_segOf {ls : List Nat} {w l j : Nat} : j ∈ segOf ls w l ↔ j ∈ ls ∧ j / w = l / w := by
  simp [segOf]

theorem self_mem_segOf {ls : List Nat} {l : Nat} (w : Nat) (h : l ∈ ls) : l ∈ segOf ls w l := mem_segOf.2 ⟨h, rfl⟩

theorem State.segOf_pairwise (s : State) (g : Guard) (w l : Nat) : (segOf (s.actG g) w l).Pairwise (· < ·) :=
  (s.actG_pairwise g).filter _

/-- Lanes of one segment at one position are one lane. -/
theorem eq_of_position_eq {i j w : Nat} (hseg : i / w = j / w) (hpos : i % w = j % w) : i = j := by
  rw [← Nat.div_add_mod i w, hseg, hpos, Nat.div_add_mod]

/-- Lanes of a segment, in the order of their numbers, are in the order of their positions. -/
theorem position_le {i j w : Nat} (hseg : i / w = j / w) (h : i ≤ j) : i % w ≤ j % w := by
  have hi := Nat.div_add_mod i w
  have hj := Nat.div_add_mod j w
  rw [hseg] at hi
  omega

/-- No two of some lanes of a segment share a position. -/
theorem State.positions_nodup (s : State) (g : Guard) (w l : Nat) (p : Nat → Bool) :
    (((segOf (s.actG g) w l).filter p).map (· % w)).Nodup := by
  have hasc : ((segOf (s.actG g) w l).filter p).Pairwise (· < ·) := (s.segOf_pairwise g w l).filter p
  refine List.pairwise_map.2 (hasc.imp_of_mem fun hi hj hlt hpos => ?_)
  obtain ⟨hi, -⟩ := List.mem_filter.1 hi
  obtain ⟨hj, -⟩ := List.mem_filter.1 hj
  obtain ⟨-, hil⟩ := mem_segOf.1 hi
  obtain ⟨-, hjl⟩ := mem_segOf.1 hj
  exact Nat.ne_of_lt hlt (eq_of_position_eq (hil.trans hjl.symm) hpos)

/-! ### Masks of positions (R216) -/

theorem positions_foldl (w : Nat) (xs : List Nat) (m : DWord) :
    xs.foldl (fun m i => m ||| BitVec.twoPow 64 (i % w)) m = m ||| positions w xs := by
  induction xs generalizing m with
  | nil => simp [positions]
  | cons x xs ih => rw [positions, List.foldl_cons, List.foldl_cons, ih, ih (0 ||| _)]; simp [BitVec.or_assoc]

theorem positions_cons (w x : Nat) (xs : List Nat) : positions w (x :: xs) = BitVec.twoPow 64 (x % w) ||| positions w xs := by
  rw [positions, List.foldl_cons, positions_foldl]; simp

theorem getLsbD_positions {w k : Nat} {xs : List Nat} (h : k ∉ xs.map (· % w)) : (positions w xs).getLsbD k = false := by
  induction xs with
  | nil => simp [positions]
  | cons x xs ih =>
    rw [List.map_cons, List.mem_cons, not_or] at h
    obtain ⟨hx, hxs⟩ := h
    simp [positions_cons, BitVec.getLsbD_twoPow, Ne.symm hx, ih hxs]

theorem positions_eq_maskAt {w : Nat} {xs : List Nat} (h : (xs.map (· % w)).Nodup) :
    positions w xs = BitVec.ofNat 64 (maskAt w xs) := by
  induction xs with
  | nil => rfl
  | cons x xs ih =>
    rw [List.map_cons, List.nodup_cons] at h
    obtain ⟨hx, hxs⟩ := h
    have hdisjoint : BitVec.twoPow 64 (x % w) &&& positions w xs = 0 := by
      rw [BitVec.twoPow_and, getLsbD_positions hx]; rfl
    have hsum : maskAt w (x :: xs) = 2 ^ (x % w) + maskAt w xs := List.sum_cons
    rw [positions_cons, ← BitVec.add_eq_or_of_and_eq_zero _ _ hdisjoint, ih hxs, hsum, BitVec.ofNat_add]
    exact congrArg (· + _) (BitVec.eq_of_toNat_eq (by simp))

theorem State.writeMask_regsAfter (s : State) (g : Guard) {minw : BitVec 3} (hminw : minw.toNat < 5) (ls : List Nat) (d : Reg)
    (p : Nat → Nat → Bool) :
    let xs := fun l => (segOf (s.actG g) (4 * 2 ^ minw.toNat) l).filter (p l)
    s.RegsAfter (s.writeMask (4 * 2 ^ minw.toNat) ls d fun l => positions (4 * 2 ^ minw.toNat) (xs l))
      (if minw = 4 then pairOf ls d fun l => BitVec.ofNat 64 (maskAt 64 (xs l))
       else oneWord ls d fun l => nat32 (maskAt (4 * 2 ^ minw.toNat) (xs l))) noPred := by
  intro xs
  have hmask (l : Nat) : positions (4 * 2 ^ minw.toNat) (xs l) = BitVec.ofNat 64 (maskAt (4 * 2 ^ minw.toNat) (xs l)) :=
    positions_eq_maskAt (s.positions_nodup g _ l (p l))
  have h64 : 4 * 2 ^ minw.toNat = 64 ↔ minw = 4 := widthOf_eq_64_iff hminw
  simp only [State.writeMask, hmask, h64]
  split
  case isTrue h =>
    rw [h64.2 h]
    exact s.writeD2_regsAfter ls d _
  case isFalse =>
    simp only [BitVec.setWidth_ofNat_of_le (show 32 ≤ 64 by decide)]
    exact s.writeD_regsAfter ls d _

/-! ### Writes that agree in the lanes written -/

/-- Folds over a list agree where their steps do at its elements. -/
theorem foldr_eq_of_forall_mem {α β : Type} {step step' : α → β → β} {xs : List α} (h : ∀ x ∈ xs, step x = step' x) (z : β) :
    xs.foldr step z = xs.foldr step' z := by
  induction xs with
  | nil => rfl
  | cons x xs ih =>
    rw [List.foldr_cons, List.foldr_cons, h x List.mem_cons_self, ih fun y hy => h y (List.mem_cons_of_mem x hy)]

theorem State.writeD_congr (s : State) {ls : List Nat} (d : Reg) {f f' : Nat → Word} (h : ∀ l ∈ ls, f l = f' l) :
    s.writeD ls d f = s.writeD ls d f' := by
  have hrf : s.wave.rf.writeLanes ls d.toNat f = s.wave.rf.writeLanes ls d.toNat f' :=
    foldr_eq_of_forall_mem (fun l hl => by rw [h l hl]) _
  rw [State.writeD, hrf, State.writeD]

theorem State.writeP_congr (s : State) {ls : List Nat} (p : BitVec 3) {f f' : Nat → Bool} (h : ∀ l ∈ ls, f l = f' l) :
    s.writeP ls p f = s.writeP ls p f' := by
  have hrf : s.wave.rf.writePreds ls p.toNat f = s.wave.rf.writePreds ls p.toNat f' :=
    foldr_eq_of_forall_mem (fun l hl => by rw [h l hl]) _
  rw [State.writeP, hrf, State.writeP]

/-- A write of predicates and then one of registers are both kept. -/
theorem State.RegsAfter.then_words {s t u : State} {reg : Nat → Nat → Option Word} {pred : Nat → Nat → Option Bool}
    (h : s.RegsAfter t noWord pred) (h' : t.RegsAfter u reg noPred) : s.RegsAfter u reg pred := by
  obtain ⟨only, mem, read, marked, p⟩ := h
  obtain ⟨only', mem', read', marked', p'⟩ := h'
  refine ⟨?_, fun a => (mem' a).trans (mem a), fun lane r hr => (read' lane r hr).trans ?_,
    fun lane r hr => (marked' lane r hr).trans ?_, fun lane i hi => (p' lane i hi).trans (p lane i hi)⟩
  · rw [State.OnlyRegs, only', only]
  · rw [read lane r hr]; rfl
  · rw [marked lane r hr]; simp [noWord]

end Sys2Proof.Machine
end

section
/-!
REDUX and SCAN (R221): folding the words of a list is folding their numbers.
-/

namespace Sys2Proof.Machine

theorem op_cases : ∀ op : BitVec 3, op.toNat < 6 → op = 0 ∨ op = 1 ∨ op = 2 ∨ op = 3 ∨ op = 4 ∨ op = 5 := by decide

/-! ### What each operation makes of the numbers of its words -/

theorem foldl_add_words (xs : List Word) (n : Nat) :
    xs.foldl (· + ·) (nat32 n) = nat32 (n + (xs.map BitVec.toNat).sum) := by
  induction xs generalizing n with
  | nil => rfl
  | cons x xs ih =>
    have hx : nat32 n + x = nat32 (n + x.toNat) := by
      rw [nat32, nat32, BitVec.ofNat_add, BitVec.ofNat_toNat, BitVec.setWidth_eq]
    rw [List.foldl_cons, hx, ih, List.map_cons, List.sum_cons, Nat.add_assoc]

theorem toInt_signedMin (x y : Word) : (if x.sle y then x else y).toInt = min x.toInt y.toInt := by
  simp only [BitVec.sle_iff_toInt_le]; split <;> omega

theorem toInt_signedMax (x y : Word) : (if x.sle y then y else x).toInt = max x.toInt y.toInt := by
  simp only [BitVec.sle_iff_toInt_le]; split <;> omega

theorem toNat_unsignedMin (x y : Word) : (if x.ule y then x else y).toNat = min x.toNat y.toNat := by
  simp only [BitVec.ule_iff_toNat_le]; split <;> omega

theorem toNat_unsignedMax (x y : Word) : (if x.ule y then y else x).toNat = max x.toNat y.toNat := by
  simp only [BitVec.ule_iff_toNat_le]; split <;> omega

/-- Where an operation of words is one of their numbers, a fold of the words has the fold of the numbers. -/
theorem number_foldl {α : Type} {num : Word → α} {op : Word → Word → Word} {op' : α → α → α}
    (h : ∀ x y, num (op x y) = op' (num x) (num y)) (z : Word) (xs : List Word) :
    num (xs.foldl op z) = (xs.map num).foldl op' (num z) := by
  rw [List.foldl_map]
  exact (List.foldl_hom num fun x y => (h x y).symm).symm

theorem foldl_eq_int32 {op : Word → Word → Word} {op' : Int → Int → Int}
    (h : ∀ x y, (op x y).toInt = op' x.toInt y.toInt) (z : Word) (xs : List Word) :
    xs.foldl op z = int32 ((xs.map BitVec.toInt).foldl op' z.toInt) := by
  rw [← number_foldl h, int32, BitVec.ofInt_toInt]

theorem foldl_eq_nat32 {op : Word → Word → Word} {op' : Nat → Nat → Nat}
    (h : ∀ x y, (op x y).toNat = op' x.toNat y.toNat) (z : Word) (xs : List Word) :
    xs.foldl op z = nat32 ((xs.map BitVec.toNat).foldl op' z.toNat) := by
  rw [← number_foldl h, ← eq_nat32_toNat]

theorem reduceAll_eq_reduced {op : BitVec 3} (hop : op.toNat < 6) (signed : Bool) (xs : List Word) :
    reduceAll op signed xs = reduced op signed xs := by
  obtain rfl | rfl | rfl | rfl | rfl | rfl := op_cases op hop
  · exact (foldl_add_words xs 0).trans (congrArg nat32 (Nat.zero_add _))
  · cases signed with
    | true => exact foldl_eq_int32 toInt_signedMin _ xs
    | false => exact foldl_eq_nat32 toNat_unsignedMin _ xs
  · cases signed with
    | true => exact foldl_eq_int32 toInt_signedMax _ xs
    | false => exact foldl_eq_nat32 toNat_unsignedMax _ xs
  · rfl
  · rfl
  · rfl

theorem gives_redux {s : State} {minw op : BitVec 3} (hw : s.WidthMet minw) (hop : op.toNat < 6) (g : Guard) (signed : Bool)
    (d a : Reg) : Gives (.redux g minw op signed d a) s
      (oneWord (s.actG g) d fun l => reduced op signed ((segOf (s.actG g) (4 * 2 ^ minw.toNat) l).map (s.rd a))) noPred :=
  gives_of_writeD (congrArg Host.Outcome.next (State.runWide_of_widthMet hw (needBelow_of_lt 35 hop) _))
    fun _ => reduceAll_eq_reduced hop signed _

theorem gives_scan {s : State} {minw op : BitVec 3} (hw : s.WidthMet minw) (hop : op.toNat < 6) (g : Guard) (signed exc : Bool)
    (d a : Reg) : Gives (.scan g minw op signed exc d a) s
      (oneWord (s.actG g) d fun l => reduced op signed
        (((segOf (s.actG g) (4 * 2 ^ minw.toNat) l).filter fun j => if exc then decide (j < l) else decide (j ≤ l)).map (s.rd a)))
      noPred :=
  gives_of_writeD (congrArg Host.Outcome.next (State.runWide_of_widthMet hw (needBelow_of_lt 35 hop) _))
    fun _ => reduceAll_eq_reduced hop signed _

/-- Settles O11: the width is met and OP is legal, so D is written at once, with the fold of the words of a segment, which is
the fold of their numbers. -/
theorem reductionResults : Obligations.ReductionResults :=
  fun _ g _ _ signed d a hw hop => ⟨gives_redux hw hop g signed d a, fun exc => gives_scan hw hop g signed exc d a⟩

end Sys2Proof.Machine
end

section
/-!
SHFL, QSWZ and ELECT (R217, R218, R222).
-/

namespace Sys2Proof.Machine

/-! ### SHFL and QSWZ -/

theorem shflFrom_eq (mode : BitVec 2) (w j n : Nat) : shflFrom mode w j n
    = if mode = 0 then ((n % w : Nat) : Int) else if mode = 1 then (j : Int) - n
      else if mode = 2 then ((j + n : Nat) : Int) else ((j ^^^ n : Nat) : Int) := by
  obtain rfl | rfl | rfl | rfl := type_cases mode <;> rfl

theorem State.shflLane_eq (s : State) (mode : BitVec 2) (w n l : Nat) : s.shflLane mode w n l =
    (let t := shflFrom mode w (l % w) n
      let src := l / w * w + t.toNat
      if 0 ≤ t ∧ t < w ∧ s.gone src = false then some src else none) := by
  rw [shflFrom_eq]; rfl

/-- What SHFL gives a lane: A of its source lane, or what `.zf` says where there is none. -/
theorem shfl_value_eq (s : State) (mode : BitVec 2) (w n l : Nat) (own : Word) (a : Reg) :
    (let t := shflFrom mode w (l % w) n
      let src := l / w * w + t.toNat
      if 0 ≤ t ∧ t < w ∧ s.gone src = false then s.rd a src else own)
      = match s.shflLane mode w n l with
        | some k => s.rd a k
        | none => own := by
  rw [State.shflLane_eq]
  dsimp only
  split <;> rfl

theorem gives_shfl (s : State) (g : Guard) (minw : BitVec 3) (mode : BitVec 2) (imm : Bool) (limm : BitVec 6) (zf : Bool)
    (d a b : Reg) (hw : s.WidthMet minw) : Gives (.shfl g minw mode imm limm zf d a b) s
      (oneWord (s.actG g) d fun l =>
        match s.shflLane mode (4 * 2 ^ minw.toNat) (if imm then limm.toNat else s.u b l % 64) l with
        | some k => s.rd a k
        | none => if zf then 0 else s.rd a l) noPred :=
  gives_of_writeD (congrArg Host.Outcome.next (State.runWide_of_widthMet hw rfl _)) fun l => shfl_value_eq s mode _ _ l _ a

theorem gives_qswz (s : State) (g : Guard) (minw : BitVec 3) (pattern : BitVec 8) (d a : Reg) (hw : s.WidthMet minw) :
    Gives (.qswz g minw pattern d a) s
      (oneWord (s.actG g) d fun l =>
        let k := l / 4 * 4 + pattern.toNat / 4 ^ (l % 4) % 4
        if s.wave.exited.getLsbD k = true then s.rd a l else s.rd a k) noPred :=
  gives_of_writeD (congrArg Host.Outcome.next (State.runWide_of_widthMet hw rfl _)) fun _ => rfl

/-! ### ELECT -/

/-- The elected lane of an ascending segment: its first, or its last with HIGH (R222). -/
def elected (high : Bool) (seg : List Nat) (l : Nat) : Nat := if high then seg.getLastD l else seg.headD l

theorem elected_eq {high : Bool} {seg : List Nat} (hasc : seg.Pairwise (· < ·)) (l : Nat) {e : Nat} (he : e ∈ seg)
    (hbound : ∀ j ∈ seg, if high then j ≤ e else e ≤ j) : elected high seg l = e := by
  have hne := List.ne_nil_of_mem he
  cases high with
  | true => exact Nat.le_antisymm (hbound _ (getLastD_mem hne l)) (le_getLastD hasc l he)
  | false => exact Nat.le_antisymm (headD_le hasc l he) (hbound _ (headD_mem hne l))

theorem exec_elect {s : State} {minw : BitVec 3} (hw : s.WidthMet minw) (g : Guard) (pd : BitVec 3) (wd high : Bool) (d : Reg) :
    exec (.elect g minw pd wd high d) s = .next (
      let chosen := fun l => elected high (segOf (s.actG g) (4 * 2 ^ minw.toNat) l) l
      let t := s.writeP (s.actG g) pd fun l => chosen l == l
      if wd then t.writeD (s.actG g) d fun l => nat32 (chosen l) else t) :=
  congrArg Host.Outcome.next (State.runWide_of_widthMet hw rfl _)

theorem gives_elect (s : State) (g : Guard) (minw pd : BitVec 3) (wd high : Bool) (d : Reg) (e : Nat → Nat)
    (hw : s.WidthMet minw) (he : ∀ l ∈ s.actG g, e l ∈ segOf (s.actG g) (4 * 2 ^ minw.toNat) l
      ∧ ∀ j ∈ segOf (s.actG g) (4 * 2 ^ minw.toNat) l, if high then j ≤ e l else e l ≤ j) :
    Gives (.elect g minw pd wd high d) s
      (if wd then oneWord (s.actG g) d fun l => nat32 (e l) else noWord)
      (onePred (s.actG g) pd fun l => decide (e l = l)) := by
  have hchosen : ∀ l ∈ s.actG g, elected high (segOf (s.actG g) (4 * 2 ^ minw.toNat) l) l = e l := fun l hl =>
    let ⟨hmem, hbound⟩ := he l hl
    elected_eq (s.segOf_pairwise g _ l) l hmem hbound
  have hpred : (s.writeP (s.actG g) pd fun l => elected high (segOf (s.actG g) (4 * 2 ^ minw.toNat) l) l == l)
      = s.writeP (s.actG g) pd fun l => decide (e l = l) := s.writeP_congr pd fun l hl => by rw [hchosen l hl]; rfl
  have hflag := s.writeP_regsAfter (s.actG g) pd fun l => decide (e l = l)
  refine ⟨_, exec_elect hw g pd wd high d, ?_⟩
  simp only [hpred]
  cases wd with
  | false => exact hflag
  | true =>
    rw [State.writeD_congr _ d fun l hl => congrArg nat32 (hchosen l hl)]
    exact hflag.then_words (State.writeD_regsAfter _ _ d _)

/-- Settles O9: the width is met, so each is written at once; the elected lane is the first or the last of an ascending
segment, the only one that bounds it. -/
theorem shuffleAndElectResults : Obligations.ShuffleAndElectResults := ⟨⟨gives_shfl, gives_qswz⟩, gives_elect⟩

end Sys2Proof.Machine
end

section
/-!
VOTE and MATCH (R219, R220).
-/

namespace Sys2Proof.Machine

/-! ### VOTE -/

/-- The predicate that VOTE writes in a segment (R219): some, all, or all or none of its lanes vote yes. -/
def voteOf (mode : BitVec 2) (seg : List Nat) (v : Nat → Bool) : Bool :=
  let n := seg.length
  let k := (seg.filter v).length
  if mode = 0 then k != 0 else if mode = 1 then k == n else k == 0 || k == n

/-- All lanes vote alike when none or every one of them votes yes. -/
theorem all_equal_iff (seg : List Nat) (v : Nat → Bool) :
    (∀ i ∈ seg, ∀ j ∈ seg, v i = v j) ↔ (∀ j ∈ seg, v j = false) ∨ ∀ j ∈ seg, v j = true := by
  constructor
  · intro h
    by_cases hyes : ∃ i ∈ seg, v i = true
    · obtain ⟨i, hi, hv⟩ := hyes
      exact .inr fun j hj => (h j hj i hi).trans hv
    · exact .inl fun j hj => Bool.eq_false_iff.2 fun hv => hyes ⟨j, hj, hv⟩
  · rintro (h | h) i hi j hj
    · rw [h i hi, h j hj]
    · rw [h i hi, h j hj]

theorem voteOf_iff {mode : BitVec 2} (hmode : mode ≠ 2) (seg : List Nat) (v : Nat → Bool) : voteOf mode seg v = true ↔
    (mode = 0 ∧ ∃ j ∈ seg, v j = true) ∨ (mode = 1 ∧ ∀ j ∈ seg, v j = true)
      ∨ (mode = 3 ∧ ∀ i ∈ seg, ∀ j ∈ seg, v i = v j) := by
  obtain rfl | rfl | rfl | rfl := type_cases mode
  · simp [voteOf]
  · simp [voteOf, List.length_filter_eq_length_iff]
  · exact absurd rfl hmode
  · rw [all_equal_iff]
    simp [voteOf, List.length_filter_eq_length_iff]

theorem exec_vote {s : State} {minw : BitVec 3} {mode : BitVec 2} {cnt : Bool} {d : Reg} (hw : s.WidthMet minw)
    (hpair : mode = 2 → minw = 4 → cnt = false → d.toNat % 2 = 0) (g : Guard) (ps : BitVec 3) (neg : Bool) (pd : BitVec 3) :
    exec (.vote g minw mode ps neg pd cnt d) s = .next (
      let seg := segOf (s.actG g) (4 * 2 ^ minw.toNat)
      let v := fun l => s.src.p l ps.toNat != neg
      let yes := fun l => (seg l).filter v
      if mode = 2 then
        if cnt then s.writeD (s.actG g) d fun l => nat32 (yes l).length
        else s.writeMask (4 * 2 ^ minw.toNat) (s.actG g) d fun l => positions (4 * 2 ^ minw.toNat) (yes l)
      else s.writeP (s.actG g) pd fun l => voteOf mode (seg l) v) := by
  refine congrArg Host.Outcome.next (State.runWide_of_widthMet hw ?_ _)
  split
  case isTrue h =>
    obtain ⟨hmode, hminw, hcnt⟩ := h
    exact needPair_of_even 25 (hpair hmode hminw hcnt)
  case isFalse => rfl

theorem gives_vote (s : State) (g : Guard) (minw : BitVec 3) (mode : BitVec 2) (ps : BitVec 3) (neg : Bool) (pd : BitVec 3)
    (cnt : Bool) (d : Reg) (f : Nat → Bool) (hw : s.WidthMet minw)
    (hpair : mode = 2 → minw = 4 → cnt = false → d.toNat % 2 = 0) :
    let seg := segOf (s.actG g) (4 * 2 ^ minw.toNat)
    let v := fun l => s.src.p l ps.toNat != neg
    let yes := fun l => (seg l).filter v
    (∀ l, f l = true ↔ (mode = 0 ∧ ∃ j ∈ seg l, v j = true) ∨ (mode = 1 ∧ ∀ j ∈ seg l, v j = true)
      ∨ (mode = 3 ∧ ∀ i ∈ seg l, ∀ j ∈ seg l, v i = v j)) →
    Gives (.vote g minw mode ps neg pd cnt d) s
      (if mode ≠ 2 then noWord
       else if cnt then oneWord (s.actG g) d fun l => nat32 (yes l).length
       else if minw = 4 then pairOf (s.actG g) d fun l => BitVec.ofNat 64 (maskAt 64 (yes l))
       else oneWord (s.actG g) d fun l => nat32 (maskAt (4 * 2 ^ minw.toNat) (yes l)))
      (if mode = 2 then noPred else onePred (s.actG g) pd f) := by
  intro seg v yes hf
  have hexec := exec_vote hw hpair g ps neg pd
  by_cases hmode : mode = 2
  · simp only [if_pos hmode, if_neg (not_not_intro hmode)] at hexec ⊢
    cases cnt with
    | true => exact gives_of_writeD hexec fun _ => rfl
    | false => exact ⟨_, hexec, s.writeMask_regsAfter g hw.code_lt (s.actG g) d fun _ => v⟩
  · simp only [if_neg hmode, if_pos hmode] at hexec ⊢
    exact gives_of_writeP hexec fun l => Bool.eq_iff_iff.2 ((voteOf_iff hmode _ v).trans (hf l).symm)

/-! ### MATCH -/

/-- The lanes of a segment that hold the value of a lane, in one register or in a pair (R220). -/
def State.sameValue (s : State) (wide : Bool) (a : Reg) (l j : Nat) : Bool :=
  if wide then decide (s.u2 a j = s.u2 a l) else decide (s.u a j = s.u a l)

theorem State.sameValue_self (s : State) (wide : Bool) (a : Reg) (l : Nat) : s.sameValue wide a l l = true := by
  cases wide <;> simp [State.sameValue]

/-- MATCH compares values of 64 bits, a register extended by zeros among them. -/
theorem State.matchValue_beq (s : State) (wide : Bool) (a : Reg) (l j : Nat) :
    ((if wide then s.rd2 a j else (s.rd a j).setWidth 64) == if wide then s.rd2 a l else (s.rd a l).setWidth 64)
      = s.sameValue wide a l j := by
  rw [Bool.eq_iff_iff, beq_iff_eq, ← BitVec.toNat_inj]
  cases wide with
  | true => exact decide_eq_true_iff.symm
  | false =>
    have hextend (k : Nat) : ((s.rd a k).setWidth 64).toNat = s.u a k := BitVec.toNat_setWidth_of_le (by decide)
    simp only [Bool.false_eq_true, if_false, hextend]
    exact decide_eq_true_iff.symm

/-- The group of a lane: the contributing lanes of its segment that hold its value (R220). -/
def State.matchGroup (s : State) (g : Guard) (w : Nat) (wide : Bool) (a : Reg) (l : Nat) : List Nat :=
  (segOf (s.actG g) w l).filter (s.sameValue wide a l)

section Group

variable {s : State} {g : Guard} {w : Nat} {wide : Bool} {a : Reg} {l : Nat}

theorem State.self_mem_matchGroup (h : l ∈ s.actG g) : l ∈ s.matchGroup g w wide a l :=
  List.mem_filter.2 ⟨self_mem_segOf w h, s.sameValue_self wide a l⟩

theorem State.segment_of_mem_matchGroup {j : Nat} (h : j ∈ s.matchGroup g w wide a l) : j / w = l / w := by
  obtain ⟨hmem, -⟩ := List.mem_filter.1 h
  obtain ⟨-, hseg⟩ := mem_segOf.1 hmem
  exact hseg

theorem State.matchGroup_pairwise : (s.matchGroup g w wide a l).Pairwise (· < ·) := (s.segOf_pairwise g w l).filter _

/-- A lane leads its group when no lane of the group is below it. -/
theorem State.leads_eq (h : l ∈ s.actG g) :
    ((s.matchGroup g w wide a l).headD l == l) = decide (∀ j ∈ s.matchGroup g w wide a l, l ≤ j) := by
  have hself := State.self_mem_matchGroup (w := w) (wide := wide) (a := a) h
  rw [Bool.eq_iff_iff, beq_iff_eq, decide_eq_true_iff]
  constructor
  · intro hhead j hj
    exact hhead ▸ headD_le State.matchGroup_pairwise l hj
  · intro hle
    exact Nat.le_antisymm (headD_le State.matchGroup_pairwise l hself) (hle _ (headD_mem (List.ne_nil_of_mem hself) l))

/-- The position of the leader is the least position of the group. -/
theorem State.leader_position_eq (hpos : 0 < w) (hw : w ≤ 64) (h : l ∈ s.actG g) :
    ((s.matchGroup g w wide a l).map (· % w)).foldl min 63 = (s.matchGroup g w wide a l).headD l % w := by
  have hne := List.ne_nil_of_mem (State.self_mem_matchGroup (w := w) (wide := wide) (a := a) h)
  have hhead := headD_mem hne l
  have hleast : ((s.matchGroup g w wide a l).map (· % w)).min? = some ((s.matchGroup g w wide a l).headD l % w) := by
    refine List.min?_eq_some_iff.2 ⟨List.mem_map_of_mem hhead, fun p hp => ?_⟩
    obtain ⟨j, hj, rfl⟩ := List.mem_map.1 hp
    exact position_le ((State.segment_of_mem_matchGroup hhead).trans (State.segment_of_mem_matchGroup hj).symm)
      (headD_le State.matchGroup_pairwise l hj)
  have hlt : (s.matchGroup g w wide a l).headD l % w < w := Nat.mod_lt _ hpos
  rw [List.foldl_min, hleast, Option.getD_some]
  exact Nat.min_eq_right (by omega)

end Group

theorem exec_matchLanes {s : State} {minw : BitVec 3} {rank wide : Bool} {d a : Reg} (hw : s.WidthMet minw)
    (hd : minw = 4 → rank = false → d.toNat % 2 = 0) (ha : wide = true → a.toNat % 2 = 0) (g : Guard) (pd : BitVec 3) :
    exec (.matchLanes g minw rank wide pd d a) s = .next (
      let w := 4 * 2 ^ minw.toNat
      let group := s.matchGroup g w wide a
      (if rank then s.writeD (s.actG g) d fun l =>
          nat32 (((group l).filter fun j => decide (j < l)).length + (group l).length * 2 ^ 8 + (group l).headD l % w * 2 ^ 16)
        else s.writeMask w (s.actG g) d fun l => positions w (group l)).writeP (s.actG g) pd fun l => (group l).headD l == l) := by
  have hpairs : (if minw = 4 ∧ rank = false then needPair d 25 else []) ++ (if wide then needPair a 18 else []) = [] := by
    refine List.append_eq_nil_iff.2 ⟨?_, ?_⟩
    · split
      case isTrue h =>
        obtain ⟨hminw, hrank⟩ := h
        exact needPair_of_even 25 (hd hminw hrank)
      case isFalse => rfl
    · split
      case isTrue h => exact needPair_of_even 18 (ha h)
      case isFalse => rfl
  refine congrArg Host.Outcome.next ((State.runWide_of_widthMet hw hpairs _).trans ?_)
  simp only [State.matchValue_beq]
  rfl

theorem gives_matchLanes (s : State) (g : Guard) (minw : BitVec 3) (rank wide : Bool) (pd : BitVec 3) (d a : Reg)
    (hw : s.WidthMet minw) (hd : minw = 4 → rank = false → d.toNat % 2 = 0) (ha : wide = true → a.toNat % 2 = 0) :
    let w := 4 * 2 ^ minw.toNat
    let group := s.matchGroup g w wide a
    Gives (.matchLanes g minw rank wide pd d a) s
      (if rank then oneWord (s.actG g) d fun l =>
          nat32 (((group l).filter fun j => decide (j < l)).length + 2 ^ 8 * (group l).length
            + 2 ^ 16 * (((group l).map (· % w)).foldl min 63))
       else if minw = 4 then pairOf (s.actG g) d fun l => BitVec.ofNat 64 (maskAt 64 (group l))
       else oneWord (s.actG g) d fun l => nat32 (maskAt w (group l)))
      (onePred (s.actG g) pd fun l => decide (∀ j ∈ group l, l ≤ j)) := by
  intro w group
  refine ⟨_, exec_matchLanes hw hd ha g pd, ?_⟩
  dsimp only
  rw [State.writeP_congr _ pd fun l hl => State.leads_eq hl]
  refine State.RegsAfter.then_preds ?_ (State.writeP_regsAfter _ _ pd _)
  cases rank with
  | false => exact s.writeMask_regsAfter g hw.code_lt (s.actG g) d (s.sameValue wide a)
  | true =>
    have hpos : 0 < w := Nat.mul_pos (by decide) (Nat.two_pow_pos _)
    have hvalue : ∀ l ∈ s.actG g, nat32 (((group l).filter fun j => decide (j < l)).length + (group l).length * 2 ^ 8
          + (group l).headD l % w * 2 ^ 16)
        = nat32 (((group l).filter fun j => decide (j < l)).length + 2 ^ 8 * (group l).length
          + 2 ^ 16 * (((group l).map (· % w)).foldl min 63)) := fun l hl => by
      rw [State.leader_position_eq hpos (widthOf_le_64 hw.code_lt) hl, Nat.mul_comm (group l).length, Nat.mul_comm (_ % w)]
    simp only [if_true]
    rw [s.writeD_congr d hvalue]
    exact s.writeD_regsAfter (s.actG g) d _

/-- Settles O10: the width is met and the pairs are even, so each is written at once; a ballot is counted, or is the sum of the
bits at its positions, and the leader of a group is the first of an ascending list. -/
theorem voteAndMatchResults : Obligations.VoteAndMatchResults := ⟨gives_vote, gives_matchLanes⟩

end Sys2Proof.Machine
end
